-- ==== Sys2Proof/Word.lean ====
section
/-! DEFINITION. The word types of the Linmet 960 and nothing else. -/

namespace Sys2Proof

/-- One byte. -/
abbrev Byte := BitVec 8

/-- A 64-bit scalar register or system register (R294, R340). -/
abbrev Word := BitVec 64

/-- A 1 KiB row: a vector register, a scratchpad row, four tile rows (R167, R397). -/
abbrev Row := BitVec 8192

/-- A predicate register (R294). -/
abbrev Pred := BitVec 512

/-- A 256-bit bundle (R286). -/
abbrev Bundle := BitVec 256

end Sys2Proof
end

