-- ==== Sys2Proof/Syntax.lean ====
section
/-! DEFINITION. The syntax: one constructor for every step of the opcode table. Slot instructions carry the raw fields of
their format (R290 to R293), reserved and ignored bits included, so that a word and its instruction determine each other;
events carry what they name. -/

namespace Sys2Proof

/-- The five slots of a bundle (R286). -/
inductive SlotKind where
  | a | b | v | t | e
  deriving DecidableEq, Repr

/-- Format S.R (R290). -/
structure SR where
  fn : BitVec 8
  ng : BitVec 1
  pg : BitVec 5
  b : BitVec 6
  a : BitVec 6
  d : BitVec 6
  deriving DecidableEq, Repr

/-- Format S.I (R290). -/
structure SI where
  ng : BitVec 1
  pg : BitVec 5
  imm : BitVec 14
  a : BitVec 6
  d : BitVec 6
  deriving DecidableEq, Repr

/-- Format S.L (R290). -/
structure SL where
  imm : BitVec 26
  d : BitVec 6
  deriving DecidableEq, Repr

/-- Format V.R (R291); the mode of a rounding group is a field of its constructor. -/
structure VR where
  ty : BitVec 3
  ng : BitVec 1
  pg : BitVec 5
  b : BitVec 9
  a : BitVec 9
  d : BitVec 9
  cm : BitVec 4
  deriving DecidableEq, Repr

/-- Format T.G (R292). -/
structure TG where
  ng : BitVec 1
  pg : BitVec 5
  xs : BitVec 6
  td : BitVec 4
  tb : BitVec 5
  ta : BitVec 5
  ss : BitVec 4
  se : BitVec 1
  sw : BitVec 4
  we : BitVec 1
  cm : BitVec 4
  deriving DecidableEq, Repr

/-- Format E.R (R293). -/
structure ER where
  rsv : BitVec 4
  ng : BitVec 1
  pg : BitVec 5
  fn : BitVec 8
  xc : BitVec 6
  xb : BitVec 6
  xa : BitVec 6
  cm : BitVec 4
  deriving DecidableEq, Repr

/-- Format E.V (R293). -/
structure EV where
  rsv : BitVec 4
  xa : BitVec 6
  fn : BitVec 8
  a : BitVec 9
  d : BitVec 9
  cm : BitVec 4
  deriving DecidableEq, Repr

/-- Format E.I (R293). -/
structure EI where
  imm : BitVec 30
  xa : BitVec 6
  cm : BitVec 4
  deriving DecidableEq, Repr

/-- What gwyn's print command shows (R445). -/
inductive GwynView where
  | scalar (n : Nat)
  | pred (n : Nat)
  | system (n : Nat)
  | generator (n : Nat)
  | vector (cell row first last width : Nat)
  deriving DecidableEq, Repr

/-- The operands of an event: the unit it happens at and the data that comes with it, as the constructor of the event says.
Slot instructions do not use them. -/
structure EvArg where
  a : Nat
  b : Nat
  c : Nat
  d : Nat
  e : Nat
  word : BitVec 64
  wide : BitVec 1024
  bytes : List Byte
  view : GwynView
  deriving DecidableEq, Repr

/-- No operands. -/
def EvArg.none : EvArg :=
  { a := 0, b := 0, c := 0, d := 0, e := 0, word := 0, wide := 0, bytes := [], view := .scalar 0 }

/-- Every step of the part (spec/opcode_table.json): slot instructions with their fields, then the events of the other
units and of the outside world, whose operands stand in an EvArg (the comment names them). -/
inductive Instr where
  | nop
  | hint (n : BitVec 4)
  | add (f : SR)
  | sub (f : SR)
  | mul (f : SR)
  | mulh (f : SR)
  | mulhn (f : SR)
  | div (f : SR)
  | divn (f : SR)
  | rem (f : SR)
  | remn (f : SR)
  | andx (f : SR)
  | orx (f : SR)
  | xorx (f : SR)
  | andn (f : SR)
  | shl (f : SR)
  | shr (f : SR)
  | sra (f : SR)
  | rot (f : SR)
  | clz (f : SR)
  | ctz (f : SR)
  | popc (f : SR)
  | min (f : SR)
  | max (f : SR)
  | minn (f : SR)
  | maxn (f : SR)
  | ext (f : SR)
  | extn (f : SR)
  | ins (f : SR)
  | sel (f : SR)
  | pcmp (f : SR)
  | plog (f : SR)
  | xtop (f : SR)
  | ptox (f : SR)
  | addi (f : SI)
  | andi (f : SI)
  | ori (f : SI)
  | xori (f : SI)
  | shli (f : SI)
  | shri (f : SI)
  | srai (f : SI)
  | roti (f : SI)
  | lea (f : SI)
  | pcmpiEq (f : SI)
  | pcmpiNe (f : SI)
  | pcmpiLt (f : SI)
  | pcmpiLe (f : SI)
  | pcmpiGt (f : SI)
  | pcmpiGe (f : SI)
  | pcmpiLtn (f : SI)
  | pcmpiLen (f : SI)
  | pcmpiGtn (f : SI)
  | pcmpiGen (f : SI)
  | li (f : SL)
  | lih (f : SL)
  | ldb (f : SI)
  | ldbn (f : SI)
  | ldh (f : SI)
  | ldhn (f : SI)
  | ldw (f : SI)
  | ldwn (f : SI)
  | ldd (f : SI)
  | stb (f : SI)
  | sth (f : SI)
  | stw (f : SI)
  | std (f : SI)
  | ldbAcq (f : SR)
  | ldbnAcq (f : SR)
  | ldhAcq (f : SR)
  | ldhnAcq (f : SR)
  | ldwAcq (f : SR)
  | ldwnAcq (f : SR)
  | lddAcq (f : SR)
  | stbRel (f : SR)
  | sthRel (f : SR)
  | stwRel (f : SR)
  | stdRel (f : SR)
  | amo (f : SR)
  | cas (f : SR)
  | red (f : SR)
  | fenceAcq (f : SR)
  | fenceRel (f : SR)
  | fenceFull (f : SR)
  | fenceRed (f : SR)
  | fenceEng (f : SR)
  | waita (f : SR)
  | cwb (f : SR)
  | cinv (f : SR)
  | cwbi (f : SR)
  | pfr (f : SR)
  | fadd (f : SR)
  | fsub (f : SR)
  | fmul (f : SR)
  | ffma (f : SR)
  | fdiv (f : SR)
  | fsqrt (f : SR)
  | fmin (f : SR)
  | fmax (f : SR)
  | fcmp (f : SR)
  | fcvt (f : SR)
  | br (f : SI)
  | brl (f : SI)
  | jr (f : SR)
  | jrl (f : SR)
  | loop (f : SI)
  | loopx (f : SI)
  | idle (f : SI)
  | seg (f : SI)
  | key (f : SL)
  | rgn (f : SI)
  | tend (f : SI)
  | isync (f : SI)
  | sysr (f : SI)
  | sysw (f : SI)
  | trap (f : SL)
  | tret (f : SI)
  | brk (f : SL)
  | vmin (f : VR)
  | vmax (f : VR)
  | vabs (f : VR)
  | vneg (f : VR)
  | vclamp (f : VR)
  | viadd (f : VR)
  | visub (f : VR)
  | vimul (f : VR)
  | vimulh (f : VR)
  | vand (f : VR)
  | vor (f : VR)
  | vxor (f : VR)
  | vandn (f : VR)
  | vshl (f : VR)
  | vshr (f : VR)
  | vsra (f : VR)
  | vadd (rm : BitVec 3) (f : VR)
  | vsub (rm : BitVec 3) (f : VR)
  | vmul (rm : BitVec 3) (f : VR)
  | vfma (rm : BitVec 3) (f : VR)
  | vfnma (rm : BitVec 3) (f : VR)
  | vscale (rm : BitVec 3) (f : VR)
  | vrcp (rm : BitVec 3) (f : VR)
  | vrsq (rm : BitVec 3) (f : VR)
  | vexp2 (rm : BitVec 3) (f : VR)
  | vlog2 (rm : BitVec 3) (f : VR)
  | vcvt (rm : BitVec 3) (f : VR)
  | vcvtfx (rm : BitVec 3) (f : VR)
  | vscan (rm : BitVec 3) (f : VR)
  | vsegsum (rm : BitVec 3) (f : VR)
  | vred (rm : BitVec 3) (f : VR)
  | vimin (f : VR)
  | vimax (f : VR)
  | viminn (f : VR)
  | vimaxn (f : VR)
  | vsel (f : VR)
  | vmov (f : VR)
  | vbcast (f : VR)
  | viota (f : VR)
  | vperm (f : VR)
  | vrot (f : VR)
  | vcxs (f : VR)
  | vextr (f : VR)
  | vins (f : VR)
  | vcmpr (f : VR)
  | vpcnt (f : VR)
  | vrng (f : VR)
  | vtma (f : VR)
  | vtmm (f : VR)
  | vtmf (f : VR)
  | vcmpEq (f : VR)
  | vcmpNe (f : VR)
  | vcmpLt (f : VR)
  | vcmpLe (f : VR)
  | vcmpGt (f : VR)
  | vcmpGe (f : VR)
  | vicmpEq (f : VR)
  | vicmpNe (f : VR)
  | vicmpLt (f : VR)
  | vicmpLe (f : VR)
  | vicmpGt (f : VR)
  | vicmpGe (f : VR)
  | vicmpLtn (f : VR)
  | vicmpLen (f : VR)
  | vicmpGtn (f : VR)
  | vicmpGen (f : VR)
  | tld (f : TG)
  | tst (f : TG)
  | tfill (f : TG)
  | tzero (f : TG)
  | wld (f : TG)
  | mma (f : TG)
  | mmas (f : TG)
  | azero (f : TG)
  | drain (f : TG)
  | fpush (f : TG)
  | tstat (f : TG)
  | tclr (f : TG)
  | trsum (f : TG)
  | tcsum (f : TG)
  | xfer (f : ER)
  | xferRow (f : ER)
  | sfop (f : EV)
  | sftab (f : ER)
  | span (f : ER)
  | spend (f : EI)
  | rev (f : EI)
  | rpush (f : EV)
  | rpop (f : EV)
  | rseed (f : ER)
  | psend (f : EV)
  | psendG (f : EV)
  | precv (f : EV)
  | precvG (f : EV)
  | coll (f : ER)
  | shpin (f : ER)
  | shrel (f : ER)
  | nnq (f : ER)
  | tspawn (f : ER)
  | natm (f : ER)
  | ovl (f : ER)
  | pswap (f : EI)
  | pbind (f : ER)
  | pbindOff (f : ER)
  | pparm (f : ER)
  | phase (f : EI)
  | unassignedOpcode (bits : BitVec 48)
  | coldReset
  | coldResetRequest
  | imagePushWrite   -- a: off, bytes: bytes
  | debugHalt   -- a: 0 the monitor halts the clock, else deep idle
  | clockResume
  | droopDetect   -- a: die
  | stretchEpisodeEnd
  | thermalWarning   -- a: die
  | thermalTrip   -- a: die
  | requestTimeout   -- a: core, b: tag, 4096 for the read of its WAITA; a = 256 + die: a request of the engines of that die
  | replyReceive   -- a: k
  | flitReceive   -- a: port, wide: flit
  | nakReceive   -- a: port, b: seq
  | portRetrain   -- a: port, b: ok
  | timeFlitReceive   -- a: port, b: secs, c: nanos
  | ppsEdge
  | explorationRequest
  | explorationStart
  | exploreProbe   -- a: die, b: port, wide: flit
  | exploreReport   -- a: die, b: port, wide: flit
  | explorationEnd
  | keySlotLoad   -- a: key
  | keySlotClear   -- a: key
  | registerWrite   -- a: off, word: val
  | counterWrap   -- a: owner, b: n
  | dieLogTailWrite   -- a: die, word: val
  | stackLogTailWrite   -- a: stack, word: val
  | slipLogTailWrite   -- word: val
  | hostBar4Read   -- a: off, b: len
  | hostBar4Write   -- a: off, bytes: bytes
  | spdmGetVersion   -- bytes: msg
  | spdmGetCapabilities   -- bytes: msg
  | spdmNegotiateAlgorithms   -- bytes: msg
  | spdmGetDigests   -- bytes: msg
  | spdmGetCertificate   -- bytes: msg
  | spdmChallenge   -- bytes: msg
  | spdmGetMeasurements   -- bytes: msg
  | spdmUnsupported   -- bytes: msg
  | launchSlotWrite   -- a: slot, b: off, bytes: bytes
  | entryCommit   -- a: slot, word: ctl
  | ptpTimeSet   -- a: secs, b: nanos
  | foriginWrite   -- a: secs, b: nanos
  | frameOriginSwitch
  | loaderStart
  | loaderUnload
  | hostDepDecrement   -- a: slot
  | arrivalEntryWrite   -- a: idx, b: 0 all of it, 1 its first 8 bytes, 2 the other 8, wide: val
  | arrivalMatch
  | tlbShootdown   -- word: val
  | replayRelease   -- a: die, b: chan
  | replayDiscard   -- a: die, b: chan
  | frameBoundary
  | heldBoundaryOpen
  | entryRelease   -- a: slot
  | quadGrant
  | taskStart   -- a: slot, b: run
  | poolNextRun   -- a: slot, b: quad
  | runComplete   -- a: slot, b: run
  | entryComplete   -- a: slot
  | entryFail   -- a: slot, b: quad, c: cause
  | preemptRequest   -- a: slot, b: victim
  | contextSave   -- a: slot, b: run
  | preemptResume   -- a: slot, b: run
  | commandStart   -- a: quad, b: cell, c: queue
  | timedArrival   -- a: quad
  | portRowRead   -- a: quad, b: cell, c: port
  | portEntryWrite   -- a: quad, b: cell, c: port
  | loadReply   -- a: quad
  | waitaReturn   -- a: quad
  | trapEntry   -- a: quad
  | deferredTrap   -- a: quad
  | residualHold   -- a: quad, b: cell
  | residualHoldEnd   -- a: quad
  | spillBatch   -- a: quad, b: cell
  | spillComplete   -- a: quad, b: cell
  | runAheadRead   -- a: quad, b: cell
  | demandReadReturn   -- a: quad, b: cell
  | bteChunk   -- a: die, b: chan
  | bteCommandComplete   -- a: die, b: chan
  | ceRecordAccept   -- a: die
  | ceTransferEmit   -- a: die
  | ceTransferReceive   -- a: die; from another package also b: port, wide: header, bytes: data
  | ceAcknowledge   -- a: die; from another package also b: record + 1, c: status, d: element
  | codedBlockArrive
  | codedPacketDecode   -- a: die
  | fallbackRequest   -- a: die
  | pairRowDeliver   -- a: quad
  | pairCreditReturn   -- a: quad
  | sftabSwitch
  | ovlComplete   -- a: quad
  | pfrComplete   -- a: die
  | rdcLineExpiry   -- a: die, b: line
  | stackRd   -- a: stack
  | stackWr   -- a: stack
  | stackWrm   -- a: stack
  | stackAtom   -- a: stack
  | stackRed   -- a: stack
  | stackReduce   -- a: stack
  | stackSrch   -- a: stack
  | stackZfill   -- a: stack
  | ingressGrant   -- a: stack, b: chan
  | ingressAging   -- a: stack, b: chan
  | granuleReadResolve   -- a: stack, b: chan
  | writeDrain   -- a: stack, b: chan
  | starvationTimeout   -- a: stack, b: chan
  | redBatchAck   -- a: stack, b: core
  | redAckTimeout   -- a: stack, b: core
  | reduceChunk   -- a: stack
  | eccError   -- a: stack, b: addr (stack-local, or a far physical address from 2^40 on)
  | migrationPoll   -- a: stack
  | migrateToFar   -- a: stack
  | migrateToNear   -- a: stack
  | migrateFetch   -- a: stack
  | migrateBadOp   -- a: stack
  | searchRound   -- a: stack, b: q
  | listMessage   -- a: stack
  | distMessage   -- a: stack
  | searchComplete   -- a: stack, b: q
  | gwynBreak   -- a: core, b: bundle
  | gwynRun
  | gwynCont
  | gwynPrint   -- a: core, view: what
  | gwynMem   -- a: core, b: va, c: width, d: count
  | gwynSpm   -- a: core, b: cell, c: addr, d: width, e: count
  | gwynRdc   -- a: die, b: core, c: va, d: width, e: count (0 for no data)
  | resendFromStaging   -- a: die, b: k
  | monitorAttach
  | monitorDetach
  deriving DecidableEq, Repr

end Sys2Proof
end

