-- ==== Sys2Proof/WellFormed.lean ====
section
/-! DEFINITION. Well-formedness: the units an event names exist, a slot instruction stands in a slot whose map holds it,
and the fields that select among constructors of one opcode hold the selected value. -/

namespace Sys2Proof

/-- The opcode values each slot's map assigns, hints and NOP included (R303 to R307); the rm values 0b110 and 0b111 of the
rounding groups are not assigned (R305). -/
def assignedOpcode : SlotKind → Nat → Bool
  | .a, op => op ≤ 0x29 || (0x30 ≤ op && op ≤ 0x3B) || (0x70 ≤ op && op ≤ 0x79) || (0x80 ≤ op && op ≤ 0x90) || 0xF0 ≤ op
  | .b, op => op ≤ 0x29 || (0x30 ≤ op && op ≤ 0x3B) || (0x40 ≤ op && op ≤ 0x46) || (0x48 ≤ op && op ≤ 0x4B)
      || (0x50 ≤ op && op ≤ 0x56) || (0x58 ≤ op && op ≤ 0x5B) || (0x60 ≤ op && op ≤ 0x68)
      || (0x70 ≤ op && op ≤ 0x79) || 0xF0 ≤ op
  | .v, op => op ≤ 0x0F || (0x10 ≤ op && op < 0x88 && op % 8 < 6) || (0x90 ≤ op && op ≤ 0xA3)
      || (0xB0 ≤ op && op ≤ 0xB5) || (0xC0 ≤ op && op ≤ 0xC9) || 0xF0 ≤ op
  | .t, op => op ≤ 0x0E || 0xF0 ≤ op
  | .e, op => op ≤ 0x17 || 0xF0 ≤ op

/-- An opcode of the A and B map that both slots own. -/
def sharedOpcode (op : Nat) : Bool :=
  op ≤ 0x29 || (0x30 ≤ op && op ≤ 0x3B) || (0x70 ≤ op && op ≤ 0x79) || 0xF0 ≤ op

/-- The slot bits of slots A and B are 40 wide, of V, T and E 48 (R286). -/
def slotWidth : SlotKind → Nat
  | .a | .b => 40
  | .v | .t | .e => 48

/-- Slots A and B both own the instruction. -/
def SlotKind.isScalar : SlotKind → Bool
  | .a | .b => true
  | .v | .t | .e => false

/-- The bits of an unassigned slot: its opcode is not assigned, or it is a FENCE whose kind field is 5 to 7 (R303, R359);
a word of slots A and B fits 40 bits. -/
def unassignedBits (k : SlotKind) (bits : BitVec 48) : Bool :=
  let op := (bits.extractLsb' 0 8).toNat
  decide (bits.toNat < 2 ^ slotWidth k) &&
    (!(assignedOpcode k op) || (decide (k = .b) && op == 0x63 && decide (5 ≤ (bits.extractLsb' 32 3).toNat)))

/-- A slot instruction may stand in slot k, with the fields its constructor fixes. -/
def wfSlot (k : SlotKind) : Instr → Bool
  | .nop => true
  | .hint _ => true
  | .unassignedOpcode bits => unassignedBits k bits
  | .add _ | .sub _ | .mul _ | .mulh _ | .mulhn _ | .div _ | .divn _ | .rem _ | .remn _ | .andx _ | .orx _
  | .xorx _ | .andn _ | .shl _ | .shr _ | .sra _ | .rot _ | .clz _ | .ctz _ | .popc _ | .min _ | .max _
  | .minn _ | .maxn _ | .ext _ | .extn _ | .ins _ | .sel _ | .pcmp _ | .plog _ | .xtop _ | .ptox _
  | .addi _ | .andi _ | .ori _ | .xori _ | .shli _ | .shri _ | .srai _ | .roti _ | .lea _ | .pcmpiEq _
  | .pcmpiNe _ | .pcmpiLt _ | .pcmpiLe _ | .pcmpiGt _ | .pcmpiGe _ | .pcmpiLtn _ | .pcmpiLen _
  | .pcmpiGtn _ | .pcmpiGen _ | .li _ | .lih _ | .fadd _ | .fsub _ | .fmul _ | .ffma _ | .fdiv _ | .fsqrt _
  | .fmin _ | .fmax _ | .fcmp _ | .fcvt _ => k.isScalar
  | .ldb _ | .ldbn _ | .ldh _ | .ldhn _ | .ldw _ | .ldwn _ | .ldd _ | .stb _ | .sth _ | .stw _ | .std _
  | .ldbAcq _ | .ldbnAcq _ | .ldhAcq _ | .ldhnAcq _ | .ldwAcq _ | .ldwnAcq _ | .lddAcq _ | .stbRel _
  | .sthRel _ | .stwRel _ | .stdRel _ | .amo _ | .cas _ | .red _ | .waita _ | .cwb _ | .cinv _ | .cwbi _
  | .pfr _ => decide (k = .b)
  | .br _ | .brl _ | .jr _ | .jrl _ | .loop _ | .loopx _ | .idle _ | .seg _ | .key _ | .rgn _ | .tend _
  | .isync _ | .sysr _ | .sysw _ | .trap _ | .tret _ | .brk _ => decide (k = .a)
  | .vmin _ | .vmax _ | .vabs _ | .vneg _ | .vclamp _ | .viadd _ | .visub _ | .vimul _ | .vimulh _
  | .vand _ | .vor _ | .vxor _ | .vandn _ | .vshl _ | .vshr _ | .vsra _ | .vimin _ | .vimax _ | .viminn _
  | .vimaxn _ | .vsel _ | .vmov _ | .vbcast _ | .viota _ | .vperm _ | .vrot _ | .vcxs _ | .vextr _
  | .vins _ | .vcmpr _ | .vpcnt _ | .vrng _ | .vtma _ | .vtmm _ | .vtmf _ | .vcmpEq _ | .vcmpNe _
  | .vcmpLt _ | .vcmpLe _ | .vcmpGt _ | .vcmpGe _ | .vicmpEq _ | .vicmpNe _ | .vicmpLt _ | .vicmpLe _
  | .vicmpGt _ | .vicmpGe _ | .vicmpLtn _ | .vicmpLen _ | .vicmpGtn _ | .vicmpGen _ => decide (k = .v)
  | .tld _ | .tst _ | .tfill _ | .tzero _ | .wld _ | .mma _ | .mmas _ | .azero _ | .drain _ | .fpush _
  | .tstat _ | .tclr _ | .trsum _ | .tcsum _ => decide (k = .t)
  | .sfop _ | .sftab _ | .span _ | .spend _ | .rev _ | .rpush _ | .rpop _ | .rseed _ | .precv _ | .precvG _
  | .coll _ | .shpin _ | .shrel _ | .nnq _ | .tspawn _ | .natm _ | .ovl _ | .pswap _ | .pparm _ | .phase _ => decide (k = .e)
  | .vadd rm _ => decide (k = .v) && decide (rm.toNat < 6)
  | .vsub rm _ => decide (k = .v) && decide (rm.toNat < 6)
  | .vmul rm _ => decide (k = .v) && decide (rm.toNat < 6)
  | .vfma rm _ => decide (k = .v) && decide (rm.toNat < 6)
  | .vfnma rm _ => decide (k = .v) && decide (rm.toNat < 6)
  | .vscale rm _ => decide (k = .v) && decide (rm.toNat < 6)
  | .vrcp rm _ => decide (k = .v) && decide (rm.toNat < 6)
  | .vrsq rm _ => decide (k = .v) && decide (rm.toNat < 6)
  | .vexp2 rm _ => decide (k = .v) && decide (rm.toNat < 6)
  | .vlog2 rm _ => decide (k = .v) && decide (rm.toNat < 6)
  | .vcvt rm _ => decide (k = .v) && decide (rm.toNat < 6)
  | .vcvtfx rm _ => decide (k = .v) && decide (rm.toNat < 6)
  | .vscan rm _ => decide (k = .v) && decide (rm.toNat < 6)
  | .vsegsum rm _ => decide (k = .v) && decide (rm.toNat < 6)
  | .vred rm _ => decide (k = .v) && decide (rm.toNat < 6)
  | .fenceAcq f => decide (k = .b) && f.fn.extractLsb' 0 3 == 0
  | .fenceRel f => decide (k = .b) && f.fn.extractLsb' 0 3 == 1
  | .fenceFull f => decide (k = .b) && f.fn.extractLsb' 0 3 == 2
  | .fenceRed f => decide (k = .b) && f.fn.extractLsb' 0 3 == 3
  | .fenceEng f => decide (k = .b) && f.fn.extractLsb' 0 3 == 4
  | .xfer f => decide (k = .e) && f.fn.extractLsb' 0 1 == 0
  | .xferRow f => decide (k = .e) && f.fn.extractLsb' 0 1 == 1
  | .psend f => decide (k = .e) && f.fn.extractLsb' 3 1 == 0
  | .psendG f => decide (k = .e) && f.fn.extractLsb' 3 1 == 1
  | .pbind f => decide (k = .e) && f.fn.extractLsb' 7 1 == 0
  | .pbindOff f => decide (k = .e) && f.fn.extractLsb' 7 1 == 1
  | _ => false

/-- The units an event names exist, and what it writes lies in its window: dies 0 to 9, stacks 0 to 15, quads 0 to 255, cells 0 to 3. No
value an event carries is shut out. -/
def wfEvent (x : EvArg) : Instr → Bool
  | .imagePushWrite => decide (x.a < 16777216)
  | .droopDetect => decide (x.a < 10)
  | .thermalWarning => decide (x.a < 10)
  | .thermalTrip => decide (x.a < 10)
  | .requestTimeout => decide (x.a < 266)
  | .flitReceive => decide (x.a < 24)
  | .nakReceive => decide (x.a < 24)
  | .portRetrain => decide (x.a < 24)
  | .timeFlitReceive => decide (x.a < 24)
  | .exploreProbe => decide (x.a < 10) && decide (x.b < 64)
  | .exploreReport => decide (x.a < 10) && decide (x.b < 64)
  | .keySlotLoad => decide (x.a < 128)
  | .keySlotClear => decide (x.a < 128)
  | .registerWrite => decide (x.a < 67633152)
  | .counterWrap => decide (x.a < 266) && decide (x.b < if x.a < 256 then 4 else 16)
  | .dieLogTailWrite => decide (x.a < 10)
  | .stackLogTailWrite => decide (x.a < 16)
  | .hostBar4Read => decide (x.a < 1099511627776)
  | .hostBar4Write => decide (x.a < 1099511627776) && decide (x.a + x.bytes.length ≤ 1099511627776)
  | .launchSlotWrite => decide (x.a < 4096) && decide (x.b < 60) && decide (x.b + x.bytes.length ≤ 60)
  | .entryCommit => decide (x.a < 4096)
  | .hostDepDecrement => decide (x.a < 4096)
  | .arrivalEntryWrite => decide (x.a < 1024)
  | .replayRelease => decide (x.a < 10) && decide (x.b < 17)
  | .replayDiscard => decide (x.a < 10) && decide (x.b < 17)
  | .entryRelease => decide (x.a < 4096)
  | .taskStart => decide (x.a < 4096)
  | .poolNextRun => decide (x.a < 4096) && decide (x.b < 256)
  | .runComplete => decide (x.a < 4096)
  | .entryComplete => decide (x.a < 4096)
  | .entryFail => decide (x.a < 4096) && decide (x.b < 256)
  | .preemptRequest => decide (x.a < 4096) && decide (x.b < 4096)
  | .contextSave => decide (x.a < 4096)
  | .preemptResume => decide (x.a < 4096)
  | .commandStart => decide (x.a < 256) && decide (x.b < 4) && decide (x.c < 3)
  | .timedArrival => decide (x.a < 256)
  | .portRowRead => decide (x.a < 256) && decide (x.b < 4) && decide (x.c < 8)
  | .portEntryWrite => decide (x.a < 256) && decide (x.b < 4) && decide (x.c < 8)
  | .loadReply => decide (x.a < 256)
  | .waitaReturn => decide (x.a < 256)
  | .trapEntry => decide (x.a < 256)
  | .deferredTrap => decide (x.a < 256)
  | .residualHold => decide (x.a < 256) && decide (x.b < 4)
  | .residualHoldEnd => decide (x.a < 256)
  | .spillBatch => decide (x.a < 256) && decide (x.b < 4)
  | .spillComplete => decide (x.a < 256) && decide (x.b < 4)
  | .runAheadRead => decide (x.a < 256) && decide (x.b < 4)
  | .demandReadReturn => decide (x.a < 256) && decide (x.b < 4)
  | .bteChunk => decide (x.a < 10) && decide (x.b < 16)
  | .bteCommandComplete => decide (x.a < 10) && decide (x.b < 16)
  | .ceRecordAccept => decide (x.a < 10)
  | .ceTransferEmit => decide (x.a < 10)
  | .ceTransferReceive => decide (x.a < 10)
  | .ceAcknowledge => decide (x.a < 10)
  | .codedPacketDecode => decide (x.a < 10)
  | .fallbackRequest => decide (x.a < 10)
  | .pairRowDeliver => decide (x.a < 256)
  | .pairCreditReturn => decide (x.a < 256)
  | .ovlComplete => decide (x.a < 256)
  | .pfrComplete => decide (x.a < 10)
  | .rdcLineExpiry => decide (x.a < 10)
  | .stackRd => decide (x.a < 16)
  | .stackWr => decide (x.a < 16)
  | .stackWrm => decide (x.a < 16)
  | .stackAtom => decide (x.a < 16)
  | .stackRed => decide (x.a < 16)
  | .stackReduce => decide (x.a < 16)
  | .stackSrch => decide (x.a < 16)
  | .stackZfill => decide (x.a < 16)
  | .ingressGrant => decide (x.a < 16) && decide (x.b < 32)
  | .ingressAging => decide (x.a < 16) && decide (x.b < 32)
  | .granuleReadResolve => decide (x.a < 16) && decide (x.b < 32)
  | .writeDrain => decide (x.a < 16) && decide (x.b < 32)
  | .starvationTimeout => decide (x.a < 16) && decide (x.b < 32)
  | .redBatchAck => decide (x.a < 16) && decide (x.b < 256)
  | .redAckTimeout => decide (x.a < 16) && decide (x.b < 256)
  | .reduceChunk => decide (x.a < 16)
  | .eccError => decide (x.a < 16)
  | .migrationPoll => decide (x.a < 16)
  | .migrateToFar => decide (x.a < 16)
  | .migrateToNear => decide (x.a < 16)
  | .migrateFetch => decide (x.a < 16)
  | .migrateBadOp => decide (x.a < 16)
  | .searchRound => decide (x.a < 16)
  | .listMessage => decide (x.a < 16)
  | .distMessage => decide (x.a < 16)
  | .searchComplete => decide (x.a < 16)
  | .gwynBreak => decide (x.a < 256) && decide (x.b < 2048)
  | .gwynPrint => decide (x.a < 256)
  | .gwynMem => decide (x.a < 256)
  | .gwynSpm => decide (x.a < 256) && decide (x.b < 4)
  | .gwynRdc => decide (x.a < 10) && decide (x.b < 256)
  | .resendFromStaging => decide (x.a < 10)
  | .coldReset | .coldResetRequest | .debugHalt | .clockResume | .stretchEpisodeEnd | .replyReceive
  | .ppsEdge | .ptpTimeSet | .foriginWrite | .explorationRequest | .explorationStart | .explorationEnd | .slipLogTailWrite
  | .spdmGetVersion | .spdmGetCapabilities | .spdmNegotiateAlgorithms | .spdmGetDigests
  | .spdmGetCertificate | .spdmChallenge | .spdmGetMeasurements | .spdmUnsupported | .frameOriginSwitch
  | .loaderStart | .loaderUnload | .arrivalMatch | .tlbShootdown | .frameBoundary | .heldBoundaryOpen
  | .quadGrant | .codedBlockArrive | .sftabSwitch | .gwynRun | .gwynCont | .monitorAttach | .monitorDetach => true
  | _ => false

/-- A term of the syntax the machine can meet: an event of existing units, or a slot instruction in some slot. -/
def Instr.wf (x : EvArg) (i : Instr) : Bool :=
  wfEvent x i || wfSlot .a i || wfSlot .b i || wfSlot .v i || wfSlot .t i || wfSlot .e i

end Sys2Proof
end

