-- ==== Sys2Proof/Decode.lean ====
section
/-! DEFINITION. The decoder, total on any slot bits, and the encoder, both written from R286 to R293 and the opcode maps
R304 to R307. -/

namespace Sys2Proof

/-- Bits [lo+n-1:lo] of a slot. -/
def slotField (w : BitVec 48) (lo n : Nat) : BitVec n := w.extractLsb' lo n

/-- The opcode of a slot: bits [7:0] in every format. -/
def slotOp (w : BitVec 48) : Nat := (slotField w 0 8).toNat

/-- The fields of format S.R. -/
def unpackSR (w : BitVec 48) : SR :=
  { fn := slotField w 32 8, ng := slotField w 31 1, pg := slotField w 26 5, b := slotField w 20 6,
    a := slotField w 14 6, d := slotField w 8 6 }

/-- The fields of format S.I. -/
def unpackSI (w : BitVec 48) : SI :=
  { ng := slotField w 39 1, pg := slotField w 34 5, imm := slotField w 20 14, a := slotField w 14 6, d := slotField w 8 6 }

/-- The fields of format S.L. -/
def unpackSL (w : BitVec 48) : SL :=
  { imm := slotField w 14 26, d := slotField w 8 6 }

/-- The fields of format V.R. -/
def unpackVR (w : BitVec 48) : VR :=
  { ty := slotField w 45 3, ng := slotField w 44 1, pg := slotField w 39 5, b := slotField w 30 9,
    a := slotField w 21 9, d := slotField w 12 9, cm := slotField w 8 4 }

/-- The fields of format T.G. -/
def unpackTG (w : BitVec 48) : TG :=
  { ng := slotField w 47 1, pg := slotField w 42 5, xs := slotField w 36 6, td := slotField w 32 4,
    tb := slotField w 27 5, ta := slotField w 22 5, ss := slotField w 18 4, se := slotField w 17 1,
    sw := slotField w 13 4, we := slotField w 12 1, cm := slotField w 8 4 }

/-- The fields of format E.R. -/
def unpackER (w : BitVec 48) : ER :=
  { rsv := slotField w 44 4, ng := slotField w 43 1, pg := slotField w 38 5, fn := slotField w 30 8,
    xc := slotField w 24 6, xb := slotField w 18 6, xa := slotField w 12 6, cm := slotField w 8 4 }

/-- The fields of format E.V. -/
def unpackEV (w : BitVec 48) : EV :=
  { rsv := slotField w 44 4, xa := slotField w 38 6, fn := slotField w 30 8, a := slotField w 21 9,
    d := slotField w 12 9, cm := slotField w 8 4 }

/-- The fields of format E.I. -/
def unpackEI (w : BitVec 48) : EI :=
  { imm := slotField w 18 30, xa := slotField w 12 6, cm := slotField w 8 4 }

/-- FENCE, opcode 0x63 of slot B: the kind is fn[2:0], and the values 5 to 7 raise ILL (R359). -/
def decodeFence (w : BitVec 48) : Instr :=
  match (slotField w 32 3).toNat with
  | 0 => .fenceAcq (unpackSR w)
  | 1 => .fenceRel (unpackSR w)
  | 2 => .fenceFull (unpackSR w)
  | 3 => .fenceRed (unpackSR w)
  | 4 => .fenceEng (unpackSR w)
  | _ => .unassignedOpcode w

/-- The opcodes that slots A and B share (R304). -/
def decodeScalar (w : BitVec 48) : Instr :=
  match slotOp w with
  | 0x01 => .add (unpackSR w)
  | 0x02 => .sub (unpackSR w)
  | 0x03 => .mul (unpackSR w)
  | 0x04 => .mulh (unpackSR w)
  | 0x05 => .mulhn (unpackSR w)
  | 0x06 => .div (unpackSR w)
  | 0x07 => .divn (unpackSR w)
  | 0x08 => .rem (unpackSR w)
  | 0x09 => .remn (unpackSR w)
  | 0x0A => .andx (unpackSR w)
  | 0x0B => .orx (unpackSR w)
  | 0x0C => .xorx (unpackSR w)
  | 0x0D => .andn (unpackSR w)
  | 0x0E => .shl (unpackSR w)
  | 0x0F => .shr (unpackSR w)
  | 0x10 => .sra (unpackSR w)
  | 0x11 => .rot (unpackSR w)
  | 0x12 => .clz (unpackSR w)
  | 0x13 => .ctz (unpackSR w)
  | 0x14 => .popc (unpackSR w)
  | 0x15 => .min (unpackSR w)
  | 0x16 => .max (unpackSR w)
  | 0x17 => .minn (unpackSR w)
  | 0x18 => .maxn (unpackSR w)
  | 0x19 => .ext (unpackSR w)
  | 0x1A => .extn (unpackSR w)
  | 0x1B => .ins (unpackSR w)
  | 0x1C => .sel (unpackSR w)
  | 0x1D => .pcmp (unpackSR w)
  | 0x1E => .plog (unpackSR w)
  | 0x1F => .xtop (unpackSR w)
  | 0x20 => .addi (unpackSI w)
  | 0x21 => .andi (unpackSI w)
  | 0x22 => .ori (unpackSI w)
  | 0x23 => .xori (unpackSI w)
  | 0x24 => .shli (unpackSI w)
  | 0x25 => .shri (unpackSI w)
  | 0x26 => .srai (unpackSI w)
  | 0x27 => .roti (unpackSI w)
  | 0x28 => .lea (unpackSI w)
  | 0x29 => .ptox (unpackSR w)
  | 0x30 => .pcmpiEq (unpackSI w)
  | 0x31 => .pcmpiNe (unpackSI w)
  | 0x32 => .pcmpiLt (unpackSI w)
  | 0x33 => .pcmpiLe (unpackSI w)
  | 0x34 => .pcmpiGt (unpackSI w)
  | 0x35 => .pcmpiGe (unpackSI w)
  | 0x36 => .pcmpiLtn (unpackSI w)
  | 0x37 => .pcmpiLen (unpackSI w)
  | 0x38 => .pcmpiGtn (unpackSI w)
  | 0x39 => .pcmpiGen (unpackSI w)
  | 0x3A => .li (unpackSL w)
  | 0x3B => .lih (unpackSL w)
  | 0x70 => .fadd (unpackSR w)
  | 0x71 => .fsub (unpackSR w)
  | 0x72 => .fmul (unpackSR w)
  | 0x73 => .ffma (unpackSR w)
  | 0x74 => .fdiv (unpackSR w)
  | 0x75 => .fsqrt (unpackSR w)
  | 0x76 => .fmin (unpackSR w)
  | 0x77 => .fmax (unpackSR w)
  | 0x78 => .fcmp (unpackSR w)
  | 0x79 => .fcvt (unpackSR w)
  | _ => .unassignedOpcode w

/-- The opcodes that slot A alone owns: rows 0x8 and 0x9 (R304). -/
def decodeOnlyA (w : BitVec 48) : Instr :=
  match slotOp w with
  | 0x80 => .br (unpackSI w)
  | 0x81 => .brl (unpackSI w)
  | 0x82 => .jr (unpackSR w)
  | 0x83 => .jrl (unpackSR w)
  | 0x84 => .loop (unpackSI w)
  | 0x85 => .loopx (unpackSI w)
  | 0x86 => .idle (unpackSI w)
  | 0x87 => .seg (unpackSI w)
  | 0x88 => .key (unpackSL w)
  | 0x89 => .rgn (unpackSI w)
  | 0x8A => .tend (unpackSI w)
  | 0x8B => .isync (unpackSI w)
  | 0x8C => .sysr (unpackSI w)
  | 0x8D => .sysw (unpackSI w)
  | 0x8E => .trap (unpackSL w)
  | 0x8F => .tret (unpackSI w)
  | 0x90 => .brk (unpackSL w)
  | _ => .unassignedOpcode w

/-- The opcodes that slot B alone owns: rows 0x4 to 0x6 (R304). -/
def decodeOnlyB (w : BitVec 48) : Instr :=
  match slotOp w with
  | 0x40 => .ldb (unpackSI w)
  | 0x41 => .ldbn (unpackSI w)
  | 0x42 => .ldh (unpackSI w)
  | 0x43 => .ldhn (unpackSI w)
  | 0x44 => .ldw (unpackSI w)
  | 0x45 => .ldwn (unpackSI w)
  | 0x46 => .ldd (unpackSI w)
  | 0x48 => .stb (unpackSI w)
  | 0x49 => .sth (unpackSI w)
  | 0x4A => .stw (unpackSI w)
  | 0x4B => .std (unpackSI w)
  | 0x50 => .ldbAcq (unpackSR w)
  | 0x51 => .ldbnAcq (unpackSR w)
  | 0x52 => .ldhAcq (unpackSR w)
  | 0x53 => .ldhnAcq (unpackSR w)
  | 0x54 => .ldwAcq (unpackSR w)
  | 0x55 => .ldwnAcq (unpackSR w)
  | 0x56 => .lddAcq (unpackSR w)
  | 0x58 => .stbRel (unpackSR w)
  | 0x59 => .sthRel (unpackSR w)
  | 0x5A => .stwRel (unpackSR w)
  | 0x5B => .stdRel (unpackSR w)
  | 0x60 => .amo (unpackSR w)
  | 0x61 => .cas (unpackSR w)
  | 0x62 => .red (unpackSR w)
  | 0x63 => decodeFence w
  | 0x64 => .waita (unpackSR w)
  | 0x65 => .cwb (unpackSR w)
  | 0x66 => .cinv (unpackSR w)
  | 0x67 => .cwbi (unpackSR w)
  | 0x68 => .pfr (unpackSR w)
  | _ => .unassignedOpcode w

/-- The opcodes of slot V outside the rounding groups (R305). -/
def decodeVec (w : BitVec 48) : Instr :=
  match slotOp w with
  | 0x01 => .vmin (unpackVR w)
  | 0x02 => .vmax (unpackVR w)
  | 0x03 => .vabs (unpackVR w)
  | 0x04 => .vneg (unpackVR w)
  | 0x05 => .vclamp (unpackVR w)
  | 0x06 => .viadd (unpackVR w)
  | 0x07 => .visub (unpackVR w)
  | 0x08 => .vimul (unpackVR w)
  | 0x09 => .vimulh (unpackVR w)
  | 0x0A => .vand (unpackVR w)
  | 0x0B => .vor (unpackVR w)
  | 0x0C => .vxor (unpackVR w)
  | 0x0D => .vandn (unpackVR w)
  | 0x0E => .vshl (unpackVR w)
  | 0x0F => .vshr (unpackVR w)
  | 0x90 => .vsra (unpackVR w)
  | 0x91 => .vimin (unpackVR w)
  | 0x92 => .vimax (unpackVR w)
  | 0x93 => .viminn (unpackVR w)
  | 0x94 => .vimaxn (unpackVR w)
  | 0x95 => .vsel (unpackVR w)
  | 0x96 => .vmov (unpackVR w)
  | 0x97 => .vbcast (unpackVR w)
  | 0x98 => .viota (unpackVR w)
  | 0x99 => .vperm (unpackVR w)
  | 0x9A => .vrot (unpackVR w)
  | 0x9B => .vcxs (unpackVR w)
  | 0x9C => .vextr (unpackVR w)
  | 0x9D => .vins (unpackVR w)
  | 0x9E => .vcmpr (unpackVR w)
  | 0x9F => .vpcnt (unpackVR w)
  | 0xA0 => .vrng (unpackVR w)
  | 0xA1 => .vtma (unpackVR w)
  | 0xA2 => .vtmm (unpackVR w)
  | 0xA3 => .vtmf (unpackVR w)
  | 0xB0 => .vcmpEq (unpackVR w)
  | 0xB1 => .vcmpNe (unpackVR w)
  | 0xB2 => .vcmpLt (unpackVR w)
  | 0xB3 => .vcmpLe (unpackVR w)
  | 0xB4 => .vcmpGt (unpackVR w)
  | 0xB5 => .vcmpGe (unpackVR w)
  | 0xC0 => .vicmpEq (unpackVR w)
  | 0xC1 => .vicmpNe (unpackVR w)
  | 0xC2 => .vicmpLt (unpackVR w)
  | 0xC3 => .vicmpLe (unpackVR w)
  | 0xC4 => .vicmpGt (unpackVR w)
  | 0xC5 => .vicmpGe (unpackVR w)
  | 0xC6 => .vicmpLtn (unpackVR w)
  | 0xC7 => .vicmpLen (unpackVR w)
  | 0xC8 => .vicmpGtn (unpackVR w)
  | 0xC9 => .vicmpGen (unpackVR w)
  | _ => .unassignedOpcode w

/-- The rounding groups of slot V: op[2:0] is the mode, op[7:3] the instruction (R305). -/
def decodeRounding (w : BitVec 48) : Instr :=
  let rm := slotField w 0 3
  match slotOp w / 8 with
  | 0x02 => .vadd rm (unpackVR w)
  | 0x03 => .vsub rm (unpackVR w)
  | 0x04 => .vmul rm (unpackVR w)
  | 0x05 => .vfma rm (unpackVR w)
  | 0x06 => .vfnma rm (unpackVR w)
  | 0x07 => .vscale rm (unpackVR w)
  | 0x08 => .vrcp rm (unpackVR w)
  | 0x09 => .vrsq rm (unpackVR w)
  | 0x0A => .vexp2 rm (unpackVR w)
  | 0x0B => .vlog2 rm (unpackVR w)
  | 0x0C => .vcvt rm (unpackVR w)
  | 0x0D => .vcvtfx rm (unpackVR w)
  | 0x0E => .vscan rm (unpackVR w)
  | 0x0F => .vsegsum rm (unpackVR w)
  | 0x10 => .vred rm (unpackVR w)
  | _ => .unassignedOpcode w

/-- The opcodes of slot T (R306). -/
def decodeTile (w : BitVec 48) : Instr :=
  match slotOp w with
  | 0x01 => .tld (unpackTG w)
  | 0x02 => .tst (unpackTG w)
  | 0x03 => .tfill (unpackTG w)
  | 0x04 => .tzero (unpackTG w)
  | 0x05 => .wld (unpackTG w)
  | 0x06 => .mma (unpackTG w)
  | 0x07 => .mmas (unpackTG w)
  | 0x08 => .azero (unpackTG w)
  | 0x09 => .drain (unpackTG w)
  | 0x0A => .fpush (unpackTG w)
  | 0x0B => .tstat (unpackTG w)
  | 0x0C => .tclr (unpackTG w)
  | 0x0D => .trsum (unpackTG w)
  | 0x0E => .tcsum (unpackTG w)
  | _ => .unassignedOpcode w

/-- The opcodes of slot E (R307). -/
def decodeEngine (w : BitVec 48) : Instr :=
  match slotOp w with
  | 0x01 => if slotField w 30 1 = 0 then .xfer (unpackER w) else .xferRow (unpackER w)
  | 0x02 => .sfop (unpackEV w)
  | 0x03 => .sftab (unpackER w)
  | 0x04 => .span (unpackER w)
  | 0x05 => .spend (unpackEI w)
  | 0x06 => .rev (unpackEI w)
  | 0x07 => .rpush (unpackEV w)
  | 0x08 => .rpop (unpackEV w)
  | 0x09 => .rseed (unpackER w)
  | 0x0A => if slotField w 33 1 = 0 then .psend (unpackEV w) else .psendG (unpackEV w)
  | 0x0B => .precv (unpackEV w)
  | 0x0C => .precvG (unpackEV w)
  | 0x0D => .coll (unpackER w)
  | 0x0E => .shpin (unpackER w)
  | 0x0F => .shrel (unpackER w)
  | 0x10 => .nnq (unpackER w)
  | 0x11 => .tspawn (unpackER w)
  | 0x12 => .natm (unpackER w)
  | 0x13 => .ovl (unpackER w)
  | 0x14 => .pswap (unpackEI w)
  | 0x15 => if slotField w 37 1 = 0 then .pbind (unpackER w) else .pbindOff (unpackER w)
  | 0x16 => .pparm (unpackER w)
  | 0x17 => .phase (unpackEI w)
  | _ => .unassignedOpcode w

/-- The instruction a slot holds: NOP, a hint, an assigned opcode, or an unassigned one, which raises ILL (R303). -/
def decodeSlot (k : SlotKind) (w : BitVec 48) : Instr :=
  let op := slotOp w
  if op = 0 then .nop
  else if 0xF0 ≤ op then .hint (slotField w 0 4)
  else if assignedOpcode k op = false then .unassignedOpcode w
  else match k with
    | .a => if sharedOpcode op then decodeScalar w else decodeOnlyA w
    | .b => if sharedOpcode op then decodeScalar w else decodeOnlyB w
    | .v => if 0x10 ≤ op ∧ op < 0x88 then decodeRounding w else decodeVec w
    | .t => decodeTile w
    | .e => decodeEngine w

/-- The bits of slot k of a bundle, zero-extended to 48 (R286). -/
def bundleSlot (k : SlotKind) (b : Bundle) : BitVec 48 :=
  match k with
  | .a => (b.extractLsb' 32 40).setWidth 48
  | .b => (b.extractLsb' 72 40).setWidth 48
  | .v => b.extractLsb' 112 48
  | .t => b.extractLsb' 160 48
  | .e => b.extractLsb' 208 48

/-- A bundle's header fields (R288). -/
def headerIdle (b : Bundle) : Nat := (b.extractLsb' 0 8).toNat
def headerStart (b : Bundle) : Nat := (b.extractLsb' 8 16).toNat
def headerLock (b : Bundle) : Bool := b.getLsbD 24
def headerVres (b : Bundle) : BitVec 2 := b.extractLsb' 25 2
def headerTres (b : Bundle) : BitVec 2 := b.extractLsb' 27 2
def headerSkip (b : Bundle) : Bool := b.getLsbD 29

/-- The five slots in slot order (R273). -/
def slotOrder : List SlotKind := [.a, .b, .v, .t, .e]

/-- The slot whose position is n in slot order; past the last it is slot E. -/
def slotAt : Nat → SlotKind
  | 0 => .a
  | 1 => .b
  | 2 => .v
  | 3 => .t
  | _ => .e

/-- The position of the first slot that does not hold NOP, or 0 for a bundle of NOPs. -/
def firstBusySlot (b : Bundle) : Nat :=
  if slotOp (bundleSlot .a b) ≠ 0 then 0
  else if slotOp (bundleSlot .b b) ≠ 0 then 1
  else if slotOp (bundleSlot .v b) ≠ 0 then 2
  else if slotOp (bundleSlot .t b) ≠ 0 then 3
  else if slotOp (bundleSlot .e b) ≠ 0 then 4
  else 0

/-- The instruction the decoder reads from an instruction word given as a bundle whose bit 0 is bit 0 of w: the first slot
that does not hold NOP, and NOP where all do. -/
def decodeTableWord (_nbits w : Nat) : Option Instr :=
  let b : Bundle := BitVec.ofNat 256 w
  let k := slotAt (firstBusySlot b)
  some (decodeSlot k (bundleSlot k b))

/-- Format S.R packed under an opcode; the 40-bit word stands in the low bits. -/
def packSR (op : BitVec 8) (f : SR) : BitVec 48 :=
  (0#8 ++ f.fn ++ f.ng ++ f.pg ++ f.b ++ f.a ++ f.d ++ op : BitVec (8 + 8 + 1 + 5 + 6 + 6 + 6 + 8))

/-- Format S.I packed under an opcode. -/
def packSI (op : BitVec 8) (f : SI) : BitVec 48 :=
  (0#8 ++ f.ng ++ f.pg ++ f.imm ++ f.a ++ f.d ++ op : BitVec (8 + 1 + 5 + 14 + 6 + 6 + 8))

/-- Format S.L packed under an opcode. -/
def packSL (op : BitVec 8) (f : SL) : BitVec 48 :=
  (0#8 ++ f.imm ++ f.d ++ op : BitVec (8 + 26 + 6 + 8))

/-- Format V.R packed under an opcode. -/
def packVR (op : BitVec 8) (f : VR) : BitVec 48 :=
  (f.ty ++ f.ng ++ f.pg ++ f.b ++ f.a ++ f.d ++ f.cm ++ op : BitVec (3 + 1 + 5 + 9 + 9 + 9 + 4 + 8))

/-- Format T.G packed under an opcode. -/
def packTG (op : BitVec 8) (f : TG) : BitVec 48 :=
  (f.ng ++ f.pg ++ f.xs ++ f.td ++ f.tb ++ f.ta ++ f.ss ++ f.se ++ f.sw ++ f.we ++ f.cm ++ op :
    BitVec (1 + 5 + 6 + 4 + 5 + 5 + 4 + 1 + 4 + 1 + 4 + 8))

/-- Format E.R packed under an opcode. -/
def packER (op : BitVec 8) (f : ER) : BitVec 48 :=
  (f.rsv ++ f.ng ++ f.pg ++ f.fn ++ f.xc ++ f.xb ++ f.xa ++ f.cm ++ op : BitVec (4 + 1 + 5 + 8 + 6 + 6 + 6 + 4 + 8))

/-- Format E.V packed under an opcode. -/
def packEV (op : BitVec 8) (f : EV) : BitVec 48 :=
  (f.rsv ++ f.xa ++ f.fn ++ f.a ++ f.d ++ f.cm ++ op : BitVec (4 + 6 + 8 + 9 + 9 + 4 + 8))

/-- Format E.I packed under an opcode. -/
def packEI (op : BitVec 8) (f : EI) : BitVec 48 :=
  (f.imm ++ f.xa ++ f.cm ++ op : BitVec (30 + 6 + 4 + 8))

/-- The opcode of a rounding group with its mode in op[2:0] (R305). -/
def roundingOp (group : BitVec 5) (rm : BitVec 3) : BitVec 8 := (group ++ rm : BitVec (5 + 3))

/-- The slot bits of an instruction; an event has none. -/
def encode : Instr → Option (BitVec 48)
  | .nop => some 0
  | .hint n => some (0#40 ++ 0xF#4 ++ n : BitVec (40 + 4 + 4))
  | .unassignedOpcode bits => some bits
  | .add f => some (packSR 0x01 f)
  | .sub f => some (packSR 0x02 f)
  | .mul f => some (packSR 0x03 f)
  | .mulh f => some (packSR 0x04 f)
  | .mulhn f => some (packSR 0x05 f)
  | .div f => some (packSR 0x06 f)
  | .divn f => some (packSR 0x07 f)
  | .rem f => some (packSR 0x08 f)
  | .remn f => some (packSR 0x09 f)
  | .andx f => some (packSR 0x0A f)
  | .orx f => some (packSR 0x0B f)
  | .xorx f => some (packSR 0x0C f)
  | .andn f => some (packSR 0x0D f)
  | .shl f => some (packSR 0x0E f)
  | .shr f => some (packSR 0x0F f)
  | .sra f => some (packSR 0x10 f)
  | .rot f => some (packSR 0x11 f)
  | .clz f => some (packSR 0x12 f)
  | .ctz f => some (packSR 0x13 f)
  | .popc f => some (packSR 0x14 f)
  | .min f => some (packSR 0x15 f)
  | .max f => some (packSR 0x16 f)
  | .minn f => some (packSR 0x17 f)
  | .maxn f => some (packSR 0x18 f)
  | .ext f => some (packSR 0x19 f)
  | .extn f => some (packSR 0x1A f)
  | .ins f => some (packSR 0x1B f)
  | .sel f => some (packSR 0x1C f)
  | .pcmp f => some (packSR 0x1D f)
  | .plog f => some (packSR 0x1E f)
  | .xtop f => some (packSR 0x1F f)
  | .ptox f => some (packSR 0x29 f)
  | .addi f => some (packSI 0x20 f)
  | .andi f => some (packSI 0x21 f)
  | .ori f => some (packSI 0x22 f)
  | .xori f => some (packSI 0x23 f)
  | .shli f => some (packSI 0x24 f)
  | .shri f => some (packSI 0x25 f)
  | .srai f => some (packSI 0x26 f)
  | .roti f => some (packSI 0x27 f)
  | .lea f => some (packSI 0x28 f)
  | .pcmpiEq f => some (packSI 0x30 f)
  | .pcmpiNe f => some (packSI 0x31 f)
  | .pcmpiLt f => some (packSI 0x32 f)
  | .pcmpiLe f => some (packSI 0x33 f)
  | .pcmpiGt f => some (packSI 0x34 f)
  | .pcmpiGe f => some (packSI 0x35 f)
  | .pcmpiLtn f => some (packSI 0x36 f)
  | .pcmpiLen f => some (packSI 0x37 f)
  | .pcmpiGtn f => some (packSI 0x38 f)
  | .pcmpiGen f => some (packSI 0x39 f)
  | .li f => some (packSL 0x3A f)
  | .lih f => some (packSL 0x3B f)
  | .ldb f => some (packSI 0x40 f)
  | .ldbn f => some (packSI 0x41 f)
  | .ldh f => some (packSI 0x42 f)
  | .ldhn f => some (packSI 0x43 f)
  | .ldw f => some (packSI 0x44 f)
  | .ldwn f => some (packSI 0x45 f)
  | .ldd f => some (packSI 0x46 f)
  | .stb f => some (packSI 0x48 f)
  | .sth f => some (packSI 0x49 f)
  | .stw f => some (packSI 0x4A f)
  | .std f => some (packSI 0x4B f)
  | .ldbAcq f => some (packSR 0x50 f)
  | .ldbnAcq f => some (packSR 0x51 f)
  | .ldhAcq f => some (packSR 0x52 f)
  | .ldhnAcq f => some (packSR 0x53 f)
  | .ldwAcq f => some (packSR 0x54 f)
  | .ldwnAcq f => some (packSR 0x55 f)
  | .lddAcq f => some (packSR 0x56 f)
  | .stbRel f => some (packSR 0x58 f)
  | .sthRel f => some (packSR 0x59 f)
  | .stwRel f => some (packSR 0x5A f)
  | .stdRel f => some (packSR 0x5B f)
  | .amo f => some (packSR 0x60 f)
  | .cas f => some (packSR 0x61 f)
  | .red f => some (packSR 0x62 f)
  | .fenceAcq f => some (packSR 0x63 f)
  | .fenceRel f => some (packSR 0x63 f)
  | .fenceFull f => some (packSR 0x63 f)
  | .fenceRed f => some (packSR 0x63 f)
  | .fenceEng f => some (packSR 0x63 f)
  | .waita f => some (packSR 0x64 f)
  | .cwb f => some (packSR 0x65 f)
  | .cinv f => some (packSR 0x66 f)
  | .cwbi f => some (packSR 0x67 f)
  | .pfr f => some (packSR 0x68 f)
  | .fadd f => some (packSR 0x70 f)
  | .fsub f => some (packSR 0x71 f)
  | .fmul f => some (packSR 0x72 f)
  | .ffma f => some (packSR 0x73 f)
  | .fdiv f => some (packSR 0x74 f)
  | .fsqrt f => some (packSR 0x75 f)
  | .fmin f => some (packSR 0x76 f)
  | .fmax f => some (packSR 0x77 f)
  | .fcmp f => some (packSR 0x78 f)
  | .fcvt f => some (packSR 0x79 f)
  | .br f => some (packSI 0x80 f)
  | .brl f => some (packSI 0x81 f)
  | .jr f => some (packSR 0x82 f)
  | .jrl f => some (packSR 0x83 f)
  | .loop f => some (packSI 0x84 f)
  | .loopx f => some (packSI 0x85 f)
  | .idle f => some (packSI 0x86 f)
  | .seg f => some (packSI 0x87 f)
  | .key f => some (packSL 0x88 f)
  | .rgn f => some (packSI 0x89 f)
  | .tend f => some (packSI 0x8A f)
  | .isync f => some (packSI 0x8B f)
  | .sysr f => some (packSI 0x8C f)
  | .sysw f => some (packSI 0x8D f)
  | .trap f => some (packSL 0x8E f)
  | .tret f => some (packSI 0x8F f)
  | .brk f => some (packSL 0x90 f)
  | .vmin f => some (packVR 0x01 f)
  | .vmax f => some (packVR 0x02 f)
  | .vabs f => some (packVR 0x03 f)
  | .vneg f => some (packVR 0x04 f)
  | .vclamp f => some (packVR 0x05 f)
  | .viadd f => some (packVR 0x06 f)
  | .visub f => some (packVR 0x07 f)
  | .vimul f => some (packVR 0x08 f)
  | .vimulh f => some (packVR 0x09 f)
  | .vand f => some (packVR 0x0A f)
  | .vor f => some (packVR 0x0B f)
  | .vxor f => some (packVR 0x0C f)
  | .vandn f => some (packVR 0x0D f)
  | .vshl f => some (packVR 0x0E f)
  | .vshr f => some (packVR 0x0F f)
  | .vsra f => some (packVR 0x90 f)
  | .vadd rm f => some (packVR (roundingOp 0x02 rm) f)
  | .vsub rm f => some (packVR (roundingOp 0x03 rm) f)
  | .vmul rm f => some (packVR (roundingOp 0x04 rm) f)
  | .vfma rm f => some (packVR (roundingOp 0x05 rm) f)
  | .vfnma rm f => some (packVR (roundingOp 0x06 rm) f)
  | .vscale rm f => some (packVR (roundingOp 0x07 rm) f)
  | .vrcp rm f => some (packVR (roundingOp 0x08 rm) f)
  | .vrsq rm f => some (packVR (roundingOp 0x09 rm) f)
  | .vexp2 rm f => some (packVR (roundingOp 0x0A rm) f)
  | .vlog2 rm f => some (packVR (roundingOp 0x0B rm) f)
  | .vcvt rm f => some (packVR (roundingOp 0x0C rm) f)
  | .vcvtfx rm f => some (packVR (roundingOp 0x0D rm) f)
  | .vscan rm f => some (packVR (roundingOp 0x0E rm) f)
  | .vsegsum rm f => some (packVR (roundingOp 0x0F rm) f)
  | .vred rm f => some (packVR (roundingOp 0x10 rm) f)
  | .vimin f => some (packVR 0x91 f)
  | .vimax f => some (packVR 0x92 f)
  | .viminn f => some (packVR 0x93 f)
  | .vimaxn f => some (packVR 0x94 f)
  | .vsel f => some (packVR 0x95 f)
  | .vmov f => some (packVR 0x96 f)
  | .vbcast f => some (packVR 0x97 f)
  | .viota f => some (packVR 0x98 f)
  | .vperm f => some (packVR 0x99 f)
  | .vrot f => some (packVR 0x9A f)
  | .vcxs f => some (packVR 0x9B f)
  | .vextr f => some (packVR 0x9C f)
  | .vins f => some (packVR 0x9D f)
  | .vcmpr f => some (packVR 0x9E f)
  | .vpcnt f => some (packVR 0x9F f)
  | .vrng f => some (packVR 0xA0 f)
  | .vtma f => some (packVR 0xA1 f)
  | .vtmm f => some (packVR 0xA2 f)
  | .vtmf f => some (packVR 0xA3 f)
  | .vcmpEq f => some (packVR 0xB0 f)
  | .vcmpNe f => some (packVR 0xB1 f)
  | .vcmpLt f => some (packVR 0xB2 f)
  | .vcmpLe f => some (packVR 0xB3 f)
  | .vcmpGt f => some (packVR 0xB4 f)
  | .vcmpGe f => some (packVR 0xB5 f)
  | .vicmpEq f => some (packVR 0xC0 f)
  | .vicmpNe f => some (packVR 0xC1 f)
  | .vicmpLt f => some (packVR 0xC2 f)
  | .vicmpLe f => some (packVR 0xC3 f)
  | .vicmpGt f => some (packVR 0xC4 f)
  | .vicmpGe f => some (packVR 0xC5 f)
  | .vicmpLtn f => some (packVR 0xC6 f)
  | .vicmpLen f => some (packVR 0xC7 f)
  | .vicmpGtn f => some (packVR 0xC8 f)
  | .vicmpGen f => some (packVR 0xC9 f)
  | .tld f => some (packTG 0x01 f)
  | .tst f => some (packTG 0x02 f)
  | .tfill f => some (packTG 0x03 f)
  | .tzero f => some (packTG 0x04 f)
  | .wld f => some (packTG 0x05 f)
  | .mma f => some (packTG 0x06 f)
  | .mmas f => some (packTG 0x07 f)
  | .azero f => some (packTG 0x08 f)
  | .drain f => some (packTG 0x09 f)
  | .fpush f => some (packTG 0x0A f)
  | .tstat f => some (packTG 0x0B f)
  | .tclr f => some (packTG 0x0C f)
  | .trsum f => some (packTG 0x0D f)
  | .tcsum f => some (packTG 0x0E f)
  | .xfer f => some (packER 0x01 f)
  | .xferRow f => some (packER 0x01 f)
  | .sfop f => some (packEV 0x02 f)
  | .sftab f => some (packER 0x03 f)
  | .span f => some (packER 0x04 f)
  | .spend f => some (packEI 0x05 f)
  | .rev f => some (packEI 0x06 f)
  | .rpush f => some (packEV 0x07 f)
  | .rpop f => some (packEV 0x08 f)
  | .rseed f => some (packER 0x09 f)
  | .psend f => some (packEV 0x0A f)
  | .psendG f => some (packEV 0x0A f)
  | .precv f => some (packEV 0x0B f)
  | .precvG f => some (packEV 0x0C f)
  | .coll f => some (packER 0x0D f)
  | .shpin f => some (packER 0x0E f)
  | .shrel f => some (packER 0x0F f)
  | .nnq f => some (packER 0x10 f)
  | .tspawn f => some (packER 0x11 f)
  | .natm f => some (packER 0x12 f)
  | .ovl f => some (packER 0x13 f)
  | .pswap f => some (packEI 0x14 f)
  | .pbind f => some (packER 0x15 f)
  | .pbindOff f => some (packER 0x15 f)
  | .pparm f => some (packER 0x16 f)
  | .phase f => some (packEI 0x17 f)
  | _ => none

end Sys2Proof
end

