-- ==== Sys2Proof/Config.lean ====
section
/-! DEFINITION. What one device fixes (fuses, the standard package) and the values the spec leaves open. The constants
declared without a body are free values: nothing can be proved about the value they take. -/

namespace Sys2Proof.Config

/-- Hop latency of a die-to-die link in the standard package (R14): dies are numbered 0 for CD, 1 to 8 for MD0 to MD7, 9 for SD. -/
def standardHop (a b : Nat) : Nat :=
  if a = 0 ∧ b = 9 ∨ a = 9 ∧ b = 0 then 8
  else if a = 0 ∨ b = 0 then 12
  else 4

/-- The hop latency in the fuses of the link between two dies, the lower first (R36): a package may differ from the standard one.
DESIGN CHOICE, log 21. -/
opaque linkFuse : Nat → Nat → BitVec 8

/-- Fused hop latency of a die-to-die link (R13, R36). -/
def fusedHop (a b : Nat) : Nat := (linkFuse (min a b) (max a b)).toNat

/-- The latency table's byte for two dies that no trained path joins, the lower first (R18 gives none). DESIGN CHOICE, log 21. -/
opaque noPathLatency : Nat → Nat → BitVec 8

/-- Latency added for each intermediate die of a routed path (R13). -/
def transitCycles : Nat := 10

/-- The elastic margin of a die pair (R13). -/
def elasticMargin : Nat := 8

/-- Cycles of command decode on the matrix die, beyond the latency of the way to it (R15). -/
def decodeCycles : Nat := 4

/-- The 256-bit hash of the firmware key held in fuses (R40). DESIGN CHOICE, log 11. -/
opaque keyHash : BitVec 256

/-- The fused minimum security version (R39 step 6). DESIGN CHOICE, log 11. -/
opaque minSvn : BitVec 32

/-- Step 4 of R39: the flash holds an image that can be read. DESIGN CHOICE, log 11. -/
opaque imageReadable : List (Nat × Byte) → Bool

/-- The public key that the image in flash carries (R40). DESIGN CHOICE, log 11. -/
opaque imageKey : List (Nat × Byte) → List Byte

/-- The SLH-DSA-SHAKE-256s signature of the image in flash holds under that key (R39 step 5, FIPS 205). DESIGN CHOICE, log 11. -/
opaque signatureHolds : List (Nat × Byte) → Bool

/-- The security version an image carries. DESIGN CHOICE, log 11. -/
opaque imageSvn : List (Nat × Byte) → BitVec 32

/-- The content of an SPDM answer beyond what R53 states: request code and request bytes. PRESUMED, log 9. -/
opaque spdmAnswer : Nat → List Byte → List Byte

/-- The bytes of the firmware image in flash, whose extent no format tells (R53, measurement 1). PRESUMED, log 9. -/
opaque firmwareBytes : List (Nat × Byte) → List Byte

/-- The ECDSA P-384 signature of a SHA-384 digest under the device's key, one for each number of signatures made before (R53). PRESUMED,
log 9. -/
opaque deviceSignature : List Byte → Nat → List Byte

/-- A fresh value for each use of the counter State.fresh, where the spec states no result. DESIGN CHOICE, log 22. -/
opaque freeWord : Nat → BitVec 64

/-- A correctly rounded transcendental result that the interval refinement did not settle within its fuel: function
number and argument code. DESIGN CHOICE, log 13. -/
opaque unsettled : Nat → Nat → Nat

/-- The S word of a merge of two p = 0 triples of which one has absorbed a zero or an infinity: R266 states m alone. DESIGN CHOICE, log 16. -/
opaque absorbedSum : BitVec 32 → BitVec 32 → BitVec 32

/-- The address space a container's data or overlay section belongs to, by the flags of its header (R63 gives none). DESIGN CHOICE, log 19. -/
opaque sectionSpace : Nat → BitVec 12

/-- The 64 KiB frame of virtual addresses an overlay section is placed at, by its flags and bytes (R63 gives none). DESIGN CHOICE, log 19. -/
opaque overlayFrame : Nat → List Byte → BitVec 32

/-- The launch slot entry i of a container's timetable section is committed to, by the container's address (R63 gives none).
DESIGN CHOICE, log 19. -/
opaque timetableSlot : Nat → Nat → BitVec 12

/-- The key slot the loader reads a container under, by the word written to LOADADDR (R66 gives none). DESIGN CHOICE, log 19. -/
opaque loaderKey : BitVec 64 → BitVec 7

/-- A die-to-die lane trains at boot: its two dies, the lower first (R39 step 2). DESIGN CHOICE, log 21. -/
opaque laneTrains : Nat → Nat → Bool

/-- Two routers of one package number other than this one's, one die and one list of ports belong to different packages all the same (R38). DESIGN CHOICE, log 49. -/
opaque distinctPackages : Nat → Nat → Bool

/-- A viaduct port comes up again when it retrains (R33): the port, and how often the part has asked. DESIGN CHOICE, log 64. -/
opaque retrains : Nat → Nat → Bool

/-- The package at the other end of a package's viaduct port, by package number and port, none where nothing is connected: how the boards
are wired, which no report carries (R35, R37). DESIGN CHOICE, log 49. -/
opaque viaductPeer : Nat → Nat → Option Nat

/-- A viaduct port trains at boot: the board and its links decide (R39 step 2). DESIGN CHOICE, log 21. -/
opaque portTrains : Nat → Bool

/-- The fused hop latency of a viaduct port, in cycles (R36). DESIGN CHOICE, log 21. -/
opaque viaductHop : Nat → BitVec 8

/-- The graph-search distance of two NaN inputs, the payload the spec fixes, is 0x7FC0_0000 (R110). -/
def canonicalNaN32 : BitVec 32 := 0x7FC00000

/-- Refinement rounds of the interval evaluation of a transcendental function (DESIGN CHOICE, log 13). -/
def refinementFuel : Nat := 40

end Sys2Proof.Config
end

