-- ==== Sys2Proof/Machine/State.lean ====
section
/-! DEFINITION. The state of the Linmet 960 as plain data, the reasons a step can stop, and the state after reset. -/

namespace Sys2Proof.Machine

/-- Why the machine can stop with a fault. Nothing raises one: the spec answers every error with a trap, a status, a log record
or an ignored write. -/
inductive Fault where
  /-- Kept as the name of an act that names a unit the device does not have (a die 12); no step raises it, since such an act is
  passed over without effect (DESIGN CHOICE, log 58): safe. -/
  | noSuchUnit
  deriving DecidableEq, Repr

/-- Why a step can be refused. -/
inductive Refusal where
  /-- Raised by exec on an instruction whose meaning is not written yet: safe. -/
  | notModelled (mnemonic : String)
  deriving DecidableEq, Repr

/-- Data by key: keys strictly rise, and no entry equals what an unlisted key reads as. -/
abbrev Sparse (α : Type) := List (Nat × α)

/-- A hardware loop counter, sr.lcN (R330, R340). -/
structure LoopCtr where
  value : BitVec 32
  first : BitVec 11
  last : BitVec 11
  active : Bool
  deriving DecidableEq, Repr

/-- The counter at reset and at task start. -/
def LoopCtr.zero : LoopCtr := { value := 0, first := 0, last := 0, active := false }

/-- Where a stream-core result is written (R170, R313): a scalar register, the bits of a predicate that a mask names, a
system register, a parameter set, LDM bytes, a BTE template word. -/
inductive Dest where
  | x (n : Nat)
  | p (n : Nat) (mask : Pred)
  | sys (n : Nat)
  | gen (n : Nat)
  /-- the time base of a KEY, written when its wait ends (R145) -/
  | tbase
  | ldm (addr len : Nat)
  | template (t w : Nat)
  | arrivalEntry (n : Nat)
  /-- eight bytes of an arrival-match entry, as the host writes them (R127) -/
  | arrivalHalf (n half : Nat)
  /-- the tag of a plane, 0 for none, or one more than the code address with the address space from bit 64 on (R434) -/
  | tag (plane : Nat)
  deriving DecidableEq, Repr

/-- A result that is written at cycle due; among writes of one cycle the higher rank stands (R309, R411). -/
structure PendWrite where
  due : Nat
  rank : Nat
  bid : Nat
  dst : Dest
  val : BitVec 1024
  deriving DecidableEq, Repr

/-- The architectural registers of a stream core that a trap rolls back to the trapping bundle (R150, R272). -/
structure Arch where
  x : Sparse Word
  p : Sparse Pred
  lc : Sparse LoopCtr
  gens : Sparse (BitVec 1024)
  tbase : Nat
  erc : Bool
  lchk : Bool
  skey : Word
  sctr : Word
  tvec : BitVec 12
  tpc : BitVec 11
  tcause : Word
  tval : Word
  tscr : Word
  rgn : BitVec 24
  rgnRec : BitVec 512
  ctx : Word
  rqSel : BitVec 5
  es : Sparse (BitVec 14)
  rsTop : Sparse (BitVec 40)
  rsWin : Sparse (BitVec 29)
  rsHbm : Sparse Word
  rvs : BitVec 39
  tmShape : BitVec 32
  cecfg : BitVec 2
  ldm : Sparse Byte
  pend : List PendWrite
  pc : Nat
  portCnt : Sparse Nat
  portLen : Sparse Nat
  fmtCopy : Sparse (List Word)
  credits : Sparse Nat
  /-- granules pushed inside the open span, per cell, opening and closing records apart (R231), and how many of them lie below the
  opening record (R229) -/
  pushed : Sparse Nat
  pushedFirst : Sparse Nat
  /-- ports bound inside the open span, per cell and port (R225) -/
  spanPorts : List Nat
  /-- counters whose loop was opened inside the open span (R225) -/
  spanLoops : List Nat
  /-- scalar registers written inside the open span (R225) -/
  spanWrites : List Nat
  /-- the descriptor as SPAN or REV read it (R222) -/
  spanDesc : BitVec 1024
  deriving DecidableEq, Repr

/-- A trap to be taken: cause, slot, origin fields of sr.tcause, and sr.tval (R272). -/
structure Trap where
  cause : Nat
  slot : Nat
  origin : Nat
  cell : Nat
  chan : Nat
  ce : Bool
  gstep : Bool
  tval : Word
  /-- bundle sr.tpc will name -/
  tpc : Nat
  /-- cycle of detection, which orders deferred traps (R273) -/
  seen : Nat
  /-- the POISON of a FENCE.red: taking it clears what failed (R360) -/
  red : Bool := false
  deriving DecidableEq, Repr

/-- A physical location: the address, the attributes its leaf gives it (R176, R181). -/
structure Place where
  pa : Nat
  key : Nat
  home : Nat
  soft : Bool
  deriving DecidableEq, Repr

/-- The kinds of global operations a stream core holds (R347 to R361). -/
inductive MemKind where
  | load | store | atom | red | tmpl
  deriving DecidableEq, Repr

/-- A global operation of a stream core, from issue until it is answered (R349 to R352). Phase 0 waits to be sent, 1 is sent,
2 is answered. -/
structure MemOp where
  tag : Nat
  gen : Nat
  bid : Nat
  bundle : Nat
  kind : MemKind
  va : Nat
  place : Place
  len : Nat
  data : BitVec 64
  cmp : BitVec 32
  fn : Nat
  flt : Bool
  flush : Bool
  policy : Nat
  acq : Bool
  rel : Bool
  scope : Nat
  dst : Nat
  signed : Bool
  issued : Nat
  phase : Nat
  result : BitVec 64
  pois : Bool
  timedOut : Bool
  status : Nat
  deriving DecidableEq, Repr

/-- A WAITA that has not returned (R361 to R363). -/
structure Waita where
  bid : Nat
  bundle : Nat
  spec : Word
  place : Place
  cmp : Word
  cond : Nat
  wide : Bool
  scope : Nat
  dst : Nat
  tout : Nat
  issued : Nat
  nextRead : Nat
  /-- the cycle at which a read was issued that goes unanswered to the time-out limit (R25, R26; DESIGN CHOICE, log 61) -/
  lost : Option Nat
  deriving DecidableEq, Repr

/-- An effect that becomes real when its bundle commits (R149): it leaves the core then. -/
inductive Action where
  | go (die chan quad : Nat) (data : Word) (asid : Nat) (image : BitVec 512)
  | ce (die quad kind : Nat) (a b c : Word) (cfg : BitVec 2) (asid task : Nat)
  | nnq (die quad : Nat) (va len asid : Nat)
  | sftab (quad n : Nat) (va : Nat) (spec val : Word) (asid : Nat)
  | pfr (die quad : Nat) (va len : Nat) (spec : Word) (token : Nat) (place : Place) (asid : Nat)
  | ovl (asid : Nat) (va : Nat) (spec val : Word)
  | spawn (quad slot pd : Nat) (image : BitVec 512) (asid : Nat) (bound : List Nat)
  /-- with the cycle of its issue and, per line, the bytes that were dirty then or are written by the core's older stores (R365) -/
  | rangeOp (rdc kind : Nat) (va len asid issued : Nat) (dirty : List (Nat × BitVec 128))
  | replay (die chan : Nat) (discard : Bool)
  deriving DecidableEq, Repr

/-- A word an engine writes on completion: its spec, value, and the quad and address space it belongs to (R248). -/
structure WordRef where
  spec : Word
  val : Word
  quad : Nat
  asid : Nat
  deriving DecidableEq, Repr

/-- A command in a cell's queue (R146, R147), with everything it captured at issue. -/
structure Cmd where
  instr : Instr
  bid : Nat
  bundle : Nat
  lock : Bool
  start : Nat
  arrive : Nat
  x1 : Word
  x2 : Word
  x3 : Word
  guard : Pred
  gtrue : Bool
  tm : BitVec 32
  lchk : Bool
  erc : Bool
  set : BitVec 1024
  /-- residual granules: index of the first reserved one and their number, kinds packed by the span rules (R231) -/
  resAt : Nat
  resLen : Nat
  resOps : Nat
  /-- in replay: the recorded seed to draw from (R240) -/
  seed : Option Word
  /-- in replay: the format word, which no queue gives (R415) -/
  word : Option Word
  deriving DecidableEq, Repr

/-- What the load of a weight buffer reads: the rows of B, its scale store and the index tile (R405, R408). -/
structure BData where
  rows : Sparse Row
  scales : Sparse Row
  idx : Sparse Row
  deriving DecidableEq, Repr

/-- Nothing loaded. -/
def BData.empty : BData := { rows := [], scales := [], idx := [] }

/-- What a pass, a drain or a sum holds from its start to its end (R404 to R412): the command and its word; the weights of a pass;
in table, a drain's multipliers or the rows of the tile that a sum has read so far. -/
structure Pass where
  id : Nat
  cmd : Cmd
  fmt : Word
  b : BData
  table : Sparse Row
  key : Word
  ctr : Word
  found : BitVec 4
  deriving DecidableEq, Repr

/-- One effect of a started command on its cell, due at a fixed cycle (R170, R404 to R412). -/
inductive Effect where
  | accRow (row : Nat) (val : Row) (mask : BitVec 1024)
  | tileLine (t line : Nat) (val : Row)
  | scaleLine (t line : Nat) (val : Row)
  | spmRow (row : Nat) (val : Row) (mask : BitVec 1024)
  /-- bytes at a logical address under a layout; none leaves a byte as it is, tag asks for the layout tag -/
  | spmBytes (lay addr : Nat) (bytes : List (Option Byte)) (tag : Bool)
  | setFull (i : Nat)
  | clearFull (i : Nat)
  | signal (sem queue bundle : Nat)
  | clearFlags (n : Nat) (entry : Bool)
  | drainStatus (pass : Nat)
  | showStatus (n : Nat) (val : BitVec 8)
  | passEnd (pass : Nat)
  | shadowReady
  | pushPort (port : Nat) (val : Row) (mask : BitVec 1024)
  | granules (queue pos : Nat) (vals : List (BitVec 512))
  | mmaAcc (pass i : Nat) (a : Row)
  | readTile (t k page lay : Nat)
  | readFill (t k page lay cell quad : Nat)
  | readScale (t j addr cell quad : Nat)
  | mmaRead (pass i : Nat)
  /-- the load of a weight buffer reads line k of B's tile, and of the index tile where there is one (R405, R406) -/
  | loadLine (load k tile : Nat) (idx : Option Nat)
  /-- line k of a tile goes to the window as 16 granules from pos on (R231, R415) -/
  | recordLine (t k pos : Nat)
  /-- TST reads line k of a tile, or of its scale store, for a scratchpad address (R404) -/
  | storeRead (t k addr lay : Nat)
  | storeScale (t k addr : Nat)
  /-- a sum reads line k of a tile; its sums are written (R412) -/
  | sumRead (pass k t : Nat)
  | sums (pass : Nat)
  /-- a receive pops its row of a lane, for a destination code, and returns a credit to a quad's lane (R429) -/
  | lanePop (lane peer peerLane : Nat) (dst : BitVec 9)
  | drainRead (pass i : Nat)
  /-- what comes from another die reaches a die, whose elastic-buffer waits are counted (R16, R46) -/
  | elastic (die : Nat)
  | xferRead (cmd : Cmd) (beat : Nat)
  | boundary (src k pos : Nat)
  deriving DecidableEq, Repr

/-- An effect and its cycle; writes of one cycle apply in the order of prio (R168, R414). -/
structure Sched where
  due : Nat
  prio : Nat
  bid : Nat
  bundle : Nat
  erc : Bool
  eff : Effect
  deriving DecidableEq, Repr

/-- An operand port of a cell (R161 to R164): its captured parameter set, whether it is bound, the walk position, the
entries held with the cycle from which each is delivered, or, for an output port, pushed at. -/
structure QPort where
  bound : Bool
  set : BitVec 1024
  reverse : Bool
  /-- the binding command's bundle, sr.erc and sr.lchk -/
  bundle : Nat
  erc : Bool
  lchk : Bool
  /-- the first cycle in which the port may use its row of scratchpad again -/
  from_ : Nat
  next : Nat
  held : List (Nat × Row × BitVec 1024)
  deriving DecidableEq, Repr

/-- An unbound port. -/
def QPort.unbound : QPort := 
  { bound := false, set := 0, reverse := false, bundle := 0, erc := false, lchk := false, from_ := 0, next := 0, held := [] }

/-- A weight buffer: its record and what it holds; id is the cycle its load began (R405). -/
structure WeightBuf where
  id : Nat
  data : BData
  tb : Nat
  idx : Nat
  bits : Word
  wide : Bool
  sparse : Bool
  valid : Bool
  readyAt : Nat
  deriving DecidableEq, Repr

/-- A spill batch or a run-ahead read in flight (R232, R242): first granule, number, cycle it started. -/
structure Batch where
  lo : Nat
  n : Nat
  done : Bool
  deriving DecidableEq, Repr

/-- A residual granule that waits for its ring position, with the bundle and the queue of the command it is a record of (R233,
R155). -/
structure WaitGranule where
  pos : Nat
  val : BitVec 512
  bundle : Nat
  queue : Nat
  deriving DecidableEq, Repr

/-- A cell (R142). -/
structure CellSt where
  tiles : Sparse Row
  scales : Sparse Row
  acc : Sparse Row
  spm : Sparse Row
  spmPois : Sparse Bool
  tags : Sparse Nat
  full : BitVec 12
  flags : Sparse (BitVec 4)
  status : Sparse (BitVec 8)
  wAct : Option WeightBuf
  wShad : Option WeightBuf
  qports : Sparse QPort
  fmtq : List Word
  qMat : List Cmd
  qVec : List Cmd
  qSf : List Cmd
  /-- per queue: the cycle to which the command that left last occupies it -/
  freeAt : Sparse Nat
  sched : List Sched
  passes : List Pass
  rngK : Word
  rngC : Word
  sticky : Sparse (BitVec 4)
  spilled : Nat
  reserved : List (Nat × Nat)
  /-- the reservations that a write of a residual register ended, with its bundle, while that can be cancelled (R272, R469) -/
  ended : List (Nat × List (Nat × Nat))
  waiting : List WaitGranule
  /-- the waiting granules are those of a hold that a trap ended: they start no hold of their own (R232) -/
  parked : Bool
  batch : Option Batch
  /-- the lowest granule a stalled bundle or an RPOP demands, and from the top down the base and the slot of each record popped -/
  demand : Option (Nat × List (Nat × Nat))
  /-- a run-ahead read would have faulted: the unit waits for a demand (R242) -/
  aheadStop : Bool
  /-- while a reverse bundle has demanded granules: the lowest of them, which stay held until it commits, and H as it stood at its
  start (R237, R243) -/
  pin : Option (Nat × Nat)
  /-- a batch has faulted: it is tried again after TRET (R232) -/
  spillStop : Bool
  /-- the cycle in which the first waiting granule began to wait (R233) -/
  waitFrom : Nat
  /-- granules that hold the seed of a DRAIN; H as it stood at the SPAN whose opening record is the key (R236, R410) -/
  seedMarks : List Nat
  opened : Sparse Nat
  /-- the format words queued before the bundle of the SPAN whose opening record is the key: a replay pops them again (R240, R415) -/
  words : Sparse (List Word)
  deriving DecidableEq, Repr

/-- What a stream core is doing. -/
inductive RunState where
  | stopped | running | ended | halted | saved | atRgn
  deriving DecidableEq, Repr

/-- The task a stream core runs (R130). -/
structure Task where
  slot : Nat
  run : Nat
  inst : Nat
  asid : Nat
  code : Nat
  start : Nat
  /-- cycle its entry was captured -/
  born : Nat
  lockAll : Bool
  binding : List Nat
  gang : List Nat
  pairs : BitVec 512
  deriving DecidableEq, Repr

/-- A wait of the stream core for the condition of an instruction that has issued (R338, R359, R425, R436). -/
inductive SyncWait where
  | isync (from_ : Nat)
  | fence (kind scope upto : Nat)
  | pswap (target : Nat)
  deriving DecidableEq, Repr

/-- A reverse walk under way (R236 to R243, R425). Phase 2 waits for the other commands of REV's bundle, 0 replays, 1 walks back; pos counts the bundles of the forward run
not yet walked back. -/
structure RevWalk where
  revBundle : Nat
  spend : Nat
  first : Nat
  recompute : Bool
  phase : Nat
  pos : Nat
  /-- per cell: granule of the span's opening record, top of the untouched part, next recorded seed granule -/
  opening : Sparse Nat
  seedAt : Sparse Nat
  /-- replay's own queue of format words, per cell (R415) -/
  fmts : Sparse (List Word)
  /-- per cell: seed, shape and format granules each replayed command read in place, the latest first (R240) -/
  keepLog : Sparse (List Nat)
  /-- what REV's own bundle does to the bundle after it: a taken branch, idle count, KEY, TEND -/
  taken : Option Nat
  idle : Nat
  key : Option Nat
  ending : Bool
  deriving DecidableEq, Repr

/-- A residual-window hold of a quad (R233). -/
structure Hold where
  since : Nat
  cell : Nat
  when_ : Nat
  frame : Nat
  deriving DecidableEq, Repr

/-- A stream core and its quad's shared state. -/
structure CoreSt where
  run : RunState
  arch : Arch
  slot : Nat
  bid : Nat
  issueAt : Nat
  stalled : Bool
  taken : Option Nat
  idleAdd : Nat
  keyBase : Option Nat
  locked : Bool
  lockNext : Bool
  actions : List (Nat × Action)
  /-- per bundle not yet committed: the registers and the walk as its issue found them -/
  snaps : List (Nat × Arch × Option RevWalk)
  /-- the youngest bundle with a reservation on a residual stack (R232) -/
  lastRes : Option Nat
  lsq : List MemOp
  nextTag : Nat
  redIssued : Sparse Nat
  redAcked : Sparse Nat
  rfail : Nat
  /-- greatest A_h of each home in the completion replies not yet merged by a release (R188) -/
  ackClock : Sparse Nat
  /-- the clocks the core's reads have returned and no fence has acquired (R193) -/
  readClock : Sparse Nat
  /-- what writes of bundles not yet committed found outside the core's registers, the latest first: a trap puts it back (R272) -/
  undo : List PendWrite
  ec : Sparse (BitVec 48)
  planes : Sparse (BitVec 256)
  active : Nat
  tags : Sparse (Option (Nat × Nat))
  ovlBusy : Bool
  deferred : List Trap
  trapReq : Option Trap
  waita : Option Waita
  sync : Option SyncWait
  pendPreds : List Nat
  /-- TSTATs whose selected cells have not all started: bundle number, cells left, bit so far (R411) -/
  tstats : List (Nat × Nat × Bool)
  task : Option Task
  rev : Option RevWalk
  hold : Option Hold
  sems : Sparse (BitVec 8)
  lanes : Sparse (List (Nat × Row))
  preempt : Bool
  ending : Bool
  breaks : List Nat
  brkSkip : Bool
  trace : List (Nat × Nat)
  tlb : List (Nat × Nat × Nat × Word)
  deriving DecidableEq, Repr

/-- A remote-data cache line (R184, R185). -/
structure RdcLine where
  data : BitVec 1024
  dirty : BitVec 128
  place : Place
  stamp : Nat
  filled : Nat
  pois : BitVec 2
  /-- the clock of its home that came with the fill (R189) -/
  clock : List Nat
  deriving DecidableEq, Repr

/-- A command captured by a BTE channel (R368), with its progress: row, byte within the row, the row index a gather has fetched,
entries it has parked, and whether one of them was discarded; task identifies the task that issued it. -/
structure BteCmd where
  id : Nat
  tmpl : BitVec 512
  src : Int
  dst : Int
  idx : Int
  quad : Nat
  asid : Nat
  task : Nat
  row : Nat
  off : Nat
  idxRow : Option Int
  walked : Bool
  open_ : Nat
  dropped : Bool
  /-- the first cycle in which it may read scratchpad (R370) -/
  ready : Nat
  deriving DecidableEq, Repr

/-- A chunk of a copy: source, destination, length; space 1 addresses are scratchpad addresses (R278). -/
structure Chunk where
  cmd : Nat
  srcSpace : Nat
  src : Nat
  srcCell : Nat
  dstSpace : Nat
  dst : Nat
  dstCell : Nat
  len : Nat
  quad : Nat
  asid : Nat
  policy : Nat
  deriving DecidableEq, Repr

/-- A fault of a chunk: cause, the value sr.tval takes, whether it is one of the index fetch. -/
structure ChunkFault where
  cause : Nat
  tval : Word
  gstep : Bool
  deriving DecidableEq, Repr

/-- What waits in the replay queue of a channel: a chunk, an index fetch of a gather, or a completion word (R278, R470). -/
inductive Parked where
  | chunk (c : Chunk)
  | index (cmd row : Nat)
  | word (w : WordRef) (cmd : Nat) (slot : Option Nat)
  deriving DecidableEq, Repr

/-- A BTE channel (R368, R370). held must park and waits for room in the full replay queue (R279). -/
structure Channel where
  queue : List BteCmd
  done : List BteCmd
  parked : List Parked
  held : Option (Parked × Option ChunkFault)
  nextId : Nat
  deriving DecidableEq, Repr

/-- An idle channel. -/
def Channel.empty : Channel := { queue := [], done := [], parked := [], held := none, nextId := 0 }

/-- A collective record a CE walks (R248, R249): the endpoint table and coding plan as read, the index vector of the next
transfer (the position in the plan for kind 6), transfers not acknowledged, and the blocks still to be received. -/
structure CeRec where
  id : Nat
  addr : Nat
  body : BitVec 1536
  quad : Nat
  asid : Nat
  task : Nat
  cfg : BitVec 2
  epts : List (BitVec 32)
  plan : List (BitVec 512)
  vec : List Nat
  walked : Bool
  unacked : Nat
  status : BitVec 8
  expect : List (Nat × Nat)
  lDone : Bool
  gDone : Bool
  /-- its status byte is parked: gword follows it (R470) -/
  gWait : Bool
  rDone : Bool
  deriving DecidableEq, Repr

/-- A CE transfer from its reading until it is acknowledged (R249, R251, R256). block, bgen, group and size name a block of a coded
shuffle (kind 6); pois holds the poison of its bytes, nothing when there is none. -/
structure Xfer where
  rec_ : Nat
  seq : Nat
  fromDie : Nat
  toPkg : Nat
  toDie : Nat
  kind : Nat
  etype : Nat
  final : Bool
  id : Nat
  shape : BitVec 32
  quad : Nat
  asid : Nat
  task : Nat
  dst : Nat
  tag : Option (BitVec 32)
  data : List Byte
  pois : List Bool
  block : Nat
  bgen : Nat
  group : Nat
  size : Nat
  point : Nat
  /-- the viaduct port it came in on, 24 from within the package (R127) -/
  port : Nat
  /-- bytes of it that landed before it parked, and the first element of them with a domain fault (R278, R269) -/
  past : Nat
  flaw : Option Nat
  /-- what the homes had applied when they answered the writes made before it parked (R188, R197) -/
  acks : List Nat
  deriving DecidableEq, Repr

/-- What waits in the replay queue of a CE: a transfer whose source or destination faulted, a block that cannot be written, or a
word of a record: 0 lword, 1 its status byte, 2 gword, 3 rword, 4 the status byte of a refused record (R259, R278, R470). -/
inductive CeParked where
  | source (rec_ src dst peer : Nat)
  | dest (x : Xfer)
  | word (rec_ step : Nat) (w : WordRef) (quad task : Nat)
  deriving DecidableEq, Repr

/-- What must park and waits for room in a CE's full queue (R279): the entry, the quad and task of its record, and the cause and the
value sr.tval takes when a fault is what parks it. -/
structure CeHeld where
  entry : CeParked
  quad : Nat
  task : Nat
  fault : Option (Nat × Word)
  deriving DecidableEq, Repr

/-- A coded packet (R261): the XOR of its members' blocks, and per member block id, generation, length, destination die. An uncoded
one has one member. -/
structure Packet where
  group : Nat
  data : List Byte
  pois : List Bool
  members : List (Nat × Nat × Nat × Nat)
  fallback : Bool
  deriving DecidableEq, Repr

/-- Messages between collective engines and the router (R256 to R263). Dies of other packages are numbered 16 × package + die. -/
inductive Msg where
  | transfer (x : Xfer)
  | ack (die rec_ seq : Nat) (status : BitVec 8) (element : Nat) (clock : List Nat)
  | block (x : Xfer)
  | packet (die : Nat) (p : Packet)
  | ackBlock (die id gen : Nat) (status : BitVec 8) (clock : List Nat)
  | fallback (die id gen dest : Nat)
  deriving DecidableEq, Repr

end Sys2Proof.Machine

namespace Sys2Proof.Config

/-- The payloads of the data flits that carry a message to another package: R31 gives no form of them. DESIGN CHOICE, log 60. -/
opaque messagePayloads : Machine.Msg → List (BitVec 960)

/-- The message that the payloads of data flits make once they are whole, with the bytes and clock it brings. DESIGN CHOICE, log 60. -/
opaque payloadMessage : List (BitVec 960) → Option Machine.Msg

/-- The time in whole seconds and nanoseconds that a time flit carries: R31 gives no form of its payload. DESIGN CHOICE, log 60. -/
opaque timeOfFlit : BitVec 960 → Nat × Nat

end Sys2Proof.Config

namespace Sys2Proof.Machine

/-- A side-information entry (R262). -/
structure SideEntry where
  id : Nat
  gen : Nat
  va : Nat
  asid : Nat
  len : Nat
  pin : Bool
  deriving DecidableEq, Repr

/-- A request waiting in a CE's input queue (R430, R431). -/
structure CeReq where
  kind : Nat
  quad : Nat
  asid : Nat
  /-- the task that issued it (R280) -/
  task : Nat
  a : Word
  b : Word
  c : Word
  cfg : BitVec 2
  deriving DecidableEq, Repr

/-- A range prefetch under way (R366). -/
structure Prefetch where
  quad : Nat
  asid : Nat
  va : Nat
  len : Nat
  token : WordRef
  place : Place
  deriving DecidableEq, Repr

/-- A logic die: 0 CD, 1 to 8 MD0 to MD7, 9 SD. -/
structure DieSt where
  rto : BitVec 32
  deHead : Nat
  deTail : Nat
  deDropped : Nat
  dlog : Sparse (BitVec 256)
  rqSel : BitVec 5
  ecsel : Sparse (BitVec 14)
  ecnt : Sparse (BitVec 48)
  vc : Sparse Nat
  applied : Nat
  known : Sparse Nat
  /-- greatest A_h of each home in the completion replies of the die's engines not yet merged by a release (R188) -/
  acks : Sparse Nat
  rdc : Sparse RdcLine
  tlb : List (Nat × Nat × Nat × Word)
  templates : Sparse (BitVec 512)
  channels : Sparse Channel
  ceIn : List CeReq
  ceRecs : List CeRec
  ceNext : Nat
  staging : List Xfer
  rxCount : Sparse Nat
  sideInfo : List SideEntry
  ceReplay : List CeParked
  ceHeld : List CeHeld
  /-- released sources that wait for room in staging, oldest first (R249, R280) -/
  ceReady : List CeParked
  /-- the cycle at which the die's engines issued a request that goes unanswered to the time-out limit (R25, R26; DESIGN CHOICE,
  log 61) -/
  late : Option Nat
  nnq : List (Nat × Nat × Nat × Nat)
  prefetches : List Prefetch
  /-- router of the die: parent port, hop count, generation of the last probe accepted (R34, R37) -/
  parent : Option (Nat × Nat × BitVec 32)
  deriving DecidableEq, Repr

/-- A request to a stack engine (R71); id is its number of arrival at the channels. -/
structure Req where
  id : Nat
  op : Nat
  addr : Nat
  len : Nat
  key : Nat
  qos : Nat
  afn : Nat
  flt : Bool
  die : Nat
  agent : Nat
  tag : Nat
  gen : Nat
  emask : BitVec 8
  flush : Bool
  pois : Bool
  data : List Byte
  ben : List Bool
  since : Nat
  /-- a clock carried by a release (R188), and whether the reply carries the home's clock (R189) -/
  clock : List Nat
  acquire : Bool
  pa : Nat
  home : Nat
  fill : Bool
  deriving DecidableEq, Repr

/-- A reply of a stack engine (R74). -/
structure Reply where
  op : Nat
  status : Nat
  die : Nat
  agent : Nat
  tag : Nat
  gen : Nat
  stack : Nat
  rcount : Nat
  rfail : Nat
  pmask : Nat
  data : List Byte
  clock : List Nat
  home : Nat
  applied : Nat
  pa : Nat
  fill : Bool
  deriving DecidableEq, Repr

/-- An entry of a channel queue: one granule operation (R77). -/
structure GranOp where
  gran : Nat
  mask : BitVec 64
  req : Nat
  deriving DecidableEq, Repr

/-- A reply that waits for its granule reads (R76). -/
structure Waiting where
  req : Nat
  left : Nat
  reply : Reply
  deriving DecidableEq, Repr

/-- A channel of a stack (R77, R81, R82). -/
structure ChanSt where
  rq : List GranOp
  wq : List GranOp
  draining : Bool
  byWatermark : Bool
  starved : Nat
  drainedAt : Nat
  round : Nat
  deriving DecidableEq, Repr

/-- A channel at reset. -/
def ChanSt.idle : ChanSt :=
  { rq := [], wq := [], draining := false, byWatermark := false, starved := 0, drainedAt := 0, round := 0 }

/-- A reduction under way (R87 to R90). -/
structure Reduction where
  block : BitVec 512
  done : Nat
  deriving DecidableEq, Repr

/-- A search query a home holds (R107 to R116): candidates and results as pairs of distance and id, best first; the visited set,
exact or as the bits of its filter; the round under way. Phase 0 is between rounds, 1 waits for neighbour lists, 2 for distances. -/
structure Query where
  id : Nat
  block : BitVec 1024
  desc : BitVec 512
  vec : List Byte
  c : List (Nat × Nat)
  w : List (Nat × Nat)
  seen : List Nat
  bloom : Option Nat
  visited : Nat
  rounds : Nat
  nan : Bool
  phase : Nat
  entered : Bool
  popped : List Nat
  lists : List (Nat × List Nat)
  news : List Nat
  dists : List (Nat × Nat)
  waiting : Nat
  fail : Option (Nat × Nat)
  status : Option Nat
  bad : Nat
  deriving DecidableEq, Repr

/-- A LIST or DIST message on its way to a stack (R114): home stack, query, ids. -/
structure SearchMsg where
  home : Nat
  query : Nat
  ids : List Nat
  deriving DecidableEq, Repr

/-- A RED not yet acknowledged (R85): requester, tag, the base-die cycle it was performed in, whether it found its target poisoned, and,
until R79 has resolved its granule, the request it came with; only then is it performed. -/
structure RedDone where
  die : Nat
  agent : Nat
  tag : Nat
  when_ : Nat
  failed : Bool
  flush : Bool
  home : Nat
  gen : Nat
  req : Option Nat
  deriving DecidableEq, Repr

/-- A command a migration engine has taken (R95, R96): its number and bytes, the page it is at, pages handled and completed, the first failure,
and, between steps 3 and 6, the entry it has set in motion with its address, its key and its level. -/
structure Migration where
  number : Nat
  cmd : BitVec 512
  va : Nat
  target : Nat
  handled : Nat
  completed : Nat
  status : Nat
  moving : Option (Word × Nat × Nat × Nat)
  deriving DecidableEq, Repr

/-- A stack engine (R68 to R101). -/
structure StackSt where
  ingress : Sparse (List Req)
  accepted : List Req
  chans : Sparse ChanSt
  waiting : List Waiting
  nextReq : Nat
  redPend : List RedDone
  seHead : Nat
  seTail : Nat
  seDropped : Nat
  slog : Sparse (BitVec 256)
  migBase : Word
  migPoll : Nat
  migProd : Option Nat
  migration : Option Migration
  reduce : List Reduction
  queries : List Query
  nextQuery : Nat
  aperture : List (Nat × Nat × Word × List Byte)
  listReq : List SearchMsg
  distReq : List SearchMsg
  deriving DecidableEq, Repr

/-- The states of a timetable entry (R122). -/
inductive EntryState where
  | free | waiting | released | running | completing
  deriving DecidableEq, Repr

/-- A gang at work (R130, R133, R138): the run it makes, its first instance number, its quads with the x1 to x6 of each, its
temporal index, its task start, the cycle its next run follows, and, while its context is saved, the context areas of its quads. -/
structure Gang where
  id : Nat
  inst : Nat
  quads : List Nat
  idxs : List (List Word)
  temporal : Nat
  start : Nat
  started : Bool
  nextAt : Nat
  ended : Bool
  resumed : Bool
  away : Bool
  ctxs : List Word
  /-- frame of its latest dispatch -/
  dispatched : Nat
  deriving DecidableEq, Repr

/-- A timetable entry (R54, R122). -/
structure Entry where
  st : EntryState
  image : BitVec 512
  count : Nat
  origin : Nat
  captured : Nat
  released : Nat
  /-- its release frame had passed at commit (R59) -/
  passed : Bool
  /-- the loop-nest record, or nothing for kind 0; the paired-channel map as dispatch read it -/
  record : BitVec 512
  pairs : BitVec 512
  binding : List Nat
  gangs : List Gang
  nextInst : Nat
  nextGang : Nat
  nextItem : Nat
  dispFrame : Option Nat
  failReq : Option (Nat × Nat)
  deriving DecidableEq, Repr

/-- A free entry. -/
def Entry.free : Entry :=
  { st := .free, image := 0, count := 0, origin := 0, captured := 0, released := 0, passed := false, record := 0, pairs := 0,
    binding := [], gangs := [], nextInst := 0, nextGang := 0, nextItem := 0, dispFrame := none, failReq := none }

/-- A loaded image (R63 to R67): its container, the physical die of each logical die, the physical quad of each logical
quad, its overlays as address space and address. -/
structure Image where
  addr : Nat
  dies : List Nat
  quads : List Nat
  overlays : List (Nat × Nat)
  deriving DecidableEq, Repr

/-- A viaduct port (R30 to R33): numbers of the next flit to send and to receive, the last one acknowledged, the flits not
acknowledged with how often each was replayed, and the flits that wait for room or for a port that is down. -/
structure VPort where
  up : Bool
  txSeq : Nat
  rxNext : Nat
  acked : Nat
  replay : List (BitVec 1024)
  /-- per flit of replay, in the same order -/
  replays : List Nat
  queue : List (BitVec 1024)
  /-- payloads of the data flits of a message that is not yet whole -/
  rxData : List (BitVec 960)
  deriving DecidableEq, Repr

/-- A port as trained. -/
def VPort.trained : VPort := { up := true, txSeq := 0, rxNext := 0, acked := 4095, replay := [], replays := [], queue := [], rxData := [] }

/-- A timed effect under way to a quad of another die (R16, R419, R429); equal cycles apply by rank (R420). -/
structure Arrival where
  due : Nat
  quad : Nat
  cell : Nat
  rank : Nat
  eff : Effect
  /-- it comes from another die: it waits in an elastic buffer (R16) -/
  crosses : Bool
  deriving DecidableEq, Repr

/-- A row on its way along a pair lane, or a credit on its way back (R245, R429). -/
structure LaneMsg where
  due : Nat
  quad : Nat
  lane : Nat
  row : Option Row
  crosses : Bool
  deriving DecidableEq, Repr

/-- An accepted table image not yet in force, and the word to write (R422). -/
structure SfLoad where
  due : Nat
  n : Nat
  image : Option (List Byte)
  word : WordRef
  deriving DecidableEq, Repr

/-- A TSPAWN that has reached Trestle (R433): the cycle, the spawning quad, the slot, the predicate, the entry image, and the address
space and binding of the spawning task. -/
structure Spawn where
  since : Nat
  quad : Nat
  slot : Nat
  pd : Nat
  image : BitVec 512
  asid : Nat
  bound : List Nat
  deriving DecidableEq, Repr

/-- What the device has told the host, an SPDM requester or the monitor (R51, R53, R445, R448). -/
inductive HostMsg where
  | readData (bytes : List Byte)
  | readAbort
  | spdm (bytes : List Byte)
  | shown (bytes : List Byte)
  | measurement (index : Nat) (bytes : List Byte)
  /-- the algorithms negotiated: for signatures and for hashes (R53) -/
  | algorithms (sign hash : BitVec 32)
  | signature (bytes : List Byte)
  | rdcLine (held : Bool) (dirty : BitVec 128) (bytes : List Byte)
  | stopped (quad bundle : Nat)
  | flit (port : Nat) (flit : BitVec 1024)
  | register (bar offset : Nat) (bytes : List Byte)
  deriving DecidableEq, Repr

/-- What the host asks of the function beside the acts of the opcode table: a read of registers, and the base address registers
and the size of BAR4 in its configuration space (R6, R50). -/
inductive HostAsk where
  | read (bar offset len : Nat)
  | setBase (bar : Nat) (addr : Word)
  | setSize (bits : Nat)
  deriving DecidableEq, Repr

/-- A group held by the combine buffer of the router (R261): its blocks as they arrived. -/
structure CodedGroup where
  id : Nat
  k : Nat
  blocks : List Xfer
  deriving DecidableEq, Repr

/-- A router's report kept by the boot processor (R37), with the port of the control die it came in on. -/
structure Report where
  pkg : Nat
  die : Nat
  hops : Nat
  parent : Nat
  links : List (Nat × Nat)
  via : Nat
  /-- the lowest port on which a report of as few hops has come in (R35) -/
  exit : Nat
  deriving DecidableEq, Repr

/-- The whole machine. -/
structure State where
  pcc : Nat
  wall : Nat
  ptp : Nat
  clockOn : Bool
  debugHalt : Bool
  episode : Option (Nat × Nat)
  hotDies : Sparse Nat
  tripped : Bool
  bootState : Nat
  bootStep : Nat
  bootSvn : BitVec 32
  resetReq : Bool
  flash : List Host.Cell
  /-- the firmware image that runs, as step 4 of R39 read it (R53) -/
  bootImage : List Host.Cell
  latTable : Sparse (BitVec 8)
  /-- source die, package number and die of the destination, and the ports of the path (R35) -/
  routes : List (Nat × Nat × Nat × List Nat)
  /-- die-to-die ports that did not train (R39) -/
  lanesDown : List (Nat × Nat)
  explGo : Bool
  explChanged : Bool
  explDup : Bool
  explFound : Nat
  explRunning : Bool
  explGen : BitVec 32
  explLast : Nat
  reports : List Report
  explFlits : List (Nat × Nat × BitVec 1024)
  pkgNum : BitVec 16
  pkgUsed : BitVec 16
  ports : Sparse VPort
  keys : Sparse (Option (BitVec 512))
  keySlotSel : BitVec 7
  /-- the key update that waits for the stack engines: a slot, and its keys or nothing to clear it (R44) -/
  keyPend : Option (Nat × Option (BitVec 512))
  keyData : BitVec 512
  w4base : Word
  ptpSource : BitVec 2
  ptpPort : BitVec 5
  ptpLocked : Bool
  ppsSeen : Bool
  ptpRate : BitVec 32
  forigin : Nat
  foriginNew : Option Nat
  loadAddr : Word
  loadStatus : Nat
  images : List Image
  surfBase : Word
  astBase : Word
  tlbInv : Word
  /-- the cycle the shootdown under way started (R180) -/
  tlbSince : Nat
  msix : List Nat
  hostOut : List HostMsg
  hostAsks : List HostAsk
  /-- the SPDM requests answered since the last GET_VERSION, with the answers: what a signature covers (R53) -/
  transcript : List Byte
  /-- writes of the host that act as a result of a stream core would, with the quad they name (R47, R48, R127, R367) -/
  hostWrites : List (Nat × PendWrite)
  bar0 : Word
  bar2 : Word
  bar4 : Word
  /-- BAR4 is 2^bar4Bits bytes (R50) -/
  bar4Bits : Nat
  entries : Sparse Entry
  slotBytes : Sparse (BitVec 512)
  lstatRejected : BitVec 32
  lstatSlot : Nat
  lstatReason : Nat
  stray : Nat
  unmatched : Nat
  arrivalTable : Sparse (BitVec 128)
  tagged : List (BitVec 32 × Nat × Nat)
  frame : BitVec 32
  held : Bool
  owait : Bool
  framesOn : Bool
  slipNs : Nat
  dueAt : Nat
  holdFreed : Option Nat
  holders : List (Nat × Nat)
  tfailSlot : Nat
  tfailQuad : Nat
  tfailCause : Nat
  tfailCount : Nat
  slHead : Nat
  slTail : Nat
  slDropped : Nat
  slipLog : Sparse (BitVec 256)
  /-- decrements of this cycle that found their slot free (R123) -/
  decs : List Nat
  /-- TSPAWNs that have reached Trestle: the cycle, quad, slot, predicate, image (R123, R433) -/
  spawns : List Spawn
  preempts : List (Nat × Nat)
  cores : Sparse CoreSt
  cells : Sparse CellSt
  dies : Sparse DieSt
  hbm : Sparse StackSt
  mem : List Host.Cell
  /-- per granule of storage: the keys and the tweak it was last written under (R43, R45) -/
  keyTag : Sparse (Option (BitVec 512 × Nat))
  poison : Sparse Bool
  /-- granules of far memory whose next fetch finds an uncorrectable error (R98, R100) -/
  farBad : Sparse Bool
  replies : List Reply
  msgs : List Msg
  combine : List CodedGroup
  arrivals : List Arrival
  laneMsgs : List LaneMsg
  tables : Sparse (List Byte)
  sftabs : List SfLoad
  monitor : Bool
  cur : Nat
  arg : EvArg
  inputs : List (Instr × EvArg)
  /-- acts of the outside world still to come, each with the wall time it comes at (DESIGN CHOICE, log 5) -/
  later : List (Nat × Instr × EvArg)
  choices : List Nat
  fresh : Nat
  deriving DecidableEq, Repr

/-- The architectural registers of a stream core at reset: the reset values of R234, R272, R340 and R468; halt_freeze of every
quad counter is 1; the registers without a reset value are 0 (DESIGN CHOICE, log 2). -/
def Arch.reset : Arch :=
  { x := [], p := [], lc := [], gens := [], tbase := 0, erc := false, lchk := false, skey := 0, sctr := 0, tvec := 0,
    tpc := 0, tcause := 0, tval := 0, tscr := 0, rgn := 0, rgnRec := 0, ctx := 0, rqSel := 0, es := [], rsTop := [],
    rsWin := [], rsHbm := [], rvs := 0, tmShape := 0, cecfg := 0, ldm := [], pend := [], pc := 0, portCnt := [],
    portLen := [], fmtCopy := [], credits := [], pushed := [], pushedFirst := [], spanPorts := [], spanLoops := [],
    spanWrites := [], spanDesc := 0 }

/-- A stream core at reset: stopped, both planes zero with invalid tags (R137; DESIGN CHOICE, log 2). -/
def CoreSt.reset : CoreSt :=
  { run := .stopped, arch := Arch.reset, slot := 0, bid := 0, issueAt := 0, stalled := false,
    taken := none, idleAdd := 0, keyBase := none, locked := false, lockNext := false, actions := [],
    snaps := [], lastRes := none, lsq := [], nextTag := 0, redIssued := [], redAcked := [], rfail := 0, ackClock := [], readClock := [], undo := [], ec := [],
    planes := [], active := 0, tags := [], ovlBusy := false, deferred := [], trapReq := none, waita := none,
    sync := none, pendPreds := [], tstats := [], task := none, rev := none, hold := none, sems := [], lanes := [], preempt := false,
    ending := false, breaks := [], brkSkip := false, trace := [], tlb := [] }

/-- A cell at reset: nothing stored, every full/empty bit empty, ports unbound (DESIGN CHOICE, logs 2 and 3). -/
def CellSt.reset : CellSt :=
  { tiles := [], scales := [], acc := [], spm := [], spmPois := [], tags := [], full := 0, flags := [], status := [],
    wAct := none, wShad := none, qports := [], fmtq := [], qMat := [], qVec := [], qSf := [], freeAt := [],
    sched := [], passes := [], rngK := 0, rngC := 0, sticky := [], spilled := 0, reserved := [], ended := [],
    waiting := [], parked := false, batch := none, demand := none, aheadStop := false, pin := none, spillStop := false, waitFrom := 0, seedMarks := [], opened := [], words := [] }

/-- A logic die at reset: RTO.limit 0x0100_0000 (R26), logs empty (R28), counters cleared with halt_freeze 1 (R46), clocks
zero (R187), templates zero (R367), caches empty. -/
def DieSt.reset : DieSt :=
  { rto := 0x01000000, deHead := 0, deTail := 0, deDropped := 0, dlog := [], rqSel := 0, ecsel := [], ecnt := [],
    vc := [], applied := 0, known := [], acks := [], rdc := [], tlb := [], templates := [], channels := [], ceIn := [], ceRecs := [],
    ceNext := 0, staging := [], rxCount := [], sideInfo := [], ceReplay := [], ceHeld := [], ceReady := [], late := none, nnq := [],
    prefetches := [], parent := none }

/-- A stack engine at reset: queues empty, log empty (R100), migration engine disabled (R95). -/
def StackSt.reset : StackSt :=
  { ingress := [], accepted := [], chans := [], waiting := [], nextReq := 0, redPend := [], seHead := 0, seTail := 0,
    seDropped := 0, slog := [], migBase := 0, migPoll := 0, migProd := none, migration := none, reduce := [], queries := [], nextQuery := 0,
    aperture := [], listReq := [], distReq := [] }

/-- The machine right after a cold reset: booting (BOOTST.state 1, step 0), every PCC zero, PKGNUM 0xFFFF, no key valid,
every entry free, no memory written. -/
def State.reset : State :=
  { pcc := 0, wall := 0, ptp := 0, clockOn := true, debugHalt := false, episode := none, hotDies := [], tripped := false,
    bootState := 1, bootStep := 0, bootSvn := 0, resetReq := false, flash := [], bootImage := [], latTable := [],
    routes := [], lanesDown := [], explGo := false, explChanged := false, explDup := false, explFound := 0, explRunning := false,
    explGen := 0, explLast := 0, reports := [], explFlits := [], pkgNum := 0xFFFF, pkgUsed := 0, ports := [], keys := [],
    keySlotSel := 0, keyPend := none, keyData := 0, w4base := 0, ptpSource := 0, ptpPort := 0, ptpLocked := false,
    ppsSeen := false, ptpRate := 0, forigin := 0, foriginNew := none, loadAddr := 0, loadStatus := 0, images := [],
    surfBase := 0, astBase := 0, tlbInv := 0, tlbSince := 0, msix := [], hostOut := [], hostAsks := [], transcript := [], hostWrites := [], bar0 := 0, bar2 := 0, bar4 := 0, bar4Bits := 40, entries := [], slotBytes := [],
    lstatRejected := 0, lstatSlot := 0, lstatReason := 0, stray := 0, unmatched := 0, arrivalTable := [], tagged := [],
    frame := 0, held := false, owait := false, framesOn := false, slipNs := 0, dueAt := 0, holdFreed := none,
    holders := [], tfailSlot := 0, tfailQuad := 0, tfailCause := 0, tfailCount := 0, slHead := 0, slTail := 0,
    slDropped := 0, slipLog := [], decs := [], spawns := [], preempts := [], cores := [], cells := [],
    dies := [], hbm := [], mem := [], keyTag := [], poison := [], farBad := [], replies := [], msgs := [], combine := [],
    arrivals := [], laneMsgs := [], tables := [], sftabs := [], monitor := false, cur := 0,
    arg := EvArg.none, inputs := [], later := [], choices := [], fresh := 0 }

end Sys2Proof.Machine
end

