-- ==== Sys2Proof/Machine/Ops.lean ====
section
/-! DEFINITION. The shared operations: keyed data, access to units and registers, results and their cycles, the end of a
slot and of a bundle, taking a trap and returning from one. -/

namespace Sys2Proof.Machine

/-- An unsigned field of a bit vector. -/
def nfield {m : Nat} (v : BitVec m) (lo n : Nat) : Nat := (v.toNat >>> lo) % 2 ^ n

/-! ### Keyed data -/

/-- The value at a key; an unlisted key reads as dflt. -/
def sget {α : Type} (dflt : α) : Sparse α → Nat → α
  | [], _ => dflt
  | (j, v) :: r, k => if j = k then v else sget dflt r k

/-- The data without key k. -/
def serase {α : Type} : Sparse α → Nat → Sparse α
  | [], _ => []
  | (j, v) :: r, k => if j = k then serase r k else (j, v) :: serase r k

/-- The data with an entry put before the first greater key. -/
def sinsert {α : Type} : Sparse α → Nat → α → Sparse α
  | [], k, v => [(k, v)]
  | (j, w) :: r, k, v => if k < j then (k, v) :: (j, w) :: r else (j, w) :: sinsert r k v

/-- The data with key k at v; writing what an unlisted key reads as removes the entry. -/
def sset {α : Type} [DecidableEq α] (dflt : α) (m : Sparse α) (k : Nat) (v : α) : Sparse α :=
  if v = dflt then serase m k else sinsert (serase m k) k v

/-- The canonical form of keyed data: keys strictly rise and no entry is the value of an unlisted key. -/
def swf {α : Type} [DecidableEq α] (dflt : α) : Sparse α → Bool
  | [] => true
  | [(_, v)] => decide (v ≠ dflt)
  | (j, v) :: (k, w) :: r => decide (j < k) && decide (v ≠ dflt) && swf dflt ((k, w) :: r)

/-- What a byte of memory that nothing has written reads as (DESIGN CHOICE, log 1). -/
def emptyByte : Byte := 0

/-- The canonical form of global memory. -/
abbrev Memory.wf (m : List Host.Cell) : Bool := swf emptyByte m

/-! ### Units -/

def State.core (s : State) (q : Nat) : CoreSt := sget CoreSt.reset s.cores q
def State.setCore (s : State) (q : Nat) (c : CoreSt) : State := { s with cores := sset CoreSt.reset s.cores q c }
def State.modCore (s : State) (q : Nat) (f : CoreSt → CoreSt) : State := s.setCore q (f (s.core q))
def State.modArch (s : State) (q : Nat) (f : Arch → Arch) : State :=
  s.modCore q fun c => { c with arch := f c.arch }

/-- Cell j of quad q. -/
def State.cell (s : State) (q j : Nat) : CellSt := sget CellSt.reset s.cells (4 * q + j)
def State.setCell (s : State) (q j : Nat) (c : CellSt) : State :=
  { s with cells := sset CellSt.reset s.cells (4 * q + j) c }
def State.modCell (s : State) (q j : Nat) (f : CellSt → CellSt) : State := s.setCell q j (f (s.cell q j))

def State.die (s : State) (d : Nat) : DieSt := sget DieSt.reset s.dies d
def State.modDie (s : State) (d : Nat) (f : DieSt → DieSt) : State :=
  { s with dies := sset DieSt.reset s.dies d (f (s.die d)) }

def State.stack (s : State) (k : Nat) : StackSt := sget StackSt.reset s.hbm k
def State.modStack (s : State) (k : Nat) (f : StackSt → StackSt) : State :=
  { s with hbm := sset StackSt.reset s.hbm k (f (s.stack k)) }

def State.entry (s : State) (i : Nat) : Entry := sget Entry.free s.entries i
def State.modEntry (s : State) (i : Nat) (f : Entry → Entry) : State :=
  { s with entries := sset Entry.free s.entries i (f (s.entry i)) }

/-- The matrix die of quad q (R141), numbered as in R12. -/
def quadDie (q : Nat) : Nat := q / 32 + 1

/-- Send MSI-X vector v (R52). -/
def State.irq (s : State) (v : Nat) : State := { s with msix := s.msix ++ [v] }

/-- Base-die cycles elapsed: the base die runs at 1.0 GHz, wall counts 1/48 ns. -/
def State.baseCycle (s : State) : Nat := s.wall / 48

/-- PTP time in whole nanoseconds, modulo 2^64 (R28, R100, R139). -/
def State.ptpNs (s : State) : Nat := s.ptp / (48 * 2 ^ 40) % 2 ^ 64

/-! ### The die-pair latency -/

/-- L(a, b) as the latency table holds it (R18). -/
def State.lat (s : State) (a b : Nat) : Nat :=
  if a = b then 0 else (sget 0 s.latTable (16 * a + b)).toNat

/-! ### Scalar registers and predicates -/

/-- Scalar register n; x0 reads zero (R294). -/
def Arch.rx (c : Arch) (n : Nat) : Word := if n = 0 then 0 else sget 0 c.x n

/-- Predicate n; p0 reads all ones (R294). -/
def Arch.rp (c : Arch) (n : Nat) : Pred := if n = 0 then BitVec.allOnes 512 else sget 0 c.p n

/-- The low five bits of a field that names a predicate (R294). -/
def predNo (f : BitVec 6) : Nat := f.toNat % 32

/-- The scalar guard: bit 0 of p(pg), XOR ng (R299). -/
def Arch.guardTrue (c : Arch) (pg : BitVec 5) (ng : BitVec 1) : Bool :=
  ((c.rp pg.toNat).getLsbD 0) != (ng == 1)

/-- The guard of every bit of a predicate: p(pg) XOR ng (R300). -/
def Arch.guardBits (c : Arch) (pg : BitVec 5) (ng : BitVec 1) : Pred :=
  if ng == 1 then ~~~(c.rp pg.toNat) else c.rp pg.toNat

/-- The guard pg = 0, ng = 0, which is always true. -/
def guardAlways (pg : BitVec 5) (ng : BitVec 1) : Bool := pg == 0 && ng == 0

/-! ### Results and their cycles -/

/-- The least upper bits of a value as the 1,024 bits of a pending write. -/
def wide {n : Nat} (v : BitVec n) : BitVec 1024 := v.setWidth 1024

/-- A result written by the slot under execution at cycle pcc + lat (R170, R313); slot B outranks slot A (R309). -/
def writeLater (s : State) (q lat : Nat) (dst : Dest) (val : BitVec 1024) : State :=
  s.modCore q fun c =>
    { c with arch := { c.arch with pend := c.arch.pend ++
        [{ due := s.pcc + lat, rank := c.slot, bid := c.bid, dst := dst, val := val }] } }

/-- A scalar result; a write to x0 is discarded (R294). -/
def writeX (s : State) (q lat n : Nat) (v : Word) : State :=
  if n = 0 then s else writeLater s q lat (.x n) (wide v)

/-- A predicate result in the bits of mask; a write to p0 is discarded (R294). -/
def writeP (s : State) (q lat n : Nat) (v mask : Pred) : State :=
  if n = 0 then s else writeLater s q lat (.p n mask) (wide v)

/-- All 512 bits of a predicate from one truth value. -/
def predOf (b : Bool) : Pred := if b then BitVec.allOnes 512 else 0

/-- Bytes of a bit vector, least significant first (R5). -/
def bytesOf {n : Nat} (v : BitVec n) (count : Nat) : List Byte :=
  (List.range count).map fun i => v.extractLsb' (8 * i) 8

/-- The little-endian value of a list of bytes (R5). -/
def natOfBytes (bs : List Byte) : Nat := bs.foldr (fun b acc => b.toNat + 256 * acc) 0

/-- The bits of a number as a vector, from little-endian bytes. -/
def bitsOfBytes (n : Nat) (bs : List Byte) : BitVec n := BitVec.ofNat n (natOfBytes bs)

/-! ### Local data memory -/

/-- The size of LDM (R345). -/
def ldmSize : Nat := 0x40000

def Arch.ldmBytes (c : Arch) (addr len : Nat) : List Byte :=
  (List.range len).map fun i => sget 0 c.ldm (addr + i)

/-- Store bytes into keyed bytes from an address on. -/
def putBytes (dflt : Byte) (m : Sparse Byte) (addr : Nat) : List Byte → Sparse Byte
  | [] => m
  | b :: r => putBytes dflt (sset dflt m addr b) (addr + 1) r

/-! ### System registers (R339, R340) -/

/-- sr.lcN as a word (R340). -/
def LoopCtr.word (l : LoopCtr) : Word :=
  (0#9 ++ (if l.active then 1#1 else 0#1) ++ l.last ++ l.first ++ l.value : BitVec (9 + 1 + 11 + 11 + 32))

/-- sr.lcN from a written word. -/
def LoopCtr.ofWord (w : Word) : LoopCtr :=
  { value := w.extractLsb' 0 32, first := w.extractLsb' 32 11, last := w.extractLsb' 43 11, active := w.getLsbD 54 }

/-- The reset value of an event select register: halt_freeze is 1 (R46, R340). -/
def ecselReset : BitVec 14 := 0x800

/-- The logical quad of a physical quad under a binding; without one the physical number (R65, R67). -/
def logicalQuad (binding : List Nat) (q : Nat) : Nat :=
  if binding.isEmpty then q else binding.findIdx (· == q)

/-- The binding of the task a core runs; empty where it runs none or has none. -/
def CoreSt.binding (c : CoreSt) : List Nat :=
  match c.task with
  | some t => t.binding
  | none => []

/-- The parked chunks of a channel of a die; channel 16 is the CE queue (R280). -/
def parkedCount (s : State) (die chan : Nat) : Nat :=
  if chan = 16 then (s.die die).ceReplay.length
  else (sget Channel.empty (s.die die).channels chan).parked.length

/-- The queue an RQCTL selection names (R280). -/
def rqChan (sel : BitVec 5) : Nat := if sel.getLsbD 4 then 16 else (sel.extractLsb' 0 4).toNat

/-- The value of system register n of core q at this cycle; none where R340 has no such register. -/
def sysRead (s : State) (q n : Nat) : Option Word :=
  let c := s.core q
  let a := c.arch
  if n = 0x000 then some (BitVec.ofNat 64 s.pcc)
  else if n = 0x001 then some (BitVec.ofNat 64 a.tbase)
  else if n = 0x002 then some (s.frame.setWidth 64)
  else if n = 0x003 then
    some (BitVec.ofNat 64 (q + 256 * quadDie q + (if c.task.isSome then 65536 * (logicalQuad c.binding q % 256) else 0)))
  else if n = 0x004 then some (if a.erc then 1 else 0)
  else if n = 0x005 then some (if a.lchk then 1 else 0)
  else if n = 0x006 then some a.skey
  else if n = 0x007 then some a.sctr
  else if 0x008 ≤ n ∧ n ≤ 0x00B then some (sget LoopCtr.zero a.lc (n - 8)).word
  else if n = 0x010 then some (a.tvec.setWidth 64)
  else if n = 0x011 then some (a.tpc.setWidth 64)
  else if n = 0x012 then some a.tcause
  else if n = 0x013 then some a.tval
  else if n = 0x014 then some a.tscr
  else if n = 0x015 then some (a.rgn.setWidth 64)
  else if n = 0x016 then some a.ctx
  else if n = 0x017 then
    some (BitVec.ofNat 64 (a.rqSel.toNat + 256 * parkedCount s (quadDie q) (rqChan a.rqSel)))
  else if 0x020 ≤ n ∧ n ≤ 0x023 then some ((sget 0 c.ec (n - 0x20)).setWidth 64)
  else if 0x024 ≤ n ∧ n ≤ 0x027 then some ((sget ecselReset a.es (n - 0x24)).setWidth 64)
  else if 0x0C0 ≤ n ∧ n ≤ 0x0C3 then some ((sget 0 a.rsTop (n - 0xC0)).setWidth 64)
  else if 0x0C4 ≤ n ∧ n ≤ 0x0C7 then some (BitVec.ofNat 64 (s.cell q (n - 0xC4)).spilled)
  else if 0x0C8 ≤ n ∧ n ≤ 0x0CB then some ((sget 0 a.rsWin (n - 0xC8)).setWidth 64)
  else if 0x0CC ≤ n ∧ n ≤ 0x0CF then some (sget 0 a.rsHbm (n - 0xCC))
  else if n = 0x0D0 then some (a.rvs.setWidth 64)
  else if n = 0x0E0 then some (a.tmShape.setWidth 64)
  else if n = 0x0E4 then some (a.cecfg.setWidth 64)
  else none

/-- An event select register after a write: source, enable, halt_freeze and ovf_irq are RW, ovf is W1C (R46). -/
def ecselWrite (old : BitVec 14) (w : Word) : BitVec 14 :=
  let ovf := old.getLsbD 12 && !(w.getLsbD 12)
  (w.extractLsb' 0 14 &&& 0x2FFF#14) ||| (if ovf then 0x1000#14 else 0)

/-- System register n takes the written value by its access codes (R6, R340); read-only registers ignore it. After a write to a
residual register the granules of its cell count as held and written (R469). -/
def sysWrite (s : State) (q n : Nat) (w : Word) : State :=
  let arch (f : Arch → Arch) : State := s.modArch q f
  let held (j : Nat) (t : State) : State := t.modCell q j fun c => { c with reserved := [] }
  if n = 0x004 then arch fun a => { a with erc := w.getLsbD 0 }
  else if n = 0x005 then arch fun a => { a with lchk := w.getLsbD 0 }
  else if n = 0x006 then arch fun a => { a with skey := w }
  else if n = 0x007 then arch fun a => { a with sctr := w }
  else if 0x008 ≤ n ∧ n ≤ 0x00B then
    arch fun a => { a with lc := sset LoopCtr.zero a.lc (n - 8) (LoopCtr.ofWord w) }
  else if n = 0x010 then arch fun a => { a with tvec := w.extractLsb' 0 12 }
  else if n = 0x011 then arch fun a => { a with tpc := w.extractLsb' 0 11 }
  else if n = 0x014 then arch fun a => { a with tscr := w }
  else if n = 0x016 then arch fun a => { a with ctx := w &&& 0x0000FFFFFFFFF000#64 }
  else if n = 0x017 then arch fun a => { a with rqSel := w.extractLsb' 0 5 }
  else if 0x020 ≤ n ∧ n ≤ 0x023 then
    s.modCore q fun c => { c with ec := sset 0 c.ec (n - 0x20) (w.extractLsb' 0 48) }
  else if 0x024 ≤ n ∧ n ≤ 0x027 then
    arch fun a => { a with es := sset ecselReset a.es (n - 0x24) (ecselWrite (sget ecselReset a.es (n - 0x24)) w) }
  else if 0x0C0 ≤ n ∧ n ≤ 0x0C3 then
    held (n - 0xC0) (arch fun a => { a with rsTop := sset 0 a.rsTop (n - 0xC0) (w.extractLsb' 0 40) })
  else if 0x0C4 ≤ n ∧ n ≤ 0x0C7 then
    held (n - 0xC4) (s.modCell q (n - 0xC4) fun c => { c with spilled := (w.extractLsb' 0 40).toNat })
  else if 0x0C8 ≤ n ∧ n ≤ 0x0CB then
    held (n - 0xC8) (arch fun a => { a with rsWin := sset 0 a.rsWin (n - 0xC8) (w.extractLsb' 0 29 &&& 0x1FFF0FFF#29) })
  else if 0x0CC ≤ n ∧ n ≤ 0x0CF then
    held (n - 0xCC) (arch fun a => { a with rsHbm := sset 0 a.rsHbm (n - 0xCC) (w &&& 0xFFFFFFFFFFFFF000#64) })
  else if n = 0x0E0 then arch fun a => { a with tmShape := w.extractLsb' 0 32 &&& 0x7FFF#32 }
  else if n = 0x0E4 then arch fun a => { a with cecfg := w.extractLsb' 0 2 }
  else s

/-! ### Commit (R149) -/

/-- An operation whose answer its bundle's commit awaits. -/
def MemOp.blocks (m : MemOp) : Bool :=
  match m.kind with
  | .load | .atom => true
  | .store | .red | .tmpl => false

/-- The oldest bundle of which a check has still to be passed, its go store's place in a queue apart. -/
def CoreSt.checked (c : CoreSt) : Nat :=
  let fromOps := c.lsq.foldl (fun m op => if op.blocks then min m op.bid else m) c.bid
  let fromWait := match c.waita with
    | some w => min fromOps w.bid
    | none => fromOps
  match c.sync with
  | some (.fence _ _ b) => min fromWait b
  | _ => fromWait

/-- A go store's command. -/
def Action.isGo : Action → Bool
  | .go _ _ _ _ _ _ => true
  | _ => false

/-- The oldest bundle that has not committed: every bundle below it has. A go store commits when its command has been queued (R368). -/
def CoreSt.frontier (c : CoreSt) : Nat := c.actions.foldl (fun m a => if a.2.isGo then min m a.1 else m) c.checked

/-! ### Results reach their destinations (R150, R171) -/

/-- A register of the residual stack (R234). -/
def residualReg (n : Nat) : Bool := decide (0x0C0 ≤ n ∧ n ≤ 0x0D0)

/-- Bytes of a word of a template or a table entry replaced. -/
def putPart {n : Nat} (old : BitVec n) (at_ len : Nat) (v : BitVec 1024) : BitVec n :=
  let mask : BitVec n := BitVec.ofNat n (2 ^ len - 1) <<< at_
  (old &&& ~~~mask) ||| ((v.setWidth n) <<< at_ &&& mask)

/-- A pending result reaches its destination. -/
def putResult (s : State) (q : Nat) (w : PendWrite) : State :=
  match w.dst with
  | .x n => s.modArch q fun a => { a with x := sset 0 a.x n (w.val.setWidth 64) }
  | .p n mask => s.modArch q fun a =>
      { a with p := sset 0 a.p n ((sget 0 a.p n &&& ~~~mask) ||| (w.val.setWidth 512 &&& mask)) }
  | .sys n => sysWrite s q n (w.val.setWidth 64)
  | .gen n => s.modArch q fun a => { a with gens := sset 0 a.gens n w.val }
  | .tbase => s.modArch q fun a => { a with tbase := w.val.toNat }
  | .ldm addr len => s.modArch q fun a => { a with ldm := putBytes 0 a.ldm addr (bytesOf w.val len) }
  | .template t k =>
      s.modDie (quadDie q) fun d => { d with templates := sset 0 d.templates t (putPart (sget 0 d.templates t) (64 * k) 64 w.val) }
  | .arrivalEntry n => { s with arrivalTable := sset 0 s.arrivalTable n (w.val.setWidth 128) }
  | .arrivalHalf n h => { s with arrivalTable := sset 0 s.arrivalTable n (putPart (sget 0 s.arrivalTable n) (64 * h) 64 w.val) }
  | .tag p =>
      let tag : Option (Nat × Nat) := if w.val = 0 then none else some (w.val.toNat % 2 ^ 64 - 1, w.val.toNat / 2 ^ 64)
      s.modCore q fun c => { c with tags := sset none c.tags p tag }

/-- A plane's tag as the value of a result: 0 for none, else one more than the code address with the address space from bit 64 on. -/
def tagValue : Option (Nat × Nat) → BitVec 1024
  | none => 0
  | some t => BitVec.ofNat 1024 (t.1 + 1 + 2 ^ 64 * t.2)

/-- What a result replaces where no copy of the core's registers holds it (R150, R272): the distance a counter or a residual
register moves back, or the word as it was. -/
def replaced (s : State) (q : Nat) (w : PendWrite) : Option (BitVec 1024) :=
  match w.dst with
  | .sys n =>
    if 0x020 ≤ n ∧ n ≤ 0x023 then some (wide (sget 0 (s.core q).ec (n - 0x20) - w.val.setWidth 48))
    else if 0x0C4 ≤ n ∧ n ≤ 0x0C7 then some (wide (BitVec.ofNat 40 (s.cell q (n - 0xC4)).spilled - w.val.setWidth 40))
    else none
  | .template t k => some (wide ((sget 0 (s.die (quadDie q)).templates t).extractLsb' (64 * k) 64))
  | .arrivalEntry n => some (wide (sget 0 s.arrivalTable n))
  | .tag p => some (tagValue (sget none (s.core q).tags p))
  | _ => none

/-- An effect of a bundle on something beside the core's registers is remembered until the bundle commits; due tells the order in which
such effects came about. -/
def remember (s : State) (q bid : Nat) (dst : Dest) (old : BitVec 1024) : State :=
  { s.modCore q fun c => { c with undo := { due := s.fresh, rank := 0, bid := bid, dst := dst, val := old } :: c.undo } with
    fresh := s.fresh + 1 }

/-- The same, an entry of the arrival-match table by its halves, which the host writes apart (R127). -/
def rememberAll (s : State) (q bid : Nat) (dst : Dest) (old : BitVec 1024) : State :=
  match dst with
  | .arrivalEntry n =>
    remember (remember s q bid (.arrivalHalf n 0) (wide (old.extractLsb' 0 64))) q bid (.arrivalHalf n 1) (wide (old.extractLsb' 64 64))
  | d => remember s q bid d old

/-- Results of cores q and p go to one place that cores share: a template word of their die, an entry of the arrival-match table. -/
def sharedPlace (q p : Nat) (a b : Dest) : Bool :=
  match a, b with
  | .template t k, .template u l => quadDie q == quadDie p && t == u && k == l
  | .arrivalEntry n, .arrivalEntry m => n == m
  | .arrivalEntry n, .arrivalHalf m _ => n == m
  | .arrivalHalf n _, .arrivalEntry m => n == m
  | .arrivalHalf n h, .arrivalHalf m g => n == m && h == g
  | _, _ => false

/-- The cores forget what a shared place held before a write that has come since and stays: a trap does not bring it back. -/
def forgetPlace (s : State) (q seq : Nat) (dst : Dest) : State :=
  if s.cores.any fun c => c.2.undo.any fun w => decide (w.due < seq) && sharedPlace q c.1 dst w.dst then
    { s with cores := s.cores.map fun c => (c.1, { c.2 with undo := c.2.undo.filter fun w => !(decide (w.due < seq) && sharedPlace q c.1 dst w.dst) }) }
  else s

/-- The first write of another core to the place since, of those that can still be cancelled. -/
def laterWrite (s : State) (q : Nat) (w : PendWrite) : Option (Nat × PendWrite) :=
  s.cores.foldl (fun m c => c.2.undo.foldl (fun m v =>
    if decide (w.due < v.due) && sharedPlace q c.1 w.dst v.dst then
      match m with
      | some x => if v.due < x.2.due then some (c.1, v) else m
      | none => some (c.1, v)
    else m) m) none

/-- What a cancelled bundle wrote beside the core's registers is put back; where another core has written the place since, that write
stays, and what it would bring back is now what stood here before both. -/
def putBack (s : State) (q : Nat) (w : PendWrite) : State :=
  match w.dst with
  | .sys n =>
    if 0x020 ≤ n ∧ n ≤ 0x023 then
      s.modCore q fun c => { c with ec := sset 0 c.ec (n - 0x20) (sget 0 c.ec (n - 0x20) + w.val.setWidth 48) }
    else s.modCell q (n - 0xC4) fun c => { c with spilled := (BitVec.ofNat 40 c.spilled + w.val.setWidth 40).toNat }
  | _ =>
    match laterWrite s q w with
    | some x => s.modCore x.1 fun c => { c with undo := c.undo.map fun v => if v = x.2 then { v with val := w.val } else v }
    | none => putResult s q w

/-- A bundle can still be cancelled: it has not committed, or a spill may yet fault against an older one (R232). -/
def CoreSt.undoable (c : CoreSt) (bid : Nat) : Bool := decide (c.frontier ≤ bid) || c.snaps.any fun p => decide (p.1 ≤ bid)

/-- The cell whose granules a write of a residual register counts as held and written (R469). -/
def Dest.residualCell : Dest → Option Nat
  | .sys n => if 0x0C0 ≤ n ∧ n ≤ 0x0CF then some ((n - 0x0C0) % 4) else none
  | _ => none

/-- The reservations of a cell that a bundle's write of a residual register ends are remembered. -/
def rememberEnded (s : State) (q : Nat) (w : PendWrite) : State :=
  match w.dst.residualCell with
  | some j => if (s.cell q j).reserved.isEmpty then s else s.modCell q j fun c => { c with ended := (w.bid, c.reserved) :: c.ended }
  | none => s

/-- A pending result reaches its destination; what it replaces is remembered while its bundle can be cancelled, and where it cannot be
no core brings back what a shared place held before. -/
def applyWrite (s : State) (q : Nat) (w : PendWrite) : State :=
  if (s.core q).undoable w.bid then
    match replaced s q w with
    | some old => putResult (rememberAll (rememberEnded s q w) q w.bid w.dst old) q w
    | none => putResult (rememberEnded s q w) q w
  else putResult (forgetPlace s q s.fresh w.dst) q w

/-- The order in which results are written: by cycle, a TSTAT last (rank 8, R411), then by bundle, then by rank (R309). -/
def PendWrite.before (w v : PendWrite) : Bool :=
  let key (x : PendWrite) : Nat × Nat × Nat × Nat := (x.due, x.rank / 8, x.bid, x.rank)
  let a := key w
  let b := key v
  decide (a.1 < b.1) || (a.1 == b.1 && (decide (a.2.1 < b.2.1) || (a.2.1 == b.2.1 &&
    (decide (a.2.2.1 < b.2.2.1) || (a.2.2.1 == b.2.2.1 && decide (a.2.2.2 < b.2.2.2))))))

/-- Insertion of a result into a list in the order of writing, after its equals. -/
def insertPend (w : PendWrite) : List PendWrite → List PendWrite
  | [] => [w]
  | v :: r => if w.before v then w :: v :: r else v :: insertPend w r

/-- The results of core q that are due at the present cycle are written, in order of cycle and rank (R171, R309). -/
def applyDue (s : State) (q : Nat) : State :=
  let c := s.core q
  let due := (c.arch.pend.filter fun w => w.due ≤ s.pcc).foldl (fun l w => insertPend w l) []
  let s1 := s.modArch q fun a => { a with pend := a.pend.filter fun w => !(decide (w.due ≤ s.pcc)) }
  due.foldl (fun t w => applyWrite t q w) s1

/-! ### Fetch -/

/-- Bundle n of the active plane (R287). DEDUCED, log 56. -/
def CoreSt.bundleAt (c : CoreSt) (n : Nat) : Bundle := sget 0 c.planes (2048 * c.active + n % 2048)

/-- The bundle a core is at. -/
def CoreSt.curBundle (c : CoreSt) : Bundle := c.bundleAt c.arch.pc

/-- A forward span is open (sr.rvs.inspan). -/
def Arch.inSpan (a : Arch) : Bool := a.rvs.getLsbD 13

/-- A REV is in progress (sr.rvs.active). -/
def Arch.revActive (a : Arch) : Bool := a.rvs.getLsbD 11

/-- In a trap handler (sr.tcause.inh). -/
def Arch.inHandler (a : Arch) : Bool := a.tcause.getLsbD 31

/-- The bundles that issue now belong to an open span: a handler's do not (R225, R274). -/
def Arch.spanRules (a : Arch) : Bool := a.inSpan && !a.inHandler

/-- The bundles that issue now are walked by REV. -/
def Arch.walking (a : Arch) : Bool := a.revActive && !a.inHandler

/-- The bundle under execution issues interlocked (R152, R274). -/
def CoreSt.interlocked (c : CoreSt) : Bool :=
  headerLock c.curBundle || c.arch.inHandler || c.locked || c.arch.revActive ||
    (match c.task with | some t => t.lockAll | none => false)

/-- The command lead of a quad: the latency from the control die to its die and the decode there (R15). -/
def State.lead (s : State) (q : Nat) : Nat := s.lat 0 (quadDie q) + Config.decodeCycles

/-- The start cycle of the bundle's cell commands (R146), a command lead after its issue where its header gives none. -/
def CoreSt.startCycle (c : CoreSt) (pcc lead : Nat) : Nat :=
  let o := headerStart c.curBundle
  if o = 0xFFFF then pcc + lead else c.arch.tbase + o

/-! ### Event counters (R46, R47) -/

/-- A counter after n more counts: its value and whether it wrapped. -/
def countUp (v : BitVec 48) (n : Nat) : BitVec 48 × Bool := (v + BitVec.ofNat 48 n, decide (2 ^ 48 ≤ v.toNat + n))

/-- The source a select register counts, 0 while it is disabled. -/
def ecSource (e : BitVec 14) : Nat := if e.getLsbD 10 then nfield e 0 10 else 0

/-- A wrap is a step of its own; it comes next. Owners 0 to 255 are quads, 256 + d is die d. -/
def noteWrap (s : State) (owner n : Nat) : State :=
  { s with inputs := (.counterWrap, { EvArg.none with a := owner, b := n }) :: s.inputs }

/-- A counter that holds: its select register has halt_freeze and a debug halt stops the clock (R46). -/
def State.frozen (s : State) (e : BitVec 14) : Bool := s.debugHalt && e.getLsbD 11

/-- Counter k of quad q counts n of a source. -/
def countQuadOne (q src n : Nat) (s : State) (k : Nat) : State :=
  let c := s.core q
  if ecSource (sget ecselReset c.arch.es k) ≠ src ∨ n = 0 ∨ s.frozen (sget ecselReset c.arch.es k) then s
  else
    let r := countUp (sget 0 c.ec k) n
    let t := s.modCore q fun c => { c with ec := sset 0 c.ec k r.1 }
    if r.2 then noteWrap t q k else t

/-- Every counter of quad q that selects a source counts n. -/
def countQuad (s : State) (q src n : Nat) : State := [0, 1, 2, 3].foldl (countQuadOne q src n) s

/-- Counter k of die d counts n of a source. -/
def countDieOne (d src n : Nat) (s : State) (k : Nat) : State :=
  let x := s.die d
  if ecSource (sget ecselReset x.ecsel k) ≠ src ∨ n = 0 ∨ s.frozen (sget ecselReset x.ecsel k) then s
  else
    let r := countUp (sget 0 x.ecnt k) n
    let t := s.modDie d fun x => { x with ecnt := sset 0 x.ecnt k r.1 }
    if r.2 then noteWrap t (256 + d) k else t

/-- Every counter of die d that selects a source counts n. -/
def countDie (s : State) (d src n : Nat) : State := (List.range 16).foldl (countDieOne d src n) s

/-! ### Taking a trap and returning from one (R272 to R274) -/

/-- sr.tcause as a trap records it, in-handler bit apart (R272). -/
def Trap.causeWord (t : Trap) (inh rev : Bool) : Word :=
  BitVec.ofNat 64 (t.cause + 32 * t.slot + 2 ^ 8 * t.origin + 2 ^ 10 * t.cell + 2 ^ 12 * t.chan
    + (if t.ce then 2 ^ 16 else 0) + (if t.gstep then 2 ^ 17 else 0) + (if rev then 2 ^ 18 else 0)
    + (if inh then 2 ^ 31 else 0))

/-- Ask Trestle to fail the task of core q with a cause of R136; the core halts, and no span or walk of it is in progress any more
(R234). DEDUCED, log 39. -/
def failTask (s : State) (q cause : Nat) : State :=
  let s1 := s.modCore q fun c => { c with run := .halted, arch := { c.arch with rvs := c.arch.rvs &&& ~~~(0x3800 : BitVec 39) } }
  match (s.core q).task with
  | some t => s1.modEntry t.slot fun e => if e.failReq.isNone then { e with failReq := some (q, cause) } else e
  | none => s1

/-- Cancel bundle b and every younger bundle of core q: their register results, queued commands, accesses not yet sent and
waits go; the registers are those of b's start (R150). -/
def cancelFrom (s : State) (q b : Nat) : State :=
  let s0 := ((s.core q).undo.filter fun w => decide (b ≤ w.bid)).foldl (fun t w => putBack t q w) s
  let s1 := s0.modCore q fun c =>
    { c with
      arch := match c.snaps.find? (fun p => p.1 == b) with
        | some p => { p.2.1 with pend := p.2.1.pend.filter fun w => decide (w.bid < b) }
        | none => c.arch
      rev := match c.snaps.find? (fun p => p.1 == b) with
        | some p => p.2.2
        | none => c.rev
      snaps := c.snaps.filter fun p => decide (p.1 < b)
      undo := c.undo.filter fun w => decide (w.bid < b)
      lastRes := c.lastRes.filter fun n => decide (n < b)
      actions := c.actions.filter fun p => decide (p.1 < b)
      ovlBusy := c.ovlBusy && !(c.actions.any fun p => decide (b ≤ p.1) && (match p.2 with
        | .ovl _ _ _ _ => true
        | _ => false))
      pendPreds := c.pendPreds.filter fun n => !(c.actions.any fun p => decide (b ≤ p.1) && (match p.2 with
        | .spawn _ _ pd _ _ _ => pd == n
        | _ => false))
      tstats := c.tstats.filter fun p => decide (p.1 < b)
      lsq := c.lsq.filter fun op => decide (op.bid < b)
      waita := c.waita.filter fun w => decide (w.bid < b)
      sync := none
      run := if c.run = .ended ∨ c.run = .atRgn then .running else c.run
      ending := false
      lockNext := false
      slot := 0
      taken := none
      keyBase := none
      idleAdd := 0
      bid := b }
  [0, 1, 2, 3].foldl (fun t j => t.modCell q j fun c =>
    { c with
      qMat := c.qMat.filter fun k => decide (k.bid < b)
      qVec := c.qVec.filter fun k => decide (k.bid < b)
      qSf := c.qSf.filter fun k => decide (k.bid < b)
      sched := c.sched.filter fun e => decide (e.bid < b)
      ended := c.ended.filter fun e => decide (e.1 < b)
      reserved := (((c.ended.filter fun e => decide (b ≤ e.1)).flatMap Prod.snd) ++ c.reserved).filter fun r =>
        decide (r.1 < (sget 0 (s1.core q).arch.rsTop j).toNat) }) s1

/-- A RED that its stack has refused with a status, kept until a FENCE.red reports it (R360). -/
def MemOp.redFailed (m : MemOp) : Bool := m.kind == .red && m.phase == 2

/-- The results of older bundles that are due by now, written before a trap is taken (R272: they have committed). -/
def settle (s : State) (q : Nat) : State := applyDue s q

/-- A reverse bundle that does not commit gives up what it demanded: H stands as at the bundle's start (R243). -/
def CellSt.unpin (c : CellSt) : CellSt :=
  match c.pin with
  | some p => { c with pin := none, demand := none, spilled := max c.spilled p.2 }
  | none => c

/-- Take trap t at core q: its state is recorded; with an enabled vector and no handler running the handler is entered no
earlier than 4 cycles on, interlocked, otherwise the task fails with cause 2; TIMING always fails it with cause 1 (R274,
R277), and counts as event 0x103 (R46). -/
def takeTrap (s : State) (q : Nat) (t : Trap) : State :=
  let c := s.core q
  let enter := c.arch.tvec.getLsbD 11 && !c.arch.inHandler && t.cause != 9
  let s0 := [0, 1, 2, 3].foldl (fun u j => u.modCell q j CellSt.unpin) (if t.cause = 9 then countQuad s q 0x103 1 else s)
  let s1 := s0.modCore q fun c =>
    { c with
      arch := { c.arch with
        tpc := BitVec.ofNat 11 t.tpc
        tcause := t.causeWord (c.arch.inHandler || enter) c.arch.revActive
        tval := t.tval
        pc := if enter then (c.arch.tvec.extractLsb' 0 11).toNat else c.arch.pc }
      trapReq := none
      rfail := if t.red && !(c.lsq.any MemOp.redFailed) then 0 else c.rfail
      lsq := if t.red then c.lsq.filter fun m => !m.redFailed else c.lsq
      slot := 0
      stalled := c.stalled || enter
      issueAt := if enter then s.pcc + 4 else c.issueAt }
  if enter then s1 else failTask s1 q (if t.cause = 9 then 1 else 2)

/-- The checks of slot B of the bundle a core is at whose outcome an answer tells, as loads: they come before those of slots V, T and E
(R273). An atomic, or a WAITA's global word, is only read; neither has another effect. DEDUCED, log 26. -/
def CoreSt.ownChecks (c : CoreSt) : List MemOp :=
  let probe (m : MemOp) : MemOp := { m with kind := .load, policy := 1, acq := false, rel := false, scope := 0 }
  (c.lsq.filterMap fun m =>
    if m.bid = c.bid ∧ m.phase ≠ 2 then
      match m.kind with
      | .load => some m
      | .atom => some (probe m)
      | _ => none
    else none) ++
  (match c.waita with
    | some w =>
      if w.bid = c.bid ∧ nfield w.spec 60 2 = 0 then
        [{ tag := c.nextTag % 4096, gen := c.nextTag / 4096 % 16, bid := c.bid, bundle := w.bundle, kind := .load, va := nfield w.spec 0 48,
           place := w.place, len := if w.wide then 8 else 4, data := 0, cmp := 0, fn := 0, flt := false, flush := false, policy := 1,
           acq := false, rel := false, scope := 0, dst := 0, signed := false, issued := w.issued, phase := 0, result := 0, pois := false,
           timedOut := false, status := 0 }]
      else []
    | none => [])

/-- A FENCE.red in slot B of the bundle a core is at: its check comes first as well (R273, R360). -/
def CoreSt.ownFenceRed (c : CoreSt) : Option SyncWait :=
  match c.sync with
  | some (.fence 3 scope b) => if b = c.bid then some (.fence 3 scope b) else none
  | _ => none

/-- The poisoned scratchpad word of a WAITA in slot B of the bundle a core is at (R99, R273). -/
def State.ownPoison (s : State) (q : Nat) : Option Word :=
  match (s.core q).waita with
  | some w =>
    if w.bid = (s.core q).bid ∧ nfield w.spec 60 2 = 1 then
      let a := nfield w.spec 0 22
      if sget false (s.cell q (nfield w.spec 58 2)).spmPois (a / 64) then some (BitVec.ofNat 64 a) else none
    else none
  | none => none

/-- A trap of the bundle under execution: the bundle and younger ones leave no effect; it is taken once every older bundle has
committed and what the bundle's slot B asked, which may trap in its place, is answered (R150, R272, R273). DEDUCED, log 26. -/
def raiseTrap (s : State) (q : Nat) (t : Trap) : State :=
  let c := s.core q
  let loads := if 2 ≤ c.slot then c.ownChecks else []
  let fence := if 2 ≤ c.slot then c.ownFenceRed else none
  let first := match (if 2 ≤ c.slot then s.ownPoison q else none) with
    | some v => { t with cause := 12, slot := 1, tval := v }
    | none => t
  let s1 := (cancelFrom s q c.bid).modCore q fun c =>
    { c with lsq := c.lsq ++ loads, nextTag := c.nextTag + loads.length, sync := fence }
  if (s1.core q).frontier < c.bid ∨ loads ≠ [] ∨ fence ≠ none then s1.modCore q fun c => { c with trapReq := some first }
  else takeTrap s1 q first

/-- The bundle a trap of the slot under execution names: the reverse bundle while REV walks back, else the bundle at the pc
(R243, R272). -/
def CoreSt.trapBundle (c : CoreSt) : Nat :=
  match c.rev with
  | some w => if c.arch.walking && w.phase != 0 then (c.arch.rvs.extractLsb' 0 11).toNat else c.arch.pc
  | none => c.arch.pc

/-- A trap of cause and value raised by the slot under execution of core q (origin 0). -/
def slotTrap (s : State) (q cause : Nat) (tval : Word) : State :=
  let c := s.core q
  raiseTrap s q { cause := cause, slot := c.slot, origin := 0, cell := 0, chan := 0, ce := false, gstep := false,
                  tval := tval, tpc := c.trapBundle, seen := s.pcc }

/-- The bits of the slot under execution. -/
def CoreSt.slotBits (c : CoreSt) : BitVec 48 := bundleSlot (slotAt c.slot) c.curBundle

/-- ILL at the slot under execution: sr.tval holds the slot's bits (R272). -/
def illTrap (s : State) (q : Nat) : State :=
  slotTrap s q 1 ((s.core q).slotBits.setWidth 64)

/-- The span identifier in the descriptor of the open span or walk (R222, R235). -/
def Arch.spanId (a : Arch) : Nat :=
  (a.spanDesc.extractLsb' 0 16).toNat

/-- sr.tval of cause SPAN (R235). -/
def spanTval (sub slot cell id kind : Nat) : Word :=
  BitVec.ofNat 64 (sub + 2 ^ 8 * slot + 2 ^ 11 * cell + 2 ^ 16 * id + 2 ^ 32 * kind)

/-- SPAN with a sub-cause at the slot under execution (R235). -/
def spanTrap (s : State) (q sub : Nat) : State :=
  let c := s.core q
  slotTrap s q 10 (spanTval sub c.slot 0 c.arch.spanId 0)

/-- TIMING with a sub-cause (R155). -/
def timingTval (sub cell queue index pcc : Nat) : Word :=
  BitVec.ofNat 64 (sub + 2 ^ 4 * cell + 2 ^ 6 * queue + 2 ^ 8 * (index % 16) + 2 ^ 12 * (pcc % 2 ^ 52))

/-- A TIMING fault of bundle tpc of core q (R153, R277). What a quad that has failed already still has under way raises none: the
recorded trap stays (R136, R277). -/
def timingFault (s : State) (q tpc slot origin sub cell queue index : Nat) : State :=
  if (s.core q).run = .halted ∨ (s.core q).run = .stopped then s
  else
    takeTrap s q { cause := 9, slot := slot, origin := origin, cell := cell, chan := 0, ce := false, gstep := false,
                   tval := timingTval sub cell queue index s.pcc, tpc := tpc, seen := s.pcc }

/-- The return from a trap handler: issue resumes at a bundle, interlocked, after a stall; inh clears at the end of the bundle,
whose other slots still belong to the handler (R274, R344). -/
def trapReturn (c : CoreSt) (target : Nat) : CoreSt :=
  { c with taken := some target, lockNext := true, stalled := true }

/-! ### The end of a slot and of a bundle -/

/-- One counter's part of the choice of the next bundle: whether it takes the back edge, and the counter after the test
(R332). -/
def loopTest (l : LoopCtr) (e : Nat) : Bool × LoopCtr :=
  if l.active && decide (l.last.toNat = e) then
    if l.value = 0 then (false, { l with active := false })
    else (true, { l with value := l.value - 1 })
  else (false, l)

/-- The next bundle after bundle e without a taken branch, counters tested in ascending order from n (R332). -/
def loopNext (lc : Sparse LoopCtr) (e : Nat) : List Nat → Nat × Sparse LoopCtr
  | [] => ((e + 1) % 2048, lc)
  | n :: r =>
    let l := sget LoopCtr.zero lc n
    let t := loopTest l e
    let lc1 := sset LoopCtr.zero lc n t.2
    if t.1 then (l.first.toNat, lc1) else loopNext lc1 e r

/-- The commands of the finished bundle enter the queues of the cells they name (R147). -/
def enqueue (c : CellSt) (queue : Nat) (k : Cmd) : CellSt :=
  match queue with
  | 0 => { c with qMat := c.qMat ++ [k] }
  | 1 => { c with qVec := c.qVec ++ [k] }
  | _ => { c with qSf := c.qSf ++ [k] }

/-- After slot E of bundle e: the next bundle is chosen (R332) unless the run ends; the next issue lies one cycle on, two more
after a taken branch, later after an IDLE or a KEY (R144, R160, R333); the bundle number rises. -/
def endBundle (c : CoreSt) (pcc : Nat) : CoreSt :=
  let e := c.arch.pc
  let nx := match c.taken with
    | some t => (t % 2048, c.arch.lc)
    | none => if c.ending then (e, c.arch.lc) else loopNext c.arch.lc e [0, 1, 2, 3]
  let at0 := pcc + 1 + (if c.taken.isSome then 2 else 0) + c.idleAdd
  let at1 := match c.keyBase with
    | some k => max at0 k
    | none => at0
  { c with
    arch := { c.arch with
      pc := nx.1
      lc := nx.2
      tcause := if c.lockNext then c.arch.tcause &&& ~~~(0x80000000 : Word) else c.arch.tcause
      pend := match c.keyBase with
        | some k => c.arch.pend ++ [{ due := max (pcc + 1) k, rank := 0, bid := c.bid, dst := .tbase, val := BitVec.ofNat 1024 k }]
        | none => c.arch.pend }
    slot := 0
    bid := c.bid + 1
    issueAt := max at1 c.issueAt
    taken := none
    idleAdd := 0
    keyBase := none
    locked := c.lockNext
    lockNext := false
    run := if c.ending then .ended else c.run }

/-- The slot under execution has done its part: the next slot follows, and after slot E the bundle ends. -/
def nextSlot (s : State) (q : Nat) : State :=
  let c := s.core q
  if c.slot < 4 then s.setCore q { c with slot := c.slot + 1 }
  else s.setCore q (endBundle c s.pcc)

end Sys2Proof.Machine
end

