-- ==== Sys2Proof/Machine/Crypto.lean ====
section
/-! DEFINITION. AES-256-XTS of IEEE 1619 over one 64-byte granule (R43 to R45), SHAKE256 of FIPS 202 (R39, R40) and SHA-384 of
FIPS 180-4 (R53); the standards are named by the spec and written here from their published definitions (PRESUMED, log 7). -/

namespace Sys2Proof.Machine

/-! ### AES-256 -/

/-- The product by x in the field of AES. -/
def gfDouble (b : Byte) : Byte := (b <<< 1) ^^^ (if b.msb then 0x1B else 0)

/-- The product in the field of AES, over the low n bits of the first factor. -/
def gfMulBits : Nat → Byte → Byte → Byte
  | 0, _, _ => 0
  | n + 1, a, b => (if a.getLsbD 0 then b else 0) ^^^ gfMulBits n (a >>> 1) (gfDouble b)

def gfMul (a b : Byte) : Byte := gfMulBits 8 a b

/-- The 254th power: the inverse, and 0 of 0. -/
def gfInv (b : Byte) : Byte :=
  ((List.range 7).foldl (fun (p : Byte × Byte) _ => let q := gfMul p.2 p.2; (gfMul p.1 q, q)) ((1 : Byte), b)).1

def sBox (b : Byte) : Byte :=
  let x := gfInv b
  x ^^^ x.rotateLeft 1 ^^^ x.rotateLeft 2 ^^^ x.rotateLeft 3 ^^^ x.rotateLeft 4 ^^^ 0x63

def sBoxInv (b : Byte) : Byte := gfInv (b.rotateLeft 1 ^^^ b.rotateLeft 3 ^^^ b.rotateLeft 6 ^^^ 0x05)

/-- The byte of a list at an index. -/
def byteAt (bs : List Byte) (i : Nat) : Byte := (bs[i]?).getD 0

def xorBytes (a b : List Byte) : List Byte := List.zipWith (· ^^^ ·) a b

/-- The round constant of key-expansion step n. -/
def roundConst : Nat → Byte
  | 0 => 1
  | n + 1 => gfDouble (roundConst n)

/-- n more words of the expanded key, the words so far latest first. -/
def expandKey : Nat → List (List Byte) → List (List Byte)
  | 0, ws => ws
  | n + 1, ws =>
    let i := ws.length
    let last := ws.headD []
    let turn : List Byte :=
      if i % 8 = 0 then xorBytes ((last.rotateLeft 1).map sBox) [roundConst (i / 8 - 1), 0, 0, 0]
      else if i % 8 = 4 then last.map sBox else last
    expandKey n (xorBytes ((ws[7]?).getD []) turn :: ws)

/-- The fifteen round keys of a 256-bit key. -/
def roundKeys (key : List Byte) : List (List Byte) :=
  let ws := (expandKey 52 ((List.range 8).map fun i => (key.drop (4 * i)).take 4).reverse).reverse
  (List.range 15).map fun r => ((ws.drop (4 * r)).take 4).flatten

/-- Row r moves left by r; by the other way round for the inverse. -/
def shiftRows (inv : Bool) (x : List Byte) : List Byte :=
  (List.range 16).map fun k => byteAt x (k % 4 + 4 * ((k / 4 + (if inv then 4 - k % 4 else k % 4)) % 4))

/-- Every column times the matrix whose first row is m. -/
def mixColumns (m : List Byte) (x : List Byte) : List Byte :=
  (List.range 16).map fun k =>
    (List.range 4).foldl (fun v j => v ^^^ gfMul (byteAt m ((j + 4 - k % 4) % 4)) (byteAt x (4 * (k / 4) + j))) (0 : Byte)

def aesEncrypt (key block : List Byte) : List Byte :=
  let ks := roundKeys key
  let rk (r : Nat) : List Byte := (ks[r]?).getD []
  let mid := (List.range 13).foldl (fun x r =>
    xorBytes (mixColumns [2, 3, 1, 1] (shiftRows false (x.map sBox))) (rk (r + 1))) (xorBytes block (rk 0))
  xorBytes (shiftRows false (mid.map sBox)) (rk 14)

def aesDecrypt (key block : List Byte) : List Byte :=
  let ks := roundKeys key
  let rk (r : Nat) : List Byte := (ks[r]?).getD []
  let mid := (List.range 13).foldl (fun x r =>
    mixColumns [14, 11, 13, 9] (xorBytes ((shiftRows true x).map sBoxInv) (rk (13 - r)))) (xorBytes block (rk 14))
  xorBytes ((shiftRows true mid).map sBoxInv) (rk 0)

/-! ### XTS (R43, R45) -/

/-- The tweak of the next block of a data unit. -/
def nextTweak (t : BitVec 128) : BitVec 128 := (t <<< 1) ^^^ (if t.msb then 0x87 else 0)

/-- The four blocks of a granule under a block cipher, from the tweak of the first. -/
def xtsBlocks (cipher : List Byte → List Byte) : Nat → BitVec 128 → List Byte → List Byte
  | 0, _, _ => []
  | n + 1, t, bs =>
    xorBytes (cipher (xorBytes (bs.take 16) (bytesOf t 16))) (bytesOf t 16) ++ xtsBlocks cipher n (nextTweak t) (bs.drop 16)

/-- The data key and the tweak key of a slot (R44). -/
def dataKey (keys : BitVec 512) : List Byte := bytesOf keys 32
def tweakKey (keys : BitVec 512) : List Byte := bytesOf (keys >>> 256) 32

/-- The first tweak of granule number g: its physical address shifted right by 6 (R43). -/
def firstTweak (keys : BitVec 512) (g : Nat) : BitVec 128 :=
  bitsOfBytes 128 (aesEncrypt (tweakKey keys) (bytesOf (BitVec.ofNat 128 g) 16))

/-- A granule as DRAM holds it, and the plaintext of what DRAM holds. -/
def xtsEncrypt (keys : BitVec 512) (g : Nat) (bs : List Byte) : List Byte :=
  xtsBlocks (aesEncrypt (dataKey keys)) 4 (firstTweak keys g) bs
def xtsDecrypt (keys : BitVec 512) (g : Nat) (bs : List Byte) : List Byte :=
  xtsBlocks (aesDecrypt (dataKey keys)) 4 (firstTweak keys g) bs

/-! ### SHAKE256 -/

/-- The rotation of lane (x, y) by rho, in the order 5 y + x. -/
def keccakTurns : List Nat :=
  [0, 1, 62, 28, 27, 36, 44, 6, 55, 20, 3, 10, 43, 25, 39, 41, 45, 15, 21, 8, 18, 2, 61, 56, 14]

/-- The round constants of iota. -/
def keccakRounds : List Word :=
  [0x0000000000000001, 0x0000000000008082, 0x800000000000808A, 0x8000000080008000, 0x000000000000808B, 0x0000000080000001,
   0x8000000080008081, 0x8000000000008009, 0x000000000000008A, 0x0000000000000088, 0x0000000080008009, 0x000000008000000A] ++
  [0x000000008000808B, 0x800000000000008B, 0x8000000000008089, 0x8000000000008003, 0x8000000000008002, 0x8000000000000080,
   0x000000000000800A, 0x800000008000000A, 0x8000000080008081, 0x8000000000008080, 0x0000000080000001, 0x8000000080008008]

/-- One round of Keccak-f[1600] on 25 lanes. -/
def keccakRound (a : List Word) (rc : Word) : List Word :=
  let at_ (l : List Word) (i : Nat) : Word := (l[i]?).getD 0
  let c := (List.range 5).map fun x => at_ a x ^^^ at_ a (x + 5) ^^^ at_ a (x + 10) ^^^ at_ a (x + 15) ^^^ at_ a (x + 20)
  let d := (List.range 5).map fun x => at_ c ((x + 4) % 5) ^^^ (at_ c ((x + 1) % 5)).rotateLeft 1
  let t := (List.range 25).map fun i => (at_ a i ^^^ at_ d (i % 5)).rotateLeft ((keccakTurns[i]?).getD 0)
  -- lane (x, y) of the permuted state comes from lane (x + 3 y, x)
  let b := (List.range 25).map fun i => at_ t (5 * (i % 5) + (i % 5 + 3 * (i / 5)) % 5)
  (List.range 25).map fun i =>
    let row := 5 * (i / 5)
    let v := at_ b i ^^^ (~~~(at_ b (row + (i + 1) % 5)) &&& at_ b (row + (i + 2) % 5))
    if i = 0 then v ^^^ rc else v

def keccakF (a : List Word) : List Word := keccakRounds.foldl keccakRound a

/-- The bytes a block of SHAKE256 absorbs. -/
def shakeRate : Nat := 136

/-- A block of bytes XORed into the state and mixed. -/
def absorbBlock (a : List Word) (block : List Byte) : List Word :=
  keccakF (a.zipIdx.map fun p => p.1 ^^^ bitsOfBytes 64 ((block.drop (8 * p.2)).take 8))

/-- Whole blocks absorbed, n at most. -/
def absorbAll : Nat → List Word → List Byte → List Word
  | 0, a, _ => a
  | n + 1, a, bs => if bs.isEmpty then a else absorbAll n (absorbBlock a (bs.take shakeRate)) (bs.drop shakeRate)

/-- The padding of SHAKE256 after n bytes. -/
def shakePad (n : Nat) : List Byte :=
  match shakeRate - n % shakeRate with
  | 1 => [0x9F]
  | k => 0x1F :: (List.replicate (k - 2) 0 ++ [0x80])

/-- The first 256 bits of SHAKE256. -/
def shake256 (bs : List Byte) : BitVec 256 :=
  let p := bs ++ shakePad bs.length
  bitsOfBytes 256 (((absorbAll (p.length / shakeRate) (List.replicate 25 0) p).take 4).flatMap fun w => bytesOf w 8)

/-! ### SHA-384 (R53) -/

/-- The greatest r below 2^n with r^k at most v, bit by bit. -/
def rootBits (k v : Nat) : Nat → Nat → Nat
  | 0, r => r
  | n + 1, r => rootBits k v n (if (r + 2 ^ n) ^ k ≤ v then r + 2 ^ n else r)

/-- The first n primes from p on. -/
def primesFrom : Nat → Nat → List Nat
  | 0, _ => []
  | fuel + 1, p => if 2 ≤ p ∧ (List.range p).all (fun d => d < 2 || p % d != 0) then p :: primesFrom fuel (p + 1) else primesFrom fuel (p + 1)

/-- The first 64 bits of the fraction of a k-th root. -/
def rootFraction (k p : Nat) : Word := BitVec.ofNat 64 (rootBits k (p * 2 ^ (64 * k)) 68 0)

/-- The round constants: cube roots of the first eighty primes. -/
def shaConstants : List Word := ((primesFrom 410 2).take 80).map (rootFraction 3)

/-- The initial hash value of SHA-384: square roots of the ninth to the sixteenth prime. -/
def shaStart : List Word := (((primesFrom 60 2).drop 8).take 8).map (rootFraction 2)

def shaWord (w : List Word) (i : Nat) : Word := (w[i]?).getD 0

/-- The message schedule after n words more, the latest first. -/
def shaSchedule : Nat → List Word → List Word
  | 0, w => w
  | n + 1, w =>
    let a := shaWord w 1
    let b := shaWord w 14
    let s1 := a.rotateRight 19 ^^^ a.rotateRight 61 ^^^ (a >>> 6)
    let s0 := b.rotateRight 1 ^^^ b.rotateRight 8 ^^^ (b >>> 7)
    shaSchedule n ((s1 + shaWord w 6 + s0 + shaWord w 15) :: w)

/-- One round on the eight working words. -/
def shaRound (v : List Word) (x : Word × Word) : List Word :=
  let e := shaWord v 4
  let a := shaWord v 0
  let t1 := shaWord v 7 + (e.rotateRight 14 ^^^ e.rotateRight 18 ^^^ e.rotateRight 41) + ((e &&& shaWord v 5) ^^^ (~~~e &&& shaWord v 6)) + x.1 + x.2
  let t2 := (a.rotateRight 28 ^^^ a.rotateRight 34 ^^^ a.rotateRight 39) +
    ((a &&& shaWord v 1) ^^^ (a &&& shaWord v 2) ^^^ (shaWord v 1 &&& shaWord v 2))
  [t1 + t2, a, shaWord v 1, shaWord v 2, shaWord v 3 + t1, e, shaWord v 5, shaWord v 6]

/-- A word of eight bytes, the most significant first. -/
def bigEndian (bs : List Byte) : Word := bitsOfBytes 64 bs.reverse

/-- One block of 128 bytes. -/
def shaBlock (ks h : List Word) (bs : List Byte) : List Word :=
  let w := (shaSchedule 64 ((List.range 16).map fun i => bigEndian ((bs.drop (8 * i)).take 8)).reverse).reverse
  List.zipWith (· + ·) h ((ks.zip w).foldl shaRound h)

/-- Whole blocks, n at most. -/
def shaBlocks (ks : List Word) : Nat → List Word → List Byte → List Word
  | 0, h, _ => h
  | n + 1, h, bs => if bs.isEmpty then h else shaBlocks ks n (shaBlock ks h (bs.take 128)) (bs.drop 128)

/-- The padding after n bytes: a one, zeros, the length in bits in sixteen bytes. -/
def shaPad (n : Nat) : List Byte :=
  0x80 :: (List.replicate ((239 - n % 128) % 128) 0 ++ (bytesOf (BitVec.ofNat 128 (8 * n)) 16).reverse)

/-- SHA-384 of FIPS 180-4: 48 bytes. -/
def sha384 (bs : List Byte) : List Byte :=
  let p := bs ++ shaPad bs.length
  ((shaBlocks shaConstants (p.length / 128) shaStart p).take 6).flatMap fun w => (bytesOf w 8).reverse

end Sys2Proof.Machine
end

