-- ==== Sys2Proof/Machine/Operands.lean ====
section
/-! DEFINITION. Operand forms: rows, lanes and byte enables, element types, operand codes of the vector, tile and engine
slots, scratchpad bytes and layouts. -/

namespace Sys2Proof.Machine

/-! ### Rows -/

/-- Byte b of a row. -/
def rowByte (r : Row) (b : Nat) : Byte := r.extractLsb' (8 * b) 8

/-- Lane j of width w bits of a row (R167). -/
def laneNat (r : Row) (w j : Nat) : Nat := (r.toNat >>> (w * j)) % 2 ^ w

/-- The lanes of width w of a row, lane 0 first. -/
def rowLanes (r : Row) (w : Nat) : List Nat := (List.range (8192 / w)).map fun j => laneNat r w j

/-- Lanes of width w put side by side, lane 0 lowest. -/
def packLanes (w : Nat) (ls : List Nat) : Nat := ls.foldr (fun v acc => v % 2 ^ w + 2 ^ w * acc) 0

/-- A row from its lanes. -/
def rowOfLanes (w : Nat) (ls : List Nat) : Row := BitVec.ofNat 8192 (packLanes w ls)

/-- A row from its bytes. -/
def rowOfBytes (bs : List Byte) : Row := BitVec.ofNat 8192 (natOfBytes bs)

/-- The bytes of a row. -/
def rowBytes (r : Row) : List Byte := bytesOf r 1024

/-- Each enable of a byte as eight bits. -/
def spreadMask (m : BitVec 1024) : Row :=
  rowOfLanes 8 ((List.range 1024).map fun i => if m.getLsbD i then 0xFF else 0)

/-- The row with the bytes a mask enables taken from v. -/
def mergeRow (old v : Row) (m : BitVec 1024) : Row :=
  if m = BitVec.allOnes 1024 then v
  else let k := spreadMask m; (old &&& ~~~k) ||| (v &&& k)

/-- Byte enables of the lanes of w bytes that a list enables. -/
def laneMask (w : Nat) (en : List Bool) : BitVec 1024 :=
  BitVec.ofNat 1024 (packLanes w (en.map fun b => if b then 2 ^ w - 1 else 0))

/-! ### Element types (R200) -/

/-- Width in bits of element type ty. -/
def tyWidth (ty : Nat) : Nat := if ty = 0 ∨ ty = 5 then 32 else if ty = 1 ∨ ty = 2 ∨ ty = 6 then 16 else 8

/-- Lanes of element type ty in a row. -/
def tyLanes (ty : Nat) : Nat := 8192 / tyWidth ty

/-- A floating element type. -/
def tyFloat (ty : Nat) : Bool := decide (ty < 5)

/-- Per-lane enables of a vector instruction from its guard bits (R300). -/
def laneGuard (g : Pred) (ty : Nat) : List Bool :=
  (List.range (tyLanes ty)).map fun j => g.getLsbD (if tyLanes ty = 1024 then j / 2 else j)

/-! ### Operand codes of V.R and E.V (R295) -/

/-- What a 9-bit source code names. -/
inductive Src where
  | reg (v : Nat)
  | pop (q : Nat)
  | peek (q : Nat)
  deriving DecidableEq, Repr

/-- What a 9-bit destination code names. -/
inductive Dst where
  | reg (v : Nat)
  | push (q : Nat)
  deriving DecidableEq, Repr

/-- A source operand code; none raises ILL. -/
def srcCode (c : BitVec 9) : Option Src :=
  let n := c.toNat
  if n < 256 then some (.reg n)
  else if n < 262 then some (.pop (n - 256))
  else if 264 ≤ n ∧ n < 270 then some (.peek (n - 264))
  else none

/-- A destination operand code; none raises ILL. -/
def dstCode (c : BitVec 9) : Option Dst :=
  let n := c.toNat
  if n < 256 then some (.reg n)
  else if n = 262 ∨ n = 263 then some (.push (n - 256))
  else none

/-- What a 5-bit tile source code names (R296). -/
inductive TSrc where
  | tile (t : Nat) (col : Bool)
  | acc (n : Nat)
  | pop (q : Nat)
  deriving DecidableEq, Repr

/-- A tile source code; none raises ILL. -/
def tsrcCode (c : BitVec 5) : Option TSrc :=
  let n := c.toNat
  if n < 8 then some (.tile n false)
  else if n < 16 then some (.tile (n - 8) true)
  else if n < 20 then some (.acc (n - 16))
  else if n < 26 then some (.pop (n - 20))
  else none

/-! ### Scratchpad (R398, R403) -/

/-- Bytes of scratchpad in a cell. -/
def spmSize : Nat := 0x400000

/-- A byte of a cell's scratchpad. -/
def CellSt.spmByte (c : CellSt) (a : Nat) : Byte := rowByte (sget 0 c.spm (a / 1024)) (a % 1024)

/-- Bytes of a cell's scratchpad from an address on. -/
def CellSt.spmBytes (c : CellSt) (a len : Nat) : List Byte := (List.range len).map fun i => c.spmByte (a + i)

/-- The scratchpad with one byte written; a full write of a granule is what clears poison, so a byte leaves it. -/
def CellSt.putSpmByte (c : CellSt) (a : Nat) (b : Byte) : CellSt :=
  let r := sget 0 c.spm (a / 1024)
  let m : BitVec 1024 := 1 <<< (a % 1024)
  { c with spm := sset 0 c.spm (a / 1024) (mergeRow r (BitVec.ofNat 8192 (b.toNat <<< (8 * (a % 1024)))) m) }

/-- The scratchpad with bytes written from an address on. -/
def CellSt.putSpm (c : CellSt) (a : Nat) : List Byte → CellSt
  | [] => c
  | b :: r => (c.putSpmByte a b).putSpm (a + 1) r

/-- The poison after len bytes from a have been written: a granule is marked that takes poison, and cleared that the bytes fill whole
(R98). -/
def CellSt.markSpm (c : CellSt) (a len : Nat) (pois : Nat → Bool) : CellSt :=
  (List.range ((a % 64 + len + 63) / 64)).foldl (fun t i =>
    let g := a / 64 + i
    let whole := decide (a ≤ 64 * g) && decide (64 * g + 64 ≤ a + len)
    if pois i then { t with spmPois := sset false t.spmPois g true }
    else if whole then { t with spmPois := sset false t.spmPois g false } else t) c

/-- The lowest poisoned address of len bytes from a. -/
def CellSt.poisonIn (c : CellSt) (a len : Nat) : Option Nat :=
  ((List.range ((a % 64 + len + 63) / 64)).find? fun g => sget false c.spmPois (a / 64 + g)).map fun g =>
    max a (64 * (a / 64 + g))

/-- Physical offset of logical offset o of a page under a layout (R398). -/
def layPhys (lay o : Nat) : Nat :=
  let R := o / 1024
  let c := o % 1024
  let r := o / 256
  let b := o % 256
  match lay with
  | 0 => o
  | 1 => 1024 * R + (c ^^^ (16 * R))
  | 2 => 256 * b + r
  | _ => 256 * (16 * (r / 16) + b / 16) + 16 * (r % 16) + b % 16

/-- The physical scratchpad address of a logical address under a layout. -/
def layAddr (lay a : Nat) : Nat := (a / 65536) * 65536 + layPhys lay (a % 65536)

/-- len bytes at a logical address under a layout. -/
def CellSt.readLaid (c : CellSt) (lay a len : Nat) : List Byte :=
  (List.range len).map fun i => c.spmByte (layAddr lay (a + i))

/-- Write bytes at a logical address under a layout. -/
def CellSt.writeLaid (c : CellSt) (lay a : Nat) : List Byte → CellSt
  | [] => c
  | b :: r => (c.putSpmByte (layAddr lay a) b).writeLaid lay (a + 1) r

/-- The lowest poisoned physical address among len bytes at a logical address under a layout. -/
def CellSt.poisonLaid (c : CellSt) (lay a len : Nat) : Option Nat :=
  let hits := (List.range ((len + 15) / 16)).filterMap fun i =>
    let p := layAddr lay (a + 16 * i)
    if sget false c.spmPois (p / 64) then some (64 * (p / 64)) else none
  hits.foldl (fun m x => match m with | none => some x | some y => some (min x y)) none

/-- The first page among len bytes from a whose tag differs from a layout (R398). -/
def CellSt.wrongTag (c : CellSt) (lay a len : Nat) : Option Nat :=
  (List.range ((a % 65536 + len + 65535) / 65536)).find? (fun g => sget 0 c.tags (a / 65536 + g) != lay) |>.map
    fun g => a / 65536 + g

/-- Tag with a layout the pages of a run of bytes from a in which at least one byte is written (R398). -/
def CellSt.tagPages (c : CellSt) (lay a : Nat) (bs : List (Option Byte)) : CellSt :=
  let pages := (List.range ((a % 65536 + bs.length + 65535) / 65536)).filter fun g =>
    bs.zipIdx.any fun p => p.1.isSome && decide ((a + p.2) / 65536 = a / 65536 + g)
  { c with tags := pages.foldl (fun t g => sset 0 t (a / 65536 + g) lay) c.tags }

/-! ### Parameter sets (R437) -/

/-- A signed field of a bit vector. -/
def sfield (v : BitVec 1024) (lo n : Nat) : Int := ((v.toNat >>> lo) % 2 ^ n : Nat) - (if (v.toNat >>> (lo + n - 1)) % 2 = 1 then (2 ^ n : Nat) else (0 : Nat))

def setBase (v : BitVec 1024) : Nat := nfield v 0 22
def setStride (v : BitVec 1024) (l : Nat) : Int := sfield v (64 + 64 * l) 64
def setBound (v : BitVec 1024) (l : Nat) : Nat := nfield v (320 + 32 * l) 24
def setLay (v : BitVec 1024) : Nat := nfield v 448 2
def setReverse (v : BitVec 1024) : Bool := v.getLsbD 456

/-- The number of entries a walk has. -/
def setLength (v : BitVec 1024) : Nat := setBound v 0 * setBound v 1 * setBound v 2 * setBound v 3

/-- The address of entry e of a walk in forward order. -/
def setEntry (v : BitVec 1024) (e : Nat) : Int :=
  let b1 := setBound v 1
  let b2 := setBound v 2
  let b3 := setBound v 3
  let i3 := e % b3
  let i2 := e / b3 % b2
  let i1 := e / (b3 * b2) % b1
  let i0 := e / (b3 * b2 * b1)
  (setBase v : Int) + i0 * setStride v 0 + i1 * setStride v 1 + i2 * setStride v 2 + i3 * setStride v 3

/-- The least and greatest entry addresses of a walk: the extremes over each level. -/
def setExtremes (v : BitVec 1024) : Int × Int :=
  [0, 1, 2, 3].foldl (fun (p : Int × Int) l =>
    let d := ((setBound v l : Int) - 1) * setStride v l
    if d < 0 then (p.1 + d, p.2) else (p.1, p.2 + d)) ((setBase v : Int), (setBase v : Int))

/-- A parameter set that PBIND accepts (R439). -/
def setOk (v : BitVec 1024) : Bool :=
  let ex := setExtremes v
  decide (nfield v 22 42 = 0) && decide (nfield v 464 560 = 0) && decide (nfield v 450 6 = 0)
    && decide (nfield v 457 7 = 0)
    && [0, 1, 2, 3].all (fun l => decide (nfield v (344 + 32 * l) 8 = 0) && decide (1 ≤ setBound v l)
        && decide (nfield v (64 + 64 * l) 10 = 0))
    && decide (setBase v % 1024 = 0) && decide (setLength v ≤ 2 ^ 32)
    && decide (0 ≤ ex.1) && decide (ex.2 + 1024 ≤ (spmSize : Int))

/-- The entry a port's generator reads or writes n-th, counted from the walk's start (R437, R440). -/
def QPort.entryAddr (p : QPort) (n : Nat) : Nat :=
  let e := if p.reverse then setLength p.set - 1 - n else n
  (setEntry p.set e).toNat

end Sys2Proof.Machine
end

