-- ==== Sys2Proof/Machine/Logs.lean ====
section
/-! DEFINITION. The error logs and the slip log (R28, R100, R139). -/

namespace Sys2Proof.Machine

/-! ### Logs -/

/-- A log of 256 records has room (R28, R100, R139). -/
def logRoom (head tail : Nat) : Bool := decide ((head + 512 - tail) % 512 < 256)

/-- A count that saturates at 16 bits. -/
def sat16 (n : Nat) : Nat := min n 0xFFFF

/-- A record written to the log of die d, with MSI-X vector 0, or dropped and counted (R28). -/
def writeDieLog (s : State) (d : Nat) (r : BitVec 256) : State :=
  let x := s.die d
  if logRoom x.deHead x.deTail then
    (s.modDie d fun x => { x with dlog := sset 0 x.dlog (x.deHead % 256) r, deHead := (x.deHead + 1) % 512 }).irq 0
  else s.modDie d fun x => { x with deDropped := sat16 (x.deDropped + 1) }

/-- The record of a request time-out (R28). -/
def timeoutRecord (s : State) (pa agent tag gen target : Nat) : BitVec 256 :=
  BitVec.ofNat 256 (s.ptpNs + 2 ^ 64 * pa + 2 ^ 128 * 1 + 2 ^ 136 * (agent % 256)
    + 2 ^ 144 * (tag % 4096 + 4096 * (gen % 16)) + 2 ^ 160 * (target % 256))

/-- A record written to the log of stack k, with MSI-X vector 0, or dropped and counted (R100). -/
def writeStackLog (s : State) (k kind pa mask : Nat) : State :=
  let x := s.stack k
  let r : BitVec 256 := BitVec.ofNat 256 (s.ptpNs + 2 ^ 64 * pa + 2 ^ 128 * k + 2 ^ 136 * kind + 2 ^ 144 * mask)
  if logRoom x.seHead x.seTail then
    (s.modStack k fun x => { x with slog := sset 0 x.slog (x.seHead % 256) r, seHead := (x.seHead + 1) % 512 }).irq 0
  else s.modStack k fun x => { x with seDropped := sat16 (x.seDropped + 1) }

/-- A slip record written, with MSI-X vector 3, or dropped and counted (R139). -/
def writeSlip (s : State) (when_ kind quad slot frame length : Nat) : State :=
  let r : BitVec 256 := BitVec.ofNat 256 (when_ % 2 ^ 64 + 2 ^ 64 * kind + 2 ^ 72 * quad + 2 ^ 80 * slot
    + 2 ^ 96 * (frame % 2 ^ 32) + 2 ^ 128 * (length % 2 ^ 64))
  if logRoom s.slHead s.slTail then
    { s.irq 3 with slipLog := sset 0 s.slipLog (s.slHead % 256) r, slHead := (s.slHead + 1) % 512 }
  else { s with slDropped := sat16 (s.slDropped + 1) }

/-- A tail pointer after a write; a write that would leave more than 256 unread records is ignored. -/
def tailWrite (head tail new : Nat) : Nat := if (head + 512 - new % 512) % 512 ≤ 256 then new % 512 else tail

end Sys2Proof.Machine
end

