-- ==== Sys2Proof/Machine/Memory.lean ====
section
/-! DEFINITION. Global memory: homes, encryption, poison, translation, remote-data caches, the clocks of causal consistency,
and the words engines write. -/

namespace Sys2Proof.Machine

/-! ### Homes (R68, R181, R182) -/

/-- f(o) of R181: the XOR of the nibbles of o[35:16]. -/
def homeHash (o : Nat) : Nat :=
  (o / 2 ^ 16 % 16) ^^^ (o / 2 ^ 20 % 16) ^^^ (o / 2 ^ 24 % 16) ^^^ (o / 2 ^ 28 % 16) ^^^ (o / 2 ^ 32 % 16)

/-- The storage address of a physical address under a home mode: stack times 2^36 plus stack-local address in HBM, the
physical address itself elsewhere. -/
def storageAddr (home pa : Nat) : Nat :=
  if pa < 2 ^ 40 then
    let s := pa / 2 ^ 36
    let l := pa % 2 ^ 36
    let o := l / 65536 * 65536
    let x := l % 65536
    match home with
    | 1 => x / 4096 * 2 ^ 36 + (o + s * 4096 + x % 4096)
    | 2 => ((x / 256 % 16) ^^^ (x / 4096 % 16) ^^^ homeHash o) * 2 ^ 36 + (o + s * 4096 + x / 4096 * 256 + x % 256)
    | _ => pa
  else pa

/-- The stack that stores a byte. -/
def homeStack (home pa : Nat) : Nat := storageAddr home pa / 2 ^ 36

/-- The home die of a byte: MD floor(stack / 2) (R182). -/
def homeDie (home pa : Nat) : Nat := homeStack home pa / 2 + 1

/-- The far tier (R68). -/
def inFar (pa : Nat) : Bool := decide (2 ^ 40 ≤ pa ∧ pa < 2 ^ 40 + 2 ^ 44)

/-- The decompressing aperture (R68). -/
def inAperture (pa : Nat) : Bool := decide (2 ^ 51 ≤ pa ∧ pa < 2 ^ 51 + 2 ^ 46)

/-- The ranges of R68. -/
def inRange (pa : Nat) : Bool := decide (pa < 2 ^ 40) || inFar pa || inAperture pa

/-! ### Stored bytes: keys and poison (R43 to R45, R98) -/

/-- The keys of slot k, none while it is invalid. -/
def State.keyOf (s : State) (k : Nat) : Option (BitVec 512) := sget none s.keys k

/-- The byte a storage address holds as last written. -/
def State.rawByte (s : State) (a : Nat) : Byte := sget emptyByte s.mem a

/-- The 64 bytes of a granule of storage as last written. -/
def State.rawGranule (s : State) (g : Nat) : List Byte := (List.range 64).map fun i => s.rawByte (64 * g + i)

/-- A byte of storage read under keys and a tweak, the granule number of its physical address (R43): what was last written where
they are those it was written under, else the XTS decryption of what those keys and that tweak stored (R45). A granule never
written reads as unlisted bytes do (DESIGN CHOICE, log 1). -/
def State.byteUnder (s : State) (keys : BitVec 512) (tweak a : Nat) : Byte :=
  match sget none s.keyTag (a / 64) with
  | some t =>
    if t = (keys, tweak) then s.rawByte a
    else ((xtsDecrypt keys tweak (xtsEncrypt t.1 t.2 (s.rawGranule (a / 64))))[a % 64]?).getD 0
  | none => s.rawByte a

/-- A granule of storage takes new keys and a new tweak: its bytes become what a read under them gives. -/
def rekey (s : State) (g : Nat) (keys : BitVec 512) (tweak : Nat) : State :=
  if sget none s.keyTag g = some (keys, tweak) then s
  else
    let vals := (List.range 64).map fun i => s.byteUnder keys tweak (64 * g + i)
    let m := if (sget none s.keyTag g).isNone then s.mem else putBytes emptyByte s.mem (64 * g) vals
    { s with mem := m, keyTag := sset none s.keyTag g (some (keys, tweak)) }

/-- One byte written at a storage address under keys and a tweak. -/
def putByte (s : State) (keys : BitVec 512) (tweak a : Nat) (b : Byte) : State :=
  let s1 := rekey s (a / 64) keys tweak
  { s1 with mem := sset emptyByte s1.mem a b }

/-- The enabled bytes of a write, from physical address pa on. -/
def putRun (s : State) (keys : BitVec 512) (home pa : Nat) : List (Option Byte) → State
  | [] => s
  | none :: r => putRun s keys home (pa + 1) r
  | some b :: r => putRun (putByte s keys (pa / 64) (storageAddr home pa) b) keys home (pa + 1) r

/-- The granule of the byte at pa is poisoned. -/
def State.poisonedAt (s : State) (home pa : Nat) : Bool := sget false s.poison (storageAddr home pa / 64)

/-- Poison after a write of a list of enabled bytes: a granule whose 64 bytes are all enabled is cleared, every granule
written is marked when the payload is poisoned (R98). -/
def poisonRun (s : State) (home pa : Nat) (bs : List (Option Byte)) (pois : Bool) : State :=
  let first := pa / 64
  let last := (pa + bs.length + 63) / 64
  (List.range (last - first)).foldl (fun t i =>
    let g := first + i
    let within := (List.range 64).map fun j =>
      decide (pa ≤ 64 * g + j) && ((bs[64 * g + j - pa]?).getD none).isSome
    let st := storageAddr home (64 * g) / 64
    if within.any id && pois then { t with poison := sset false t.poison st true }
    else if within.all id then { t with poison := sset false t.poison st false }
    else t) s

/-- Bit g is set when granule g of len bytes from pa is poisoned (R74). -/
def State.pmask (s : State) (home pa len : Nat) : Nat :=
  (List.range ((pa % 64 + len + 63) / 64)).foldl (fun m g =>
    if s.poisonedAt home (pa / 64 * 64 + 64 * g) then m + 2 ^ g else m) 0

/-- The status of an access to len bytes at a physical place by anyone but the migration engine (R68, R75, R94). -/
def State.accessStatus (s : State) (key pa len : Nat) : Nat :=
  if ¬ (pa + len ≤ 2 ^ 40) ∧ ¬ (inAperture pa && inAperture (pa + len - 1)) then 4
  else if (s.keyOf key).isNone ∧ ¬ inAperture pa then 3
  else 0

/-- The bytes at a physical place, whatever the tier, under keys. -/
def State.bytesAt (s : State) (keys : BitVec 512) (home pa len : Nat) : List Byte :=
  (List.range len).map fun i => s.byteUnder keys ((pa + i) / 64) (storageAddr home (pa + i))

/-! ### EZ-pack (R91, R92) -/

/-- Sign, exponent and mantissa widths of a compressed element type; a type that R91 does not name is taken as bytes (DESIGN CHOICE,
log 62). -/
def packWidths : Nat → Nat × Nat × Nat
  | 1 => (1, 8, 23)
  | 2 => (1, 8, 7)
  | 3 => (1, 5, 10)
  | 4 => (1, 4, 3)
  | 5 => (1, 5, 2)
  | _ => (1, 0, 7)

/-- Take n bits, least significant first; none past the end. -/
def takeBits (bits : Nat) (left n : Nat) : Option (Nat × Nat × Nat) :=
  if n ≤ left then some (bits % 2 ^ n, bits / 2 ^ n, left - n) else none

/-- The elements of one group that a mask names. -/
def unpackElems (ew mw e0 dw mask : Nat) : Nat → Nat → Nat → Option (List Nat × Nat × Nat)
  | 0, bits, left => some ([], bits, left)
  | n + 1, bits, left =>
    let i := 31 - n
    if mask / 2 ^ i % 2 = 0 then
      (unpackElems ew mw e0 dw mask n bits left).map fun r => (0 :: r.1, r.2)
    else do
      let (sg, b1, l1) ← takeBits bits left 1
      let (d, b2, l2) ← takeBits b1 l1 (if ew = 0 then 0 else dw)
      let (mt, b3, l3) ← takeBits b2 l2 mw
      let r ← unpackElems ew mw e0 dw mask n b3 l3
      let v := sg * 2 ^ (ew + mw) + (e0 + d) % 2 ^ ew * 2 ^ mw + mt
      pure ((if ew = 0 then sg * 2 ^ mw + mt else v) :: r.1, r.2)

/-- The groups of a compressed block; none where dw exceeds 8 or the stored bits end early (R93). -/
def unpackGroups (ew mw : Nat) : Nat → Nat → Nat → Option (List Nat × Nat × Nat)
  | 0, bits, left => some ([], bits, left)
  | n + 1, bits, left => do
    let (mask, b1, l1) ← takeBits bits left 32
    if mask = 0 then
      let r ← unpackGroups ew mw n b1 l1
      pure (List.replicate 32 0 ++ r.1, r.2)
    else
      let (e0, b2, l2) ← takeBits b1 l1 ew
      let (dw, b3, l3) ← takeBits b2 l2 (if ew = 0 then 0 else 4)
      if 8 < dw then none
      else
        let g ← unpackElems ew mw e0 dw mask 32 b3 l3
        let r ← unpackGroups ew mw n g.2.1 g.2.2
        pure (g.1 ++ r.1, r.2)

/-- A stored block decoded to 4,096 bytes; none for a corrupt block. -/
def unpackBlock (etype : Nat) (stored : List Byte) : Option (List Byte) :=
  let (_, ew, mw) := packWidths etype
  let w := 1 + ew + mw
  let left := 8 * stored.length
  match unpackGroups ew mw (4096 * 8 / w / 32) (natOfBytes stored) left with
  | some (es, bits, rest) =>
    if rest < 256 ∧ stored.length % 32 = 0 ∧ bits = 0 then some (bytesOf (BitVec.ofNat 32768 (packLanes w es)) 4096) else none
  | none => none

/-- The fewest bits that hold n. -/
def bitLen : Nat → Nat → Nat
  | 0, _ => 0
  | f + 1, n => if n = 0 then 0 else 1 + bitLen f (n / 2)

/-- One group of 32 elements packed: its bits and their number (R92). -/
def packGroup (ew mw : Nat) (es : List Nat) : Nat × Nat :=
  let mask := packLanes 1 (es.map fun e => if e = 0 then 0 else 1)
  if mask = 0 then (0, 32)
  else
    let expo (e : Nat) : Nat := e / 2 ^ mw % 2 ^ ew
    let nz := es.filter (· != 0)
    let e0 := nz.foldl (fun m e => min m (expo e)) (2 ^ ew)
    let hi := nz.foldl (fun m e => max m (expo e)) 0
    let dw := if ew = 0 then 0 else bitLen 16 (hi - e0)
    let head : Nat × Nat := if ew = 0 then (mask, 32) else (mask + 2 ^ 32 * e0 + 2 ^ (32 + ew) * dw, 32 + ew + 4)
    nz.foldl (fun (acc : Nat × Nat) e =>
      let sg := e / 2 ^ (ew + mw)
      let fields := sg + 2 * (if ew = 0 then 0 else expo e - e0) + 2 ^ (1 + dw) * (e % 2 ^ mw)
      (acc.1 + 2 ^ acc.2 * fields, acc.2 + 1 + dw + mw)) head

/-- Elements by groups of 32. -/
def groups32 : Nat → List Nat → List (List Nat)
  | 0, _ => []
  | n + 1, es => es.take 32 :: groups32 n (es.drop 32)

/-- A 4,096-byte block encoded; a result of 4,096 bytes or more is stored raw (R92). -/
def packBlock (etype : Nat) (bs : List Byte) : Bool × List Byte :=
  let (_, ew, mw) := packWidths etype
  let w := 1 + ew + mw
  let total := natOfBytes bs
  let es := (List.range (32768 / w)).map fun i => total / 2 ^ (w * i) % 2 ^ w
  let r := (groups32 (32768 / w / 32) es).foldl (fun (acc : Nat × Nat) g =>
    let p := packGroup ew mw g
    (acc.1 + 2 ^ acc.2 * p.1, acc.2 + p.2)) (0, 0)
  let len := (r.2 + 255) / 256 * 32
  if 4096 ≤ len then (true, bs) else (false, bytesOf (BitVec.ofNat (8 * len) r.1) len)

/-- A block of an aperture slot or of a compressed far copy, from its descriptor, the address word of the stored blocks and
the rules for the record: the bytes, or none for a corrupt block (R93). -/
def State.storedBlock (s : State) (keys : BitVec 512) (data : Nat) (desc : Nat) (etype : Nat) (packed : Bool) :
    Option (List Byte) :=
  let off := desc % 2 ^ 40
  let len := desc / 2 ^ 40 % 2 ^ 13
  let raw := desc / 2 ^ 53 % 2 = 1
  let stored := s.bytesAt keys 0 (data + off) len
  if 4096 < len then none
  else if raw then if len = 4096 then some stored else none
  else if packed then unpackBlock etype stored
  else none

/-- Some granule of len bytes at a storage place is poisoned. -/
def State.anyPoison (s : State) (pa len : Nat) : Bool := decide (s.pmask 0 pa len ≠ 0)

/-- The granules of a decoded block that carry poison: all where its descriptor does or compressed bytes do, of a raw block those whose
stored bytes do (R98). -/
def State.blockMarks (s : State) (at_ from_ desc : Nat) : Nat :=
  if s.anyPoison at_ 8 then 2 ^ 64 - 1
  else if desc / 2 ^ 53 % 2 = 1 then
    (List.range 64).foldl (fun m g => if s.anyPoison (from_ + 64 * g) 64 then m + 2 ^ g else m) 0
  else if s.anyPoison from_ (desc / 2 ^ 40 % 2 ^ 13) then 2 ^ 64 - 1
  else 0

/-- The poison mask of len bytes from an address, every granule marked. -/
def allPoison (a len : Nat) : Nat := 2 ^ ((a % 64 + len + 63) / 64) - 1

/-- The record of aperture slot n: its status, bits, and the key slot of records (R91). -/
def State.surfaceRecord (s : State) (n : Nat) : Nat × BitVec 512 :=
  let at_ := nfield s.surfBase 6 46 * 64 + 64 * n
  let rk := nfield s.surfBase 52 7
  let st := s.accessStatus rk at_ 64
  (st, if st = 0 then bitsOfBytes 512 (s.bytesAt ((s.keyOf rk).getD 0) 0 at_ 64) else 0)

/-- The descriptor of block b of a surface record. -/
def State.surfaceDesc (s : State) (r : BitVec 512) (b : Nat) : Nat :=
  natOfBytes (s.bytesAt ((s.keyOf (nfield s.surfBase 52 7)).getD 0) 0 (nfield r 64 52 + 8 * b) 8)

/-- The status of a read of the descriptor of block b of a surface record, which lies outside the aperture (R94). -/
def State.descStatus (s : State) (r : BitVec 512) (b : Nat) : Nat :=
  let at_ := nfield r 64 52 + 8 * b
  let st := s.accessStatus (nfield s.surfBase 52 7) at_ 8
  if st = 0 ∧ inAperture at_ then 4 else st

/-- Block b of a surface decoded: status, its 4,096 bytes, and its poisoned granules; the addresses of a record's descriptors and blocks
are checked as any other (R93, R94, R98). -/
def State.surfaceBlock (s : State) (r : BitVec 512) (b : Nat) : Nat × List Byte × Nat :=
  let at_ := nfield r 64 52 + 8 * b
  let desc := s.surfaceDesc r b
  let data := nfield r 0 52
  let from_ := data + desc % 2 ^ 40
  let len := desc / 2 ^ 40 % 2 ^ 13
  let st := s.descStatus r b
  let stored := s.accessStatus (nfield r 52 7) from_ len
  let none_ := List.replicate 4096 (0 : Byte)
  if st ≠ 0 then (st, none_, 0)
  else if stored ≠ 0 ∨ inAperture from_ then (if stored ≠ 0 then stored else 4, none_, 0)
  else
    match s.storedBlock ((s.keyOf (nfield r 52 7)).getD 0) data desc (nfield r 160 8) (r.getLsbD 168) with
    | some bs => (0, bs, s.blockMarks at_ from_ desc)
    | none => (5, none_, 2 ^ 64 - 1)

/-- Slot and offset of an aperture address. -/
def apertureAt (pa : Nat) : Nat × Nat := ((pa - 2 ^ 51) / 2 ^ 36, pa % 2 ^ 36)

/-- A read performed at home of bytes outside the aperture: status, bytes and poison mask (R72, R75). DEDUCED, log 8. -/
def State.physRead (s : State) (key home pa len : Nat) : Nat × List Byte × Nat :=
  let st := s.accessStatus key pa len
  if st ≠ 0 ∨ inAperture pa then (if st ≠ 0 then st else 4, List.replicate len 0, 0)
  else (0, s.bytesAt ((s.keyOf key).getD 0) home pa len, s.pmask home pa len)

/-! ### Clocks (R187 to R189) -/

/-- The entrywise maximum of a clock and a list of entries. -/
def mergeClock (m : Sparse Nat) (clk : List Nat) : Sparse Nat :=
  (List.range 10).foldl (fun t i => sset 0 t i (max (sget 0 t i) (clk[i]?.getD 0))) m

/-- A clock as ten entries. -/
def clockList (m : Sparse Nat) : List Nat := (List.range 10).map fun i => sget 0 m i

/-- The clock an acquire read of home die h returns: K_h with entry h replaced by A_h (R189). -/
def State.homeClock (s : State) (h : Nat) : List Nat :=
  (List.range 10).map fun i => if i = h then (s.die h).applied else sget 0 (s.die h).known i

/-- Home die h applies one write that carries a clock (R187, R188). -/
def applyCount (s : State) (h : Nat) (clock : List Nat) : State :=
  s.modDie h fun d => { d with applied := d.applied + 1, known := mergeClock d.known clock }

/-- A write performed at home: the status and the state; a write with a non-zero status has no effect (R75). -/
def physWrite (s : State) (key home pa : Nat) (bs : List (Option Byte)) (pois : Bool) (clock : List Nat) : Nat × State :=
  if inAperture pa then (1, s)
  else
    let st := s.accessStatus key pa bs.length
    if st ≠ 0 then (st, s)
    else
      let s1 := putRun s ((s.keyOf key).getD 0) home pa bs
      (0, applyCount (poisonRun s1 home pa bs pois) (homeDie home pa) clock)

/-- An acquire by die d with the clock of a home: the clock is merged, and every causal line whose fill stamp is below the
merged entry of its home is dropped (R189). -/
def acquireAt (s : State) (d : Nat) (clock : List Nat) : State :=
  s.modDie d fun x =>
    let vc := mergeClock x.vc clock
    { x with vc := vc, rdc := x.rdc.filter fun l =>
        l.2.place.soft || decide (sget 0 vc (homeDie l.2.place.home l.2.place.pa) ≤ l.2.stamp) }

/-! ### The decompressing aperture (R91, R93, R100) -/

/-- Decompressed blocks a stack keeps (R93). -/
def apertureKeeps : Nat := 16

/-- The aperture of stack n mod 16 answers len bytes of one block of slot n: a kept block whose descriptor has not changed, or a
block decoded now and kept; a corrupt one gives status 5 and a record of kind 2 (R93, R100). The descriptor is read with acquire
semantics. -/
def apertureServe (s : State) (n off len : Nat) : State × Nat × List Byte × Nat :=
  let k := n % 16
  let r := s.surfaceRecord n
  if r.1 ≠ 0 then (s, r.1, List.replicate len 0, 0)
  else if nfield r.2 128 32 * 4096 < off + len then (s, 4, List.replicate len 0, 0)
  else if s.descStatus r.2 (off / 4096) ≠ 0 then (s, s.descStatus r.2 (off / 4096), List.replicate len 0, 0)
  else
    let b := off / 4096
    let desc : Word := BitVec.ofNat 64 (s.surfaceDesc r.2 b)
    let s1 := acquireAt s (k / 2 + 1) (s.homeClock (homeDie 0 (nfield r.2 64 52 + 8 * b)))
    match (s.stack k).aperture.find? fun e => e.1 == n && e.2.1 == b && e.2.2.1 == desc with
    | some e => (s1, 0, (e.2.2.2.drop (off % 4096)).take len, 0)
    | none =>
      let x := s.surfaceBlock r.2 b
      let data := (x.2.1.drop (off % 4096)).take len
      if x.1 = 5 then (writeStackLog s1 k 2 (2 ^ 51 + n * 2 ^ 36 + 4096 * b) 0, 5, data, allPoison off len)
      else if x.1 ≠ 0 then (s1, x.1, data, 0)
      else if x.2.2 ≠ 0 then (s1, 0, data, x.2.2 / 2 ^ (off % 4096 / 64) % 2 ^ ((off % 64 + len + 63) / 64))
      else
        (s1.modStack k fun y =>
          let l := y.aperture.filter fun e => !(e.1 == n && e.2.1 == b)
          { y with aperture := (if apertureKeeps ≤ l.length then l.drop 1 else l) ++ [(n, b, desc, x.2.1)] }, 0, data, 0)

/-- A read at the home of a physical address, the aperture served: the answer of a corrupt block is its poisoned data (R75, R93). -/
def homeRead (s : State) (key home pa len : Nat) : State × Nat × List Byte × Nat :=
  if inAperture pa then
    let r := apertureServe s (apertureAt pa).1 (apertureAt pa).2 len
    (r.1, if r.2.1 = 5 then 0 else r.2.1, r.2.2)
  else (s, s.physRead key home pa len)

/-! ### Remote-data caches (R184 to R186) -/

/-- An RDC line's dirty bytes as an enabled write. -/
def RdcLine.dirtyBytes (l : RdcLine) : List (Option Byte) :=
  (List.range 128).map fun i => if l.dirty.getLsbD i then some (l.data.extractLsb' (8 * i) 8) else none

/-- Bits 64 g to 64 g + 63 of a mask of bytes. -/
def granuleMask (g : Nat) : BitVec 128 := BitVec.ofNat 128 (2 ^ 64 - 1) <<< (64 * g)

/-- The replies under way that would fill a line of the control die no longer do. -/
def staleFills (n : Nat) (l : List Reply) : List Reply :=
  l.map fun r => if r.fill && r.die == 0 && r.pa / 128 == n then { r with fill := false } else r

/-- Fills under way of a line of the control die's cache are not kept: home has since gone on (R190, R191). DEDUCED, log 31. -/
def cancelFills (s : State) (d n : Nat) : State :=
  if d ≠ 0 then s
  else
    { s with
      replies := staleFills n s.replies
      hbm := s.hbm.map fun p => (p.1, { p.2 with waiting := p.2.waiting.map fun w =>
        { w with reply := (staleFills n [w.reply]).headD w.reply } }) }

/-- A line's dirty bytes written back as a WRM (R72, R184); a granule that carries the mark of poison is written with it, the other
without (R98). -/
def writeBackLine (s : State) (d : Nat) (l : RdcLine) : State :=
  let put (t : State) (mask : BitVec 128) (pois : Bool) : State :=
    if l.dirty &&& mask = 0 then t
    else
      (physWrite t l.place.key l.place.home l.place.pa ({ l with dirty := l.dirty &&& mask }.dirtyBytes) pois (clockList (t.die d).vc)).2
  let s1 := cancelFills s d (l.place.pa / 128)
  if l.pois = 0 ∨ l.pois = 3 then put s1 (BitVec.allOnes 128) (decide (l.pois ≠ 0))
  else put (put s1 (granuleMask 0) (l.pois.getLsbD 0)) (granuleMask 1) (l.pois.getLsbD 1)

/-- Drop line n of an RDC; a fill of it that is under way is not kept (R190). -/
def dropLine (s : State) (d n : Nat) : State := (cancelFills s d n).modDie d fun x => { x with rdc := serase x.rdc n }

/-- The line as an RDC that has no such line reads. -/
def RdcLine.absent : RdcLine :=
  { data := 0, dirty := 0, place := { pa := 0, key := 0, home := 0, soft := false }, stamp := 0, filled := 0, pois := 0, clock := [] }

/-- The line an RDC holds under a number, if it does. -/
def rdcFind (r : Sparse RdcLine) (n : Nat) : Option RdcLine :=
  match r.find? fun l => l.1 == n with
  | some l => some l.2
  | none => none

/-- Before a .bp or .st access: a held line is written back and invalidated (R184). DEDUCED, log 27. -/
def flushLine (s : State) (d n : Nat) : State :=
  match rdcFind (s.die d).rdc n with
  | some l => dropLine (writeBackLine s d l) d n
  | none => s

/-! ### Translation (R173 to R178) -/

/-- The bytes a leaf maps: 1 GiB, 2 MiB or a 64 MiB group, 4 KiB or a 64 KiB group (R176). -/
def leafSize (level : Nat) (g : Bool) : Nat :=
  match level with
  | 1 => 2 ^ 30
  | 2 => if g then 2 ^ 26 else 2 ^ 21
  | _ => if g then 2 ^ 16 else 2 ^ 12

/-- What a walk finds: a leaf with its level, or a failing kind of R178 with a stack status for kind 7. -/
inductive Walk where
  | leaf (pte : Word) (level addr : Nat)
  | fail (kind status : Nat)
  deriving DecidableEq, Repr

/-- The checks of R178 on a leaf, in the order of its table, with the exception for a page in motion. -/
def leafKind (pte : Word) (level : Nat) : Nat :=
  let bit (n : Nat) : Bool := pte.getLsbD n
  let home := nfield pte 6 2
  let stack := nfield pte 8 4
  let pa := nfield pte 12 40 * 4096
  if !(bit 0) && bit 54 then 4
  else if !(bit 0) then 1
  else if level = 0 ∨ home = 3 ∨ bit 63 ∨ (bit 62 && !(bit 53)) ∨ !(inRange pa)
      ∨ (home = 0 ∧ stack ≠ pa / 2 ^ 36 % 16) ∨ (home ≠ 0 ∧ stack ≠ 0) then 2
  else if bit 53 then 3
  else if bit 54 then 4
  else 0

/-- The table levels from a table address on, under the key of the address space (R175). -/
def walkFrom (s : State) (key va : Nat) : Nat → Nat → Nat → Walk
  | 0, _, _ => .fail 2 0
  | fuel + 1, level, table =>
    let idx := va / 2 ^ (39 - 9 * level) % 512
    let r := s.physRead key 0 (table + 8 * idx) 8
    if r.1 ≠ 0 then .fail 7 r.1
    else
      let e : Word := bitsOfBytes 64 r.2.1
      if e.getLsbD 1 then .leaf e level (table + 8 * idx)
      else if level = 3 then
        if e.getLsbD 0 then .fail 2 0 else .fail 1 0
      else if !(e.getLsbD 0) then .fail 1 0
      else if nfield e 2 10 ≠ 0 ∨ nfield e 52 12 ≠ 0 ∨ 2 ^ 40 ≤ nfield e 12 40 * 4096 then .fail 2 0
      else walkFrom s key va fuel (level + 1) (nfield e 12 40 * 4096)

/-- The hardware walk of an address space (R174, R175). -/
def State.walk (s : State) (asid va : Nat) : Walk :=
  let base := nfield s.astBase 15 37 * 32768
  let r := s.physRead (nfield s.astBase 52 7) 0 (base + 8 * asid) 8
  if r.1 ≠ 0 then .fail 7 r.1
  else
    let e : Word := bitsOfBytes 64 r.2.1
    if !(e.getLsbD 0) then .fail 1 0
    else if nfield e 1 11 ≠ 0 ∨ nfield e 59 5 ≠ 0 ∨ 2 ^ 40 ≤ nfield e 12 40 * 4096 then .fail 2 0
    else walkFrom s (nfield e 52 7) va 4 0 (nfield e 12 40 * 4096)

/-- The entries a walk reads on the levels from a table on are read as .bp accesses: a line of the die's cache that holds one is
written back and dropped first (R175, R184). -/
def flushTables (s : State) (d key va : Nat) : Nat → Nat → Nat → State
  | 0, _, _ => s
  | fuel + 1, level, table =>
    let at_ := table + 8 * (va / 2 ^ (39 - 9 * level) % 512)
    let t := flushLine s d (at_ / 128)
    let r := t.physRead key 0 at_ 8
    let e : Word := bitsOfBytes 64 r.2.1
    if r.1 ≠ 0 ∨ e.getLsbD 1 ∨ !(e.getLsbD 0) then t
    else flushTables t d key va fuel (level + 1) (nfield e 12 40 * 4096)

/-- The state from which the walk of an address space by a walker of die d reads its entries. DEDUCED, log 14. -/
def flushWalk (s : State) (d asid va : Nat) : State :=
  let at_ := nfield s.astBase 15 37 * 32768 + 8 * asid
  let t := flushLine s d (at_ / 128)
  let r := t.physRead (nfield s.astBase 52 7) 0 at_ 8
  let e : Word := bitsOfBytes 64 r.2.1
  if r.1 ≠ 0 ∨ !(e.getLsbD 0) then t else flushTables t d (nfield e 52 7) va 4 0 (nfield e 12 40 * 4096)

/-- The place a leaf gives a virtual address (R176, R177). -/
def leafPlace (pte : Word) (size va : Nat) : Place :=
  { pa := nfield pte 12 40 * 4096 / size * size + va % size, key := nfield pte 55 7, home := nfield pte 6 2,
    soft := pte.getLsbD 52 }

/-- Rights an access needs: bit 0 R, bit 1 W, bit 2 X (R176). -/
def rightsOk (pte : Word) (need : Nat) : Bool := decide ((nfield pte 2 3) &&& need = need)

/-- A TLB's translation of an address: entries are address space, first address, size, leaf (R179). -/
def tlbFind (t : List (Nat × Nat × Nat × Word)) (asid va : Nat) : Option (Nat × Nat × Nat × Word) :=
  t.find? fun e => decide (e.1 = asid ∧ e.2.1 ≤ va ∧ va < e.2.1 + e.2.2.1)

/-- A TLB with one entry more; the oldest goes when it is full (DESIGN CHOICE, log 14). -/
def tlbAdd (cap : Nat) (t : List (Nat × Nat × Nat × Word)) (e : Nat × Nat × Nat × Word) :
    List (Nat × Nat × Nat × Word) :=
  (if cap ≤ t.length then t.drop 1 else t) ++ [e]

/-- Who translates: a stream core through its L1 TLB, or an engine of a die. -/
inductive Agent where
  | core (q : Nat)
  | engine (die : Nat)
  deriving DecidableEq, Repr

/-- The die whose last-level TLB serves an agent (R179). -/
def Agent.tlbDie : Agent → Nat
  | .core q => quadDie q
  | .engine d => d

/-- The die an agent's accesses belong to: stream cores are agents of the control die. -/
def Agent.die : Agent → Nat
  | .core _ => 0
  | .engine d => d

/-- The L1 TLB is filled. -/
def fillL1 (s : State) (who : Agent) (e : Nat × Nat × Nat × Word) : State :=
  match who with
  | .core q => s.modCore q fun c => { c with tlb := tlbAdd 128 c.tlb e }
  | .engine _ => s

/-- The translation of an address for an agent: L1, last-level TLB, walk; TLBs hold only valid translations (R178, R179). -/
def translate (s : State) (who : Agent) (asid va need : Nat) : State × Except (Nat × Nat) Place :=
  let l1 := match who with
    | .core q => tlbFind (s.core q).tlb asid va
    | .engine _ => none
  let use (t : State) (e : Nat × Nat × Nat × Word) : State × Except (Nat × Nat) Place :=
    if rightsOk e.2.2.2 need then (t, .ok (leafPlace e.2.2.2 e.2.2.1 va)) else (t, .error (5, 0))
  match l1 with
  | some e => use s e
  | none =>
    match tlbFind (s.die who.tlbDie).tlb asid va with
    | some e => use (fillL1 s who e) e
    | none =>
      let t := flushWalk s who.tlbDie asid va
      match t.walk asid va with
      | .fail k st => (t, .error (k, st))
      | .leaf pte level _ =>
        let k := leafKind pte level
        if k ≠ 0 then (t, .error (k, 0))
        else
          let size := leafSize level (pte.getLsbD 5)
          let e := (asid, va / size * size, size, pte)
          use (fillL1 (t.modDie who.tlbDie fun d => { d with tlb := tlbAdd 4096 d.tlb e }) who e) e

/-- The trap cause of a failing kind: kinds 1 to 4 PAGE, 5 to 7 PROT (R178). -/
def kindCause (kind : Nat) : Nat := if kind ≤ 4 then 4 else 5

/-- sr.tval of a failing kind (R178). -/
def kindTval (va kind status : Nat) : Word :=
  BitVec.ofNat 64 (va % 2 ^ 48 + 2 ^ 48 * kind + (if kind = 7 then 2 ^ 52 * status else 0))

/-! ### Accesses through the remote-data caches (R184 to R186) -/

/-- Lines an RDC set holds at most (R184). -/
def rdcWays : Nat := 8

/-- Sets of an RDC: 16 MiB on the control die, 32 MiB on a matrix die, 128-byte lines (R184). -/
def rdcSets (d : Nat) : Nat := if d = 0 then 16384 else 32768

/-- Put a line into an RDC; when its set is full the line filled first is written back and dropped (DESIGN CHOICE, log 15). -/
def putLine (s : State) (d n : Nat) (l : RdcLine) : State :=
  let set := (serase (s.die d).rdc n).filter fun x => x.1 % rdcSets d == n % rdcSets d
  let s1 :=
    if set.length < rdcWays then s
    else
      match set.foldl (fun (m : Option (Nat × RdcLine)) x =>
          match m with
          | none => some x
          | some y => if x.2.filled < y.2.filled then some x else some y) none with
      | some v => dropLine (writeBackLine s d v.2) d v.1
      | none => s
  s1.modDie d fun x => { x with rdc := sinsert (serase x.rdc n) n l }

/-- A line filled from home for an access to a place; the state is unchanged when the read has a status. -/
def fillLine (s : State) (d : Nat) (p : Place) : Nat × State :=
  let la := p.pa / 128 * 128
  let r := s.physRead p.key p.home la 128
  if r.1 ≠ 0 then (r.1, s)
  else
    (0, putLine s d (la / 128)
      { data := bitsOfBytes 1024 r.2.1, dirty := 0, place := { p with pa := la },
        stamp := (s.die (homeDie p.home la)).applied, filled := s.pcc, pois := BitVec.ofNat 2 r.2.2,
        clock := s.homeClock (homeDie p.home la) })

/-- An access of policy pol by die d to a place goes through the die's RDC: .d and .lc to lines homed elsewhere, .lc to lines
of a software-managed page homed on the die, .d to such a line once held; never on the SF die (R184). -/
def usesRdc (s : State) (d pol : Nat) (p : Place) : Bool :=
  d != 9 && (pol == 0 || pol == 3) && decide (p.pa < 2 ^ 40) &&
    (homeDie p.home p.pa != d || (pol == 3 && p.soft) || (rdcFind (s.die d).rdc (p.pa / 128)).isSome)

/-- Bytes of a line from its data. -/
def RdcLine.bytes (l : RdcLine) (off len : Nat) : List Byte :=
  (List.range len).map fun i => l.data.extractLsb' (8 * (off + i)) 8

/-- Poison mask of bytes of a line. -/
def RdcLine.poisonMask (l : RdcLine) (off len : Nat) : Nat :=
  (List.range ((off % 64 + len + 63) / 64)).foldl (fun m g =>
    if l.pois.getLsbD (off / 64 + g) then m + 2 ^ g else m) 0

/-- A read by an engine of a die within one 128-byte line. -/
def lineRead (s : State) (d pol : Nat) (p : Place) (len : Nat) : State × Nat × List Byte × Nat :=
  let n := p.pa / 128
  if usesRdc s d pol p then
    let f := if (rdcFind (s.die d).rdc n).isSome then (0, s) else fillLine s d p
    match rdcFind (f.2.die d).rdc n with
    | some l => (f.2, 0, l.bytes (p.pa % 128) len, l.poisonMask (p.pa % 128) len)
    | none => (f.2, if f.1 = 0 then 4 else f.1, List.replicate len 0, 0)
  else
    homeRead (if d = 9 then s else flushLine s d n) p.key p.home p.pa len

/-- The poison of a line after a write of enabled bytes: a granule all of whose bytes are enabled is cleared, every granule written is
marked when the payload is poisoned (R98). -/
def RdcLine.mark (l : RdcLine) (off : Nat) (bs : List (Option Byte)) (pois : Bool) : RdcLine :=
  let one (m : BitVec 2) (g : Nat) : BitVec 2 :=
    let en := (List.range 64).map fun j => decide (off ≤ 64 * g + j) && ((bs[64 * g + j - off]?).getD none).isSome
    let b : BitVec 2 := (1 : BitVec 2) <<< g
    if en.any id && pois then m ||| b else if en.all id then m &&& ~~~b else m
  { l with pois := [0, 1].foldl one l.pois }

/-- The line with enabled bytes written at an offset, dirty or as a copy of what home holds, with their poison. -/
def RdcLine.store (l : RdcLine) (off : Nat) (bs : List (Option Byte)) (dirty pois : Bool) : RdcLine :=
  let put (acc : RdcLine × Nat) (b : Option Byte) : RdcLine × Nat :=
    match b with
    | none => (acc.1, acc.2 + 1)
    | some v =>
      let m : BitVec 1024 := (0xFF : BitVec 1024) <<< (8 * acc.2)
      ({ acc.1 with
         data := (acc.1.data &&& ~~~m) ||| ((v.setWidth 1024) <<< (8 * acc.2))
         dirty := if dirty then acc.1.dirty ||| (1 : BitVec 128) <<< acc.2 else acc.1.dirty }, acc.2 + 1)
  (bs.foldl put (l.mark off bs pois, off)).1

/-- A write by an agent of a die within one 128-byte line: write-back for a software-managed page under .d or .lc, where the line is of
that page's class from then on and its bytes stay until CWB, CWBI or eviction; else
performed at home with a present copy updated or, under .bp and .st, flushed first (R184). -/
def lineWrite (s : State) (d pol : Nat) (p : Place) (bs : List (Option Byte)) (pois : Bool) (clock : List Nat) :
    Nat × State :=
  let n := p.pa / 128
  if usesRdc s d pol p && p.soft then
    let f := if (rdcFind (s.die d).rdc n).isSome then (0, s) else fillLine s d p
    match rdcFind (f.2.die d).rdc n with
    | some l =>
      (0, putLine f.2 d n { l.store (p.pa % 128) bs true pois with place := { p with pa := p.pa / 128 * 128 } })
    | none => (f.1, f.2)
  else if usesRdc s d pol p then
    let w := physWrite s p.key p.home p.pa bs pois clock
    match rdcFind (w.2.die d).rdc n with
    | some l => if w.1 = 0 then (0, putLine w.2 d n (l.store (p.pa % 128) bs false pois)) else w
    | none => w
  else
    physWrite (if d = 9 then s else flushLine s d n) p.key p.home p.pa bs pois clock

/-- Read len bytes at a translated place, line by line (fuel: at most 33 lines of a 4 KiB chunk); a block of the aperture is one
read. -/
def placeRead (s : State) (d pol : Nat) (p : Place) : Nat → Nat → State × Nat × List Byte × Nat
  | 0, _ => (s, 0, [], 0)
  | fuel + 1, len =>
    if len = 0 then (s, 0, [], 0)
    else
      let n := if inAperture p.pa then min len (4096 - p.pa % 4096) else min len (128 - p.pa % 128)
      let r := lineRead s d pol p n
      if r.2.1 ≠ 0 then r
      else
        let rest := placeRead r.1 d pol { p with pa := p.pa + n } fuel (len - n)
        (rest.1, rest.2.1, r.2.2.1 ++ rest.2.2.1, r.2.2.2 ||| (rest.2.2.2 <<< ((p.pa % 64 + n) / 64)))

/-- Write bytes at a translated place, line by line. -/
def placeWrite (s : State) (d pol : Nat) (p : Place) (pois : Bool) (clock : List Nat) :
    Nat → List (Option Byte) → Nat × State
  | 0, _ => (0, s)
  | fuel + 1, bs =>
    if bs.isEmpty then (0, s)
    else
      let n := min bs.length (128 - p.pa % 128)
      let w := lineWrite s d pol p (bs.take n) pois clock
      if w.1 ≠ 0 then w
      else placeWrite w.2 d pol { p with pa := p.pa + n } pois clock fuel (bs.drop n)

/-- Lines of a 4 KiB access. -/
def lineFuel : Nat := 34

/-- The least time-out (R25). -/
def leastTimeout : Nat := 4096

/-- The time-out limit of a die's requests (R25). -/
def State.timeLimit (s : State) (d : Nat) : Nat := max leastTimeout (s.die d).rto.toNat

/-- A request of a die's engines goes unanswered, and its limit has not come: they wait (R25). -/
def engineWaits (s : State) (d : Nat) : Bool :=
  match (s.die d).late with
  | some t => decide (s.pcc < t + s.timeLimit d)
  | none => false

/-- A request of a die's engines has gone unanswered to the limit. -/
def engineLate (s : State) (d : Nat) : Bool :=
  match (s.die d).late with
  | some t => decide (t + s.timeLimit d ≤ s.pcc)
  | none => false

/-- The mark, above those of granules, that tells in a poison mask that the request timed out (R26). -/
def timeoutMark : Nat := 2 ^ 128
def timedOut (pmask : Nat) : Bool := decide (pmask / timeoutMark % 2 = 1)

/-- sr.tval of POISON at a virtual address; bit 63 tells a time-out (R26, R272). -/
def poisonTval (va : Nat) (timedOut : Bool) : Word := BitVec.ofNat 64 (va % 2 ^ 52 + (if timedOut then 2 ^ 63 else 0))

/-- A request of an engine of a die that goes unanswered to the limit: the error record of R28 and event 0x010; its agent, tag and
generation the spec does not number (R26, R28; DESIGN CHOICE, log 61). -/
def engineTimeout (s : State) (d : Nat) (p : Place) : State :=
  let w := Config.freeWord s.fresh
  let s1 := { s.modDie d fun x => { x with late := none } with fresh := s.fresh + 1 }
  let target := if p.pa < 2 ^ 40 then homeStack p.home p.pa else if inAperture p.pa then (apertureAt p.pa).1 % 16 else 16
  countDie (writeDieLog s1 d (timeoutRecord s p.pa (nfield w 0 7) (nfield w 8 12) (nfield w 20 4) target)) d 0x010 1

/-- An engine's read at a virtual address within one page: a failing kind with its status, or the bytes and poison; every granule is
poisoned where the request timed out (R26). -/
def engRead (s : State) (d pol asid va len : Nat) : State × Except (Nat × Nat) (List Byte × Nat) :=
  match translate s (.engine d) asid va 1 with
  | (t, .error e) => (t, .error e)
  | (t, .ok p) =>
    if engineLate t d ∧ 0 < len then
      (engineTimeout t d p, .ok ((t.physRead p.key p.home p.pa len).2.1, allPoison va len + timeoutMark))
    else
      let r := placeRead t d pol p lineFuel len
      if r.2.1 ≠ 0 then (r.1, .error (7, r.2.1)) else (r.1, .ok (r.2.2.1, r.2.2.2))

/-- The completion replies of a die's engine carry what each home has applied since a state (R187). -/
def noteAcks (old : State) (d : Nat) (s : State) : State :=
  (List.range 10).foldl (fun t h =>
    if (s.die h).applied = (old.die h).applied then t
    else t.modDie d fun x => { x with acks := sset 0 x.acks h (max (sget 0 x.acks h) (s.die h).applied) }) s

/-- A release by an engine of die d: what its completion replies carried enters the die's clock (R188). -/
def engRelease (s : State) (d : Nat) : State :=
  s.modDie d fun x => { x with vc := mergeClock x.vc (clockList x.acks), acks := [] }

/-- An engine's write at a virtual address within one page. -/
def engWrite (s : State) (d pol asid va : Nat) (bs : List Byte) (pois : Bool) : State × Except (Nat × Nat) Unit :=
  match translate s (.engine d) asid va 2 with
  | (t, .error e) => (t, .error e)
  | (t, .ok p) =>
    let w := placeWrite t d pol p pois (clockList (t.die d).vc) lineFuel (bs.map some)
    let late := engineLate t d && !bs.isEmpty
    if w.1 ≠ 0 then (w.2, .error (7, w.1)) else (if late then engineTimeout (noteAcks t d w.2) d p else noteAcks t d w.2, .ok ())

/-- Bytes of a range that may cross pages, read as .bp in pieces of one page. -/
def engReadRange (s : State) (d pol asid : Nat) : Nat → Nat → Nat → State × Except (Nat × Nat) (List Byte × Bool)
  | 0, _, _ => (s, .ok ([], false))
  | fuel + 1, va, len =>
    if len = 0 then (s, .ok ([], false))
    else
      let n := min len (4096 - va % 4096)
      match engRead s d pol asid va n with
      | (t, .error e) => (t, .error e)
      | (t, .ok (bs, pm)) =>
        match engReadRange t d pol asid fuel (va + n) (len - n) with
        | (u, .error e) => (u, .error e)
        | (u, .ok (r, po)) => (u, .ok (bs ++ r, po || decide (pm ≠ 0)))

/-! ### Words engines write on completion (R197, R248) -/

/-- A word spec has valid space bits and no reserved bit set (R248, R363). -/
def specOk (spec : Word) : Bool :=
  match nfield spec 60 2 with
  | 0 => decide (nfield spec 48 12 = 0 ∧ nfield spec 62 2 = 0)
  | 1 => decide (nfield spec 22 36 = 0 ∧ nfield spec 58 2 < 4 ∧ nfield spec 62 2 = 0)
  | _ => false

/-- A word spec names scratchpad. -/
def specLocal (spec : Word) : Bool := decide (nfield spec 60 2 = 1)

/-- An engine of a die writes a completion word with release at package scope; a spec of zero writes nothing. The failing kind
of a global word is returned (R197, R470). The clock of a scratchpad word goes to the die of its quad, where a WAITA finds it
(R188, R189). DEDUCED, log 63. -/
def writeWord (s : State) (d : Nat) (w : WordRef) : State × Except (Nat × Nat) Unit :=
  if w.spec = 0 then (s, .ok ())
  else if specLocal w.spec then
    let s1 := engRelease s d
    let s2 := s1.modDie (quadDie w.quad) fun x => { x with known := mergeClock x.known (clockList (s1.die d).vc) }
    (s2.modCell w.quad (nfield w.spec 58 2) (fun c => c.putSpm (nfield w.spec 0 22) (bytesOf w.val 8)), .ok ())
  else engWrite (engRelease s d) d 1 w.asid (nfield w.spec 0 48) (bytesOf w.val 8) false

/-- A physical write by an engine of a die, such as a stack engine's of its matrix die: the status and the state (R197). -/
def engPhysWrite (s : State) (d key pa : Nat) (bs : List Byte) (pois : Bool) : Nat × State :=
  let w := physWrite s key 0 pa (bs.map some) pois (clockList (s.die d).vc)
  (w.1, if w.1 = 0 then noteAcks s d w.2 else w.2)

/-- A flag or word at an address word, written with release at package scope; only the HBM range and a valid key take it. -/
def writeFlag (s : State) (d : Nat) (at_ value : Word) : Nat × State :=
  engPhysWrite (engRelease s d) d (nfield at_ 52 7) (nfield at_ 0 52) (bytesOf value 8) false

end Sys2Proof.Machine
end

