-- ==== Sys2Proof/Machine/Granule.lean ====
section
/-! DEFINITION. The granules of a cell's residual stack: where they lie and how they are read and written (R228, R233, R242). -/

namespace Sys2Proof.Machine

/-- Depth D and window of a cell's stack. -/
def Arch.depth (a : Arch) (j : Nat) : Nat := (sget 0 a.rsTop j).toNat
def Arch.winBase (a : Arch) (j : Nat) : Nat := nfield (sget 0 a.rsWin j) 0 12
def Arch.winSize (a : Arch) (j : Nat) : Nat := nfield (sget 0 a.rsWin j) 16 13

/-! ### Granules -/

/-- The capacity C of a cell's window in granules. -/
def Arch.ring (a : Arch) (j : Nat) : Nat := 16 * a.winSize j

/-- The scratchpad address of granule x. -/
def Arch.granuleAddr (a : Arch) (j x : Nat) : Nat := 1024 * a.winBase j + 64 * (if a.ring j = 0 then 0 else x % a.ring j)

/-- Ranges of granules without n granules from p. -/
def unreserve (l : List (Nat × Nat)) (p n : Nat) : List (Nat × Nat) :=
  l.flatMap fun r =>
    let hi := r.1 + r.2
    (if r.1 < min hi p then [(r.1, min hi p - r.1)] else [])
      ++ (if max r.1 (p + n) < hi then [(max r.1 (p + n), hi - max r.1 (p + n))] else [])

/-- Granules of ranges that lie at or above h. -/
def countAbove (l : List (Nat × Nat)) (h : Nat) : Nat := l.foldl (fun n r => n + (r.1 + r.2 - max r.1 h)) 0

/-- The held granules O: written and not spilled (R232). -/
def heldGranules (s : State) (q j : Nat) : Nat :=
  let c := s.cell q j
  (s.core q).arch.depth j - c.spilled - countAbove c.reserved c.spilled

/-- A granule is held in the window: written and not spilled. -/
def granuleHeld (s : State) (q j x : Nat) : Bool :=
  let c := s.cell q j
  decide (c.spilled ≤ x) && !(c.reserved.any fun r => decide (r.1 ≤ x ∧ x < r.1 + r.2))

/-- Granule x is written into the window. -/
def putGranule (s : State) (q j x : Nat) (v : BitVec 512) : State :=
  let at_ := (s.core q).arch.granuleAddr j x
  s.modCell q j fun c =>
    let c1 := (c.putSpm at_ (bytesOf v 64)).markSpm at_ 64 (fun _ => false)
    { c1 with reserved := unreserve c1.reserved x 1 }

/-- The granules of a record from x on, each written while its ring position is free; the first that is not free waits with every
later one (R233). -/
def writeGranules (s : State) (q j bundle queue : Nat) : Nat → List (BitVec 512) → State
  | _, [] => s
  | x, v :: r =>
    if x < (s.cell q j).spilled + (s.core q).arch.ring j then writeGranules (putGranule s q j x v) q j bundle queue (x + 1) r
    else s.modCell q j fun c =>
      { c with
        parked := false
        waitFrom := if c.waiting.isEmpty then s.pcc else c.waitFrom
        waiting := c.waiting ++ (v :: r).zipIdx.map fun p => { pos := x + p.2, val := p.1, bundle := bundle, queue := queue } }

/-- The 16 granules of a row. -/
def rowGranules (r : Row) : List (BitVec 512) := (List.range 16).map fun i => r.extractLsb' (512 * i) 512

/-- A row from 16 granules. -/
def rowOfGranules (gs : List (BitVec 512)) : Row := BitVec.ofNat 8192 (packLanes 512 (gs.map BitVec.toNat))

/-- Granule x in the window. -/
def windowRead (s : State) (q j x : Nat) : BitVec 512 :=
  bitsOfBytes 512 ((s.cell q j).spmBytes ((s.core q).arch.granuleAddr j x) 64)

/-! ### The HBM area (R228) -/

/-- The address of granule x in the HBM area. -/
def Arch.hbmAddr (a : Arch) (j x : Nat) : Nat := nfield (sget 0 a.rsHbm j) 12 36 * 4096 + 64 * x

/-- Granules the HBM area holds. -/
def Arch.hbmSize (a : Arch) (j : Nat) : Nat := nfield (sget 0 a.rsHbm j) 48 16 * 16384

/-- The address space of the task a core runs. -/
def CoreSt.space (c : CoreSt) : Nat :=
  match c.task with
  | some t => t.asid
  | none => 0

/-- Granule x read from the HBM area: the failing kind and status, or its bytes (R242). Kind 8 stands for poison, with status 1 where the
read timed out (R26). -/
def hbmRead (s : State) (q j x : Nat) : State × Except (Nat × Nat) (BitVec 512) :=
  let c := s.core q
  match engRead s (quadDie q) 1 c.space (c.arch.hbmAddr j x) 64 with
  | (t, .error e) => (t, .error e)
  | (t, .ok r) => if r.2 ≠ 0 then (t, .error (8, if timedOut r.2 then 1 else 0)) else (t, .ok (bitsOfBytes 512 r.1))

/-- Granule x from the window or from the HBM area. -/
def granuleRead (s : State) (q j x : Nat) : State × Except (Nat × Nat) (BitVec 512) :=
  if (s.cell q j).spilled ≤ x then (s, .ok (windowRead s q j x)) else hbmRead s q j x

/-- n granules from x on, wherever they are. -/
def granulesRead (s : State) (q j : Nat) : Nat → Nat → State × Except (Nat × Nat × Nat) (List (BitVec 512))
  | 0, _ => (s, .ok [])
  | n + 1, x =>
    match granuleRead s q j x with
    | (t, .error e) => (t, .error (x, e.1, e.2))
    | (t, .ok v) =>
      match granulesRead t q j n (x + 1) with
      | (u, .error e) => (u, .error e)
      | (u, .ok r) => (u, .ok (v :: r))

/-- The trap of a granule that cannot be read: PAGE, PROT or POISON with its address (R242). -/
def granuleTrap (s : State) (q j x kind status : Nat) : State :=
  let va := (s.core q).arch.hbmAddr j x
  if kind = 8 then slotTrap s q 12 (poisonTval va (status == 1)) else slotTrap s q (kindCause kind) (kindTval va kind status)

end Sys2Proof.Machine
end

