-- ==== Sys2Proof/Machine/Reads.lean ====
section
/-! DEFINITION. The scalar registers and predicates each instruction reads and writes (R154, R172, R225, R350). -/

namespace Sys2Proof.Machine

/-- A register of a stream core that results are written to. -/
inductive RegRef where
  | x (n : Nat)
  | p (n : Nat)
  | lc (n : Nat)
  deriving DecidableEq, Repr

def rX (f : BitVec 6) : RegRef := .x f.toNat
def rP (f : BitVec 5) : RegRef := .p f.toNat
def rPn (f : BitVec 6) : RegRef := .p (predNo f)

/-- The guard predicate of an instruction, p0 where it takes none (R299 to R301). -/
def guardReg : Instr → BitVec 5 × BitVec 1
  | .add f | .sub f | .mul f | .mulh f | .mulhn f | .div f | .divn f | .rem f | .remn f | .andx f | .orx f
  | .xorx f | .andn f | .shl f | .shr f | .sra f | .rot f | .clz f | .ctz f | .popc f | .min f | .max f
  | .minn f | .maxn f | .ext f | .extn f | .ins f | .sel f | .pcmp f | .plog f | .xtop f | .ptox f
  | .ldbAcq f | .ldbnAcq f | .ldhAcq f | .ldhnAcq f | .ldwAcq f | .ldwnAcq f | .lddAcq f | .stbRel f
  | .sthRel f | .stwRel f | .stdRel f | .amo f | .cas f | .red f | .fenceAcq f | .fenceRel f | .fenceFull f
  | .fenceRed f | .fenceEng f | .waita f | .cwb f | .cinv f | .cwbi f | .pfr f | .fadd f | .fsub f | .fmul f
  | .ffma f | .fdiv f | .fsqrt f | .fmin f | .fmax f | .fcmp f | .fcvt f | .jr f | .jrl f => (f.pg, f.ng)
  | .addi f | .andi f | .ori f | .xori f | .shli f | .shri f | .srai f | .roti f | .lea f | .pcmpiEq f
  | .pcmpiNe f | .pcmpiLt f | .pcmpiLe f | .pcmpiGt f | .pcmpiGe f | .pcmpiLtn f | .pcmpiLen f | .pcmpiGtn f
  | .pcmpiGen f | .ldb f | .ldbn f | .ldh f | .ldhn f | .ldw f | .ldwn f | .ldd f | .stb f | .sth f | .stw f
  | .std f | .br f | .brl f | .loop f | .loopx f | .idle f | .seg f | .rgn f | .tend f | .isync f | .sysr f
  | .sysw f | .tret f => (f.pg, f.ng)
  | .vmin f | .vmax f | .vabs f | .vneg f | .vclamp f | .viadd f | .visub f | .vimul f | .vimulh f
  | .vand f | .vor f | .vxor f | .vandn f | .vshl f | .vshr f | .vsra f | .vimin f | .vimax f | .viminn f
  | .vimaxn f | .vsel f | .vmov f | .vbcast f | .viota f | .vperm f | .vrot f | .vcxs f | .vextr f
  | .vins f | .vcmpr f | .vpcnt f | .vrng f | .vtma f | .vtmm f | .vtmf f | .vcmpEq f | .vcmpNe f
  | .vcmpLt f | .vcmpLe f | .vcmpGt f | .vcmpGe f | .vicmpEq f | .vicmpNe f | .vicmpLt f | .vicmpLe f
  | .vicmpGt f | .vicmpGe f | .vicmpLtn f | .vicmpLen f | .vicmpGtn f | .vicmpGen f
  | .vadd _ f | .vsub _ f | .vmul _ f | .vfma _ f | .vfnma _ f | .vscale _ f | .vrcp _ f | .vrsq _ f
  | .vexp2 _ f | .vlog2 _ f | .vcvt _ f | .vcvtfx _ f | .vscan _ f | .vsegsum _ f | .vred _ f => (f.pg, f.ng)
  | .tld f | .tst f | .tfill f | .tzero f | .wld f | .mma f | .mmas f | .azero f | .drain f | .fpush f
  | .tstat f | .tclr f | .trsum f | .tcsum f => (f.pg, f.ng)
  | .xfer f | .xferRow f | .sftab f | .span f | .rseed f | .coll f | .shpin f | .shrel f | .nnq f | .tspawn f
  | .natm f | .ovl f | .pbind f | .pbindOff f | .pparm f => (f.pg, f.ng)
  | _ => (0, 0)

/-- The scalar registers and predicates an instruction reads beside its guard. -/
def operandReads : Instr → List RegRef
  | .add f | .sub f | .mul f | .mulh f | .mulhn f | .div f | .divn f | .rem f | .remn f | .andx f | .orx f
  | .xorx f | .andn f | .shl f | .shr f | .sra f | .rot f | .min f | .max f | .minn f | .maxn f | .pcmp f
  | .ldbAcq f | .ldbnAcq f | .ldhAcq f | .ldhnAcq f | .ldwAcq f | .ldwnAcq f | .lddAcq f | .amo f | .red f
  | .cwb f | .cinv f | .cwbi f | .fadd f | .fsub f | .fmul f | .fdiv f | .fmin f | .fmax f | .fcmp f =>
    [rX f.a, rX f.b]
  | .clz f | .ctz f | .popc f | .ext f | .extn f | .xtop f | .fsqrt f | .fcvt f | .jr f | .jrl f => [rX f.a]
  | .ins f => [rX f.a, rX f.d]
  | .sel f => [rX f.a, rX f.b, .p (f.fn.toNat % 32)]
  | .plog f => [rPn f.a, rPn f.b]
  | .ptox f => [rPn f.a]
  | .stbRel f | .sthRel f | .stwRel f | .stdRel f | .cas f | .waita f | .pfr f | .ffma f => [rX f.a, rX f.b, rX f.d]
  | .addi f | .andi f | .ori f | .xori f | .shli f | .shri f | .srai f | .roti f | .lea f | .pcmpiEq f
  | .pcmpiNe f | .pcmpiLt f | .pcmpiLe f | .pcmpiGt f | .pcmpiGe f | .pcmpiLtn f | .pcmpiLen f | .pcmpiGtn f
  | .pcmpiGen f | .ldb f | .ldbn f | .ldh f | .ldhn f | .ldw f | .ldwn f | .ldd f | .loopx f | .idle f | .rgn f
  | .sysw f => [rX f.a]
  | .stb f | .sth f | .stw f | .std f => [rX f.a, rX f.d]
  | .lih f => [rX f.d]
  | .tld f | .tst f | .tfill f | .wld f | .mma f | .mmas f | .drain f | .fpush f | .tstat f | .trsum f
  | .tcsum f => [rX f.xs]
  | .xfer f | .sftab f | .shpin f | .natm f | .ovl f => [rX f.xa, rX f.xb, rX f.xc]
  | .xferRow f | .rseed f | .nnq f | .tspawn f => [rX f.xa, rX f.xb]
  | .span f | .coll f | .shrel f | .pparm f => [rX f.xa]
  | .sfop f => if f.fn.toNat % 16 = 8 ∨ f.fn.toNat % 16 = 9 then [rX f.xa] else []
  | .rev f | .phase f => [rX f.xa]
  | _ => []

/-- The register an instruction writes on the stream core, where its encoding names it; a write to x0 names none. -/
def destReg : Instr → Option RegRef
  | .add f | .sub f | .mul f | .mulh f | .mulhn f | .div f | .divn f | .rem f | .remn f | .andx f | .orx f
  | .xorx f | .andn f | .shl f | .shr f | .sra f | .rot f | .clz f | .ctz f | .popc f | .min f | .max f
  | .minn f | .maxn f | .ext f | .extn f | .ins f | .sel f | .ptox f | .ldbAcq f | .ldbnAcq f | .ldhAcq f
  | .ldhnAcq f | .ldwAcq f | .ldwnAcq f | .lddAcq f | .amo f | .cas f | .waita f | .fadd f | .fsub f
  | .fmul f | .ffma f | .fdiv f | .fsqrt f | .fmin f | .fmax f | .fcvt f | .jrl f =>
    if f.d = 0 then none else some (rX f.d)
  | .addi f | .andi f | .ori f | .xori f | .shli f | .shri f | .srai f | .roti f | .lea f | .ldb f | .ldbn f
  | .ldh f | .ldhn f | .ldw f | .ldwn f | .ldd f | .brl f | .sysr f => if f.d = 0 then none else some (rX f.d)
  | .li f | .lih f => if f.d = 0 then none else some (rX f.d)
  | .pcmp f | .plog f | .xtop f | .fcmp f => some (rPn f.d)
  | .pcmpiEq f | .pcmpiNe f | .pcmpiLt f | .pcmpiLe f | .pcmpiGt f | .pcmpiGe f | .pcmpiLtn f | .pcmpiLen f
  | .pcmpiGtn f | .pcmpiGen f => some (rPn f.d)
  | .tspawn f => some (.p (f.fn.toNat % 32))
  | .loop f | .loopx f => some (.lc (f.d.toNat % 4))
  | _ => none

/-- The scalar writes a span allows: those that have an inverse (R225, R315). -/
def spanReversible : Instr → Bool
  | .add f | .sub f | .xorx f | .rot f => f.d == f.a && f.b != f.d
  | .addi f | .xori f | .roti f => f.d == f.a
  | _ => false

/-- A register whose result is not yet written at cycle pcc, results of the bundle under issue apart (R171, R309). -/
def unwritten (c : CoreSt) (pcc : Nat) (r : RegRef) : Bool :=
  c.arch.pend.any fun w => decide (pcc < w.due) && w.bid != c.bid &&
    match r, w.dst with
    | .x n, .x m => n == m
    | .p n, .p m _ => n == m
    | .lc n, .sys m => m == n + 8
    | _, _ => false

/-- A register that a load, an atomic, a WAITA, a template read or a TSPAWN will write (R350). -/
def pendingReg (c : CoreSt) (r : RegRef) : Bool :=
  match r with
  | .x n => n != 0 &&
      (c.lsq.any (fun m => m.dst == n && (match m.kind with
        | .load | .atom | .tmpl => true
        | .store | .red => false))
       || (match c.waita with | some w => w.dst == n | none => false))
  | .p n => c.pendPreds.contains n
  | .lc _ => false

end Sys2Proof.Machine
end

