-- ==== Sys2Proof/Machine/Issue.lean ====
section
/-! DEFINITION. What every slot shares at issue: the guard, the checks of an open span, the early-read checker, the residual
records an instruction pushes, and the placing of cell commands in their queues. -/

namespace Sys2Proof.Machine

/-! ### The span that governs a bundle -/

/-- The instruction a slot of the current bundle holds. -/
def CoreSt.slotInstr (c : CoreSt) (k : SlotKind) : Instr := decodeSlot k (bundleSlot k c.curBundle)

/-- The 128 bytes of LDM at an address. -/
def Arch.ldmLine (a : Arch) (addr : Nat) : BitVec 1024 := bitsOfBytes 1024 (a.ldmBytes addr 128)

/-- The descriptor of the span the current bundle belongs to: the open one, or the one its own slot E opens (R225). -/
def CoreSt.spanNow (c : CoreSt) : Option (BitVec 1024) :=
  if c.arch.spanRules then some c.arch.spanDesc
  else if c.arch.inHandler || c.arch.inSpan || c.arch.revActive then none
  else
    match c.slotInstr .e with
    | .span f => if c.arch.guardTrue f.pg f.ng then some (c.arch.ldmLine (c.arch.rx f.xa.toNat).toNat) else none
    | _ => none

/-- SPAN with a sub-cause and cell at the slot under execution (R235). -/
def spanFault (s : State) (q sub cell : Nat) : State :=
  let c := s.core q
  let id := match c.spanNow with
    | some d => nfield d 0 16
    | none => c.arch.spanId
  slotTrap s q 10 (spanTval sub c.slot cell id 0)

/-- Descriptor fields (R222). -/
def descBudget (d : BitVec 1024) : Nat := nfield d 32 32
def descGmap (d : BitVec 1024) (n : Nat) : Option Nat :=
  if d.getLsbD (64 + 4 * n + 3) then some (nfield d (64 + 4 * n) 2) else none
def descTileGrad (d : BitVec 1024) (t : Nat) : Bool := d.getLsbD (80 + t)
def descTileAddr (d : BitVec 1024) (t : Nat) : Nat := nfield d (128 + 32 * t) 22
def descRecompute (d : BitVec 1024) : Bool := d.getLsbD 16
def descPair (d : BitVec 1024) (p : Nat) : Bool := d.getLsbD (104 + p)

/-- A bundle within the next n of bundle e holds SPAN or SPEND in slot E (R225). -/
def crossesSpan (c : CoreSt) (e : Nat) : Nat → Bool
  | 0 => false
  | n + 1 =>
    (match decodeSlot .e (bundleSlot .e (c.bundleAt (e + n + 1))) with
      | .span _ | .spend _ => true
      | _ => false) || crossesSpan c e n

/-- The operand code of a vector source, none where the instruction reads no such operand. -/
def vecSources : Instr → List (BitVec 9)
  | .vadd _ f | .vsub _ f | .vmul _ f | .vfma _ f | .vfnma _ f | .vscale _ f | .vsegsum _ f => [f.a, f.b]
  | .vmin f | .vmax f | .vclamp f | .viadd f | .visub f | .vimul f | .vimulh f | .vand f | .vor f | .vxor f
  | .vandn f | .vshl f | .vshr f | .vsra f | .vimin f | .vimax f | .viminn f | .vimaxn f | .vsel f | .vperm f
  | .vcmpr f | .vcxs f | .vcmpEq f | .vcmpNe f | .vcmpLt f | .vcmpLe f | .vcmpGt f | .vcmpGe f | .vicmpEq f
  | .vicmpNe f | .vicmpLt f | .vicmpLe f | .vicmpGt f | .vicmpGe f | .vicmpLtn f | .vicmpLen f | .vicmpGtn f
  | .vicmpGen f => [f.a, f.b]
  | .vrcp _ f | .vrsq _ f | .vexp2 _ f | .vlog2 _ f | .vcvt _ f | .vcvtfx _ f | .vscan _ f | .vred _ f => [f.a]
  | .vabs f | .vneg f | .vmov f | .vbcast f | .vrot f | .vextr f | .vins f | .vpcnt f | .vtma f | .vtmm f
  | .vtmf f => [f.a]
  | .vrng f => if f.b.toNat % 4 = 2 then [f.a] else []
  | _ => []

/-- The source codes of a cell command that may name ports (R295, R296). -/
def sourceCodes : Instr → List (BitVec 9)
  | .sfop f | .rpush f | .psend f | .psendG f => [f.a]
  | .mma f | .mmas f => [if f.ta.toNat < 20 then 0 else BitVec.ofNat 9 (236 + f.ta.toNat)]
  | i => vecSources i

/-- The ports a command pops, in order; a pass pops its port 64 times (R297, R400). -/
def portPops (i : Instr) : List Nat :=
  let one := (sourceCodes i).filterMap fun c => match srcCode c with
    | some (.pop n) => some n
    | _ => none
  match i with
  | .mma _ | .mmas _ => one.flatMap fun n => List.replicate 64 n
  | _ => one

/-- The destination code of a command that may push a port. -/
def destCode : Instr → Option (BitVec 9)
  | .vmin f | .vmax f | .vabs f | .vneg f | .vclamp f | .viadd f | .visub f | .vimul f | .vimulh f
  | .vand f | .vor f | .vxor f | .vandn f | .vshl f | .vshr f | .vsra f | .vimin f | .vimax f | .viminn f
  | .vimaxn f | .vsel f | .vmov f | .vbcast f | .viota f | .vperm f | .vrot f | .vextr f
  | .vins f | .vcmpr f | .vpcnt f | .vrng f | .vtma f | .vtmm f | .vtmf f | .vcmpEq f | .vcmpNe f
  | .vcmpLt f | .vcmpLe f | .vcmpGt f | .vcmpGe f | .vicmpEq f | .vicmpNe f | .vicmpLt f | .vicmpLe f
  | .vicmpGt f | .vicmpGe f | .vicmpLtn f | .vicmpLen f | .vicmpGtn f | .vicmpGen f
  | .vadd _ f | .vsub _ f | .vmul _ f | .vfma _ f | .vfnma _ f | .vscale _ f | .vrcp _ f | .vrsq _ f
  | .vexp2 _ f | .vlog2 _ f | .vcvt _ f | .vcvtfx _ f | .vscan _ f | .vsegsum _ f | .vred _ f => some f.d
  | .sfop f | .rpop f | .precv f | .precvG f => some f.d
  | _ => none

/-- The ports a command pushes. A receive pushes once in each selected cell. -/
def portPushes (i : Instr) : List Nat :=
  match destCode i with
  | some c => match dstCode c with
    | some (.push n) => [n]
    | _ => []
  | none => []

/-- The cells a command selects, none for an instruction that enters no cell queue or has nothing to walk back. -/
def cmdMask : Instr → Option (BitVec 4)
  | .vmin f | .vmax f | .vabs f | .vneg f | .vclamp f | .viadd f | .visub f | .vimul f | .vimulh f | .vand f
  | .vor f | .vxor f | .vandn f | .vshl f | .vshr f | .vsra f | .vimin f | .vimax f | .viminn f | .vimaxn f
  | .vsel f | .vmov f | .vbcast f | .viota f | .vperm f | .vrot f | .vcxs f | .vextr f | .vins f | .vcmpr f
  | .vpcnt f | .vrng f | .vtma f | .vtmm f | .vtmf f | .vcmpEq f | .vcmpNe f | .vcmpLt f | .vcmpLe f | .vcmpGt f
  | .vcmpGe f | .vicmpEq f | .vicmpNe f | .vicmpLt f | .vicmpLe f | .vicmpGt f | .vicmpGe f | .vicmpLtn f
  | .vicmpLen f | .vicmpGtn f | .vicmpGen f | .vadd _ f | .vsub _ f | .vmul _ f | .vfma _ f | .vfnma _ f
  | .vscale _ f | .vrcp _ f | .vrsq _ f | .vexp2 _ f | .vlog2 _ f | .vcvt _ f | .vcvtfx _ f | .vscan _ f
  | .vsegsum _ f | .vred _ f => some f.cm
  | .tld f | .tst f | .tfill f | .tzero f | .wld f | .mma f | .mmas f | .azero f | .drain f | .tstat f | .tclr f
  | .trsum f | .tcsum f => some f.cm
  | .xfer f | .xferRow f | .rseed f | .pbind f | .pbindOff f => some f.cm
  | .sfop f | .rpush f | .rpop f | .psend f | .psendG f | .precv f | .precvG f => some f.cm
  | .phase f => some f.cm
  | _ => none

/-- The cells in whose queues an instruction puts a command (R147, R151): FPUSH enters the matrix queue too, with nothing to walk
back. -/
def queueMask : Instr → Option (BitVec 4)
  | .fpush f => some f.cm
  | i => cmdMask i

/-- The cells a mask selects, ascending. -/
def cellsOf (cm : BitVec 4) : List Nat := [0, 1, 2, 3].filter fun j => cm.getLsbD j

/-- The key of a port of a cell in the stream core's counts. -/
def portKey (j p : Nat) : Nat := 8 * j + p

/-- A source reads a port of a selected cell that no PBIND inside the span bound there (R225). -/
def foreignPort (a : Arch) (i : Instr) : Bool :=
  (sourceCodes i).any fun c => match srcCode c with
    | some (.pop n) | some (.peek n) => (cellsOf ((cmdMask i).getD 0)).any fun j => !(a.spanPorts.contains (portKey j n))
    | _ => false

/-- The element type of an instruction that draws random numbers, as seen by R375; none where it does not draw. -/
def drawType (i : Instr) : Option Nat :=
  match i with
  | .vadd rm f | .vsub rm f | .vmul rm f | .vfma rm f | .vfnma rm f | .vscale rm f | .vrcp rm f | .vrsq rm f
  | .vexp2 rm f | .vlog2 rm f | .vcvtfx rm f | .vscan rm f | .vsegsum rm f | .vred rm f =>
    if rm.toNat = 5 then some f.ty.toNat else none
  | .vcvt rm f => if rm.toNat = 5 then some (f.b.toNat % 8) else none
  | .vrng f => some f.ty.toNat
  | _ => none

/-- What a span forbids an instruction as such, by sub-cause (R225, R246, R417). -/
def spanForbids (c : CoreSt) (d : BitVec 1024) (i : Instr) : Option Nat :=
  match i with
  | .ldb _ | .ldbn _ | .ldh _ | .ldhn _ | .ldw _ | .ldwn _ | .ldd _ | .stb _ | .sth _ | .stw _ | .std _
  | .ldbAcq _ | .ldbnAcq _ | .ldhAcq _ | .ldhnAcq _ | .ldwAcq _ | .ldwnAcq _ | .lddAcq _ | .stbRel _
  | .sthRel _ | .stwRel _ | .stdRel _ | .amo _ | .cas _ | .red _ | .fenceAcq _ | .fenceRel _ | .fenceFull _
  | .fenceRed _ | .fenceEng _ | .waita _ | .cwb _ | .cinv _ | .cwbi _ | .pfr _ => some 2
  | .br _ | .brl _ | .jr _ | .jrl _ | .trap _ => some 3
  | .tend _ | .rgn _ | .rev _ | .pswap _ | .ovl _ | .tspawn _ => some 4
  | .span _ => if c.arch.spanRules then some 4 else none
  | .sysw f =>
    let n := f.imm.toNat % 4096
    if residualReg n then some 4 else if 8 ≤ n ∧ n ≤ 11 then some 1 else none
  | .coll _ | .shpin _ | .shrel _ | .nnq _ | .natm _ | .sftab _ | .rpush _ | .rpop _ | .rseed _ | .psendG _
  | .precvG _ | .phase _ => some 15
  | .pparm _ | .tstat _ => some 1
  | .loop f => if crossesSpan c c.arch.pc f.a.toNat then some 3 else none
  | .loopx f =>
    if crossesSpan c c.arch.pc (f.imm.toNat % 2048) || c.arch.spanWrites.contains f.a.toNat then some 3 else none
  | .psend f | .precv f => if descPair d (f.fn.toNat % 8) then none else some 17
  | _ => none

/-- Slot A of the current bundle writes scalar register n. -/
def slotAWrites (c : CoreSt) (n : Nat) : Bool := destReg (c.slotInstr .a) == some (.x n)

/-- The body of an active loop that began before the span ends at the current bundle, inside the span or where it opens (R225). -/
def loopCrosses (c : CoreSt) : Bool :=
  c.spanNow.isSome && (match c.slotInstr .e with | .spend _ => false | _ => true) &&
    [0, 1, 2, 3].any fun n =>
      let l := sget LoopCtr.zero c.arch.lc n
      l.active && decide (l.last.toNat = c.arch.pc) && !(c.arch.spanLoops.contains n)

/-- The span checks of an instruction at the slot under execution: the sub-cause it raises (R225, R227, R302, R315, R375). A quashed
one passes those of R417 and R227, which are no checks of R225 or R302 (R299). DEDUCED, log 23. -/
def spanCheck (c : CoreSt) (i : Instr) (live : Bool) : Option Nat :=
  match c.spanNow with
  | none => none
  | some d =>
    let g := guardReg i
    let always := guardAlways g.1 g.2
    if c.slot = 0 && loopCrosses c then some 3
    else if c.slot = 0 && headerSkip c.curBundle && (headerVres c.curBundle != 0 || headerTres c.curBundle != 0) then
      some 11
    else
      match (spanForbids c d i).filter fun n => live || n != 15 with
      | some n => some n
      | none =>
        if foreignPort c.arch i then some 10
        else
          match destReg i with
          | some (.x n) =>
            if live && headerSkip c.curBundle then some 11
            else if c.arch.spanLoops.contains (4 + n) then some 3
            else if !(spanReversible i) || !always || (c.slot == 1 && slotAWrites c n) then some 1 else none
          | some (.p _) => some 1
          | some (.lc _) => if always then none else some 1
          | none =>
            match drawType i with
            | some t => if t ≠ 0 then some 13 else none
            | none => none

/-! ### The common course of a slot -/

/-- A TSTAT that writes predicate n has not started in every selected cell (R411). -/
def tstatPending (s : State) (q n : Nat) : Bool :=
  [0, 1, 2, 3].any fun j => (s.cell q j).qMat.any fun k =>
    match k.instr with
    | .tstat _ => k.gtrue && k.bid != (s.core q).bid && nfield k.x1 0 5 == n
    | _ => false

/-- A register whose result is not yet written, a TSTAT's included (R171). -/
def notWritten (s : State) (q : Nat) (r : RegRef) : Bool :=
  unwritten (s.core q) s.pcc r || (match r with
    | .p n => n != 0 && tstatPending s q n
    | _ => false)

/-- One slot: ILL for its encoding first, then the span checks (so that what a span forbids raises SPAN whatever else the operation
would raise), then, under sr.erc, early reads (R172), and the body when the guard is true; a quashed slot does nothing (R299). The body ends the slot itself. -/
def issueSlot (s : State) (i : Instr) (ill live : Bool) (body : State → State) : State :=
  let q := s.cur
  let c := s.core q
  if ill then illTrap s q
  else
    match spanCheck c i live with
    | some n => spanFault s q n 0
    | none =>
      let g := guardReg i
      let reads := RegRef.p g.1.toNat :: (if live then operandReads i else [])
      if c.arch.erc && reads.any (notWritten s q) then slotTrap s q 9 (timingTval 6 0 3 0 s.pcc)
      else if live then body s
      else nextSlot s q

/-- The guard of a scalar or engine slot. -/
def liveGuard (s : State) (i : Instr) : Bool :=
  let g := guardReg i
  (s.core s.cur).arch.guardTrue g.1 g.2

/-- A scalar register written inside a span is remembered (R225). -/
def noteWrite (s : State) (q : Nat) (i : Instr) : State :=
  match (s.core q).spanNow, destReg i with
  | some _, some (.x n) => s.modArch q fun a => { a with spanWrites := if a.spanWrites.contains n then a.spanWrites else n :: a.spanWrites }
  | _, _ => s

/-! ### Residual records (R229 to R231) -/

/-- The transformed-mean shape selects a table pair (sr tm.shape; R271). -/
def tmTable (tm : BitVec 32) : Bool := tm.getLsbD 9

/-- The records an instruction's adjoint entry needs and whether it is differentiable, as bits: 1 operand a, 2 operand b, 4
mask, 8 seed, 16 shape, 32 format, 64 result y, 128 differentiable (R393, R415, R441). fmt is the format word it pops. -/
def adjointNeeds (d : BitVec 1024) (tm : BitVec 32) (fmt : Word) (i : Instr) : Nat :=
  let f32 (f : VR) (n : Nat) : Nat := if f.ty = 0 then 128 + n else 0
  let sto (rm : BitVec 3) : Nat := if rm.toNat = 5 then 8 else 0
  match i with
  | .vadd rm f | .vsub rm f | .vscan rm f => f32 f (sto rm)
  | .vmul rm f | .vfma rm f | .vfnma rm f => f32 f (3 + sto rm)
  | .vscale rm f | .vsegsum rm f => f32 f (2 + sto rm)
  | .vrcp rm f | .vrsq rm f | .vexp2 rm f | .vlog2 rm f => f32 f (1 + sto rm)
  | .vmin f | .vmax f | .vsel f | .vclamp f | .vabs f => f32 f 4
  | .vneg f | .vmov f | .vrot f => f32 f 0
  | .vcvt rm f => if f.b.toNat % 8 = 0 then 128 + sto rm else 0
  | .vcvtfx rm f => f32 f (sto rm)
  | .vred rm f => if f.b.toNat % 4 = 0 then f32 f (sto rm) else if f.ty = 0 then sto rm else 0
  | .vrng f => f32 f 8
  | .vtma _ => if tmTable tm then 16 else 128 + 1 + 16
  | .vtmm _ => if tmTable tm then 16 else 128 + 16
  | .vtmf f => if tmTable tm ∨ f.b.toNat % 4 ≠ 0 then 16 else 128 + 1 + 16
  | .mma f =>
    let plain := nfield fmt 32 2 = 0 ∧ nfield fmt 10 4 = 0 ∧ (nfield fmt 0 4 < 4 ∨ nfield fmt 0 4 = 6)
    if plain then
      let gradA := if f.ta.toNat < 16 then descTileGrad d (f.ta.toNat % 8)
        else if f.ta.toNat < 20 then (descGmap d (f.ta.toNat - 16)).isSome else false
      let gradB := descTileGrad d (f.tb.toNat % 8)
      128 + 32 + (if gradB then 1 else 0) + (if gradA then 2 else 0)
    else 32
  | .drain _ => if nfield fmt 39 3 = 5 then 8 else 0
  | .tld _ | .tfill _ | .tzero _ | .azero _ => 128
  | .sfop f =>
    let fn := f.fn.toNat % 16
    if nfield f.fn 4 3 = 0 ∧ fn < 8 then 128 + (if fn = 0 ∨ fn = 2 ∨ fn = 4 then 64 else 1) else 0
  | .xferRow _ => 128
  | .psend f | .precv f => if f.fn.getLsbD 4 then 0 else 128
  | _ => 0

/-- Bit k of a set of records. -/
def hasRec (n k : Nat) : Bool := decide (n / k % 2 = 1)

/-- Granules of a set of records of an instruction (R229). -/
def recGranules (i : Instr) (n : Nat) : Nat :=
  let row := match i with
    | .mma _ => 1024
    | _ => 16
  let rowA := match i with
    | .vtmf _ => 48
    | _ => row
  (if hasRec n 1 then rowA else 0) + (if hasRec n 2 then row else 0) + (if hasRec n 4 then 1 else 0)
    + (if hasRec n 8 then 1 else 0) + (if hasRec n 16 then 1 else 0) + (if hasRec n 32 then 1 else 0)
    + (if hasRec n 64 then 16 else 0)

/-- Operand 0 (a) or 1 (b) of an instruction is read through a port. -/
def throughPort (i : Instr) (k : Nat) : Bool :=
  match (sourceCodes i)[k]? with
  | some c => match srcCode c with
    | some (.pop _) | some (.peek _) => true
    | _ => false
  | none => false

/-- The instruction reads operand b as a row or tile. -/
def readsB (i : Instr) : Bool :=
  match i with
  | .mma _ => true
  | _ => (sourceCodes i).length == 2

/-- The row a source code names has a gradient (R223, R238); a port has none. -/
def codeGrad (d : BitVec 1024) (c : BitVec 9) : Bool :=
  match srcCode c with
  | some (.reg v) => (descGmap d (v / 64)).isSome
  | _ => false

/-- The terms of an entry need operand k: they go to a source that has a gradient (R238). DEDUCED, log 24. -/
def operandWanted (d : BitVec 1024) (i : Instr) (k : Nat) : Bool :=
  match i with
  | .vmul _ f | .vfma _ f | .vfnma _ f => codeGrad d (if k = 0 then f.b else f.a)
  | .vscale _ f | .vsegsum _ f | .vrcp _ f | .vrsq _ f | .vexp2 _ f | .vlog2 _ f | .vtma f => codeGrad d f.a
  | .vtmf f => codeGrad d f.a || codeGrad d (f.a + 2)
  | _ => true

/-- An XFER names the issuing quad, by x(b)[32] or by its number (R419). -/
def xferOwn (c : CoreSt) (q : Nat) (x2 : Word) : Bool := x2.getLsbD 32 || nfield x2 24 8 == logicalQuad c.binding q % 256

/-- Row mode of XFER is differentiable inside the own quad, with a gradient for both rows (R441). -/
def xferGrads (c : CoreSt) (q : Nat) (d : BitVec 1024) (f : ER) : Bool :=
  let x1 := c.arch.rx f.xa.toNat
  let x2 := c.arch.rx f.xb.toNat
  xferOwn c q x2 && (descGmap d (nfield x1 6 2)).isSome && (descGmap d (nfield x2 6 2)).isSome

/-- The records a bundle's V, T or E slot pushes for an instruction, or the sub-cause of a policy that leaves a needed operand
out (R230, R240, R441). In replay operands and masks are pushed; with the recompute flag the forward run pushes seeds, shapes
and formats only. -/
def recordsOf (c : CoreSt) (q : Nat) (d : BitVec 1024) (tm : BitVec 32) (fmt : Word) (i : Instr) (replay : Bool) : Except Nat Nat :=
  let need := adjointNeeds d tm fmt i
  let b := c.curBundle
  let diff := hasRec need 128 && (match i with
    | .xferRow f => xferGrads c q d f
    | _ => true)
  let pol : Nat := match i with
    | .sfop _ | .xferRow _ | .psend _ | .precv _ => 3
    | .mma _ => (headerTres b).toNat
    | .tld _ | .tfill _ | .tzero _ | .azero _ | .drain _ => 0
    | _ => (headerVres b).toNat
  let isE := match i with
    | .sfop _ | .xferRow _ | .psend _ | .precv _ => true
    | _ => false
  if diff && headerSkip b then .error 11
  else if diff && hasRec need 1 && isE && throughPort i 0 then .error 6
  else if diff && hasRec need 1 && operandWanted d i 0 && !(hasRec pol 1) && !(throughPort i 0) then .error 6
  else if diff && hasRec need 2 && operandWanted d i 1 && !(hasRec pol 2) && !(throughPort i 1) then .error 6
  else
    let readsA := !(sourceCodes i).isEmpty
    let ops :=
      if !diff then 0
      else if isE then need % 4 + (if hasRec need 64 then 64 else 0)
      else (if hasRec pol 1 && readsA && !(throughPort i 0) then 1 else 0)
        + (if hasRec pol 2 && readsB i && !(throughPort i 1) then 2 else 0)
    let mask := if diff && hasRec need 4 then 4 else 0
    let keep := (if hasRec need 8 then 8 else 0) + (if hasRec need 16 then 16 else 0) + (if hasRec need 32 then 32 else 0)
    if replay then .ok (ops + mask)
    else if descRecompute d then .ok keep
    else .ok (ops + mask + keep)

/-- Reserve n granules on cell j's stack (R231): the sub-cause it raises, or the state. Pushes that a span's budget counts come with
it; opening and closing records, pushes outside spans and those of a replay come with none. -/
def reserve (s : State) (q j n : Nat) (budget : Option Nat) : Except Nat State :=
  let c := s.core q
  let a := c.arch
  if n = 0 then .ok s
  else if (budget.any fun b => b != 0 && decide (b < sget 0 a.pushed j + n)) then .error 5
  else if a.winSize j = 0 then .error 9
  else if a.depth j < (s.cell q j).spilled then .error 9
  else
    let s1 := s.modCore q fun c => { c with lastRes := some c.bid, arch := { c.arch with
        rsTop := sset 0 c.arch.rsTop j (BitVec.ofNat 40 (a.depth j + n))
        pushed := if budget.isSome then sset 0 c.arch.pushed j (sget 0 c.arch.pushed j + n) else c.arch.pushed } }
    .ok (s1.modCell q j fun x =>
      { x with reserved := x.reserved ++ [(a.depth j, n)], seedMarks := x.seedMarks.filter fun g => decide (g < a.depth j) })

/-! ### Cell commands -/

/-- What a slot asks of the cells it selects. -/
structure CellReq where
  instr : Instr
  cm : BitVec 4
  queue : Nat
  x1 : Word
  x2 : Word
  x3 : Word
  guard : Pred
  gtrue : Bool
  /-- the command pops a format word -/
  popsFmt : Bool
  /-- FPUSH: the word it pushes -/
  pushFmt : Option Word
  set : BitVec 1024
  deriving DecidableEq, Repr

/-- The queue of a cell by its number: 0 matrix, 1 vector, 2 SF. -/
def CellSt.queueOf (c : CellSt) (n : Nat) : List Cmd :=
  match n with
  | 0 => c.qMat
  | 1 => c.qVec
  | _ => c.qSf

/-- The copy of a cell's queued format words. -/
def Arch.fmts (a : Arch) (j : Nat) : List Word := sget [] a.fmtCopy j

/-- sr.tval of QOVF, QUND and FMTQ (R272). DEDUCED, log 57. -/
def portTval (port cell : Nat) : Word := BitVec.ofNat 64 (port + 16 * cell)

/-- The trap a cell's port and format counts raise for a request, if any: cause and sr.tval (R165, R166). -/
def countTrap (a : Arch) (r : CellReq) (j : Nat) : Option (Nat × Word) :=
  if r.popsFmt && (a.fmts j).isEmpty then some (8, portTval 7 j)
  else if r.pushFmt.isSome && decide (8 ≤ (a.fmts j).length) then some (6, portTval 7 j)
  else
    let short (ps : List Nat) : Option Nat :=
      ps.find? fun p => decide (sget 0 a.portCnt (portKey j p) < ps.count p)
    match short (if r.gtrue then portPops r.instr else []) with
    | some p => some (7, portTval p j)
    | none => (short (portPushes r.instr)).map fun p => (6, portTval p j)

/-- The counts of a cell after a request has issued. -/
def takeCounts (a : Arch) (r : CellReq) (j : Nat) : Arch :=
  let cnt := ((if r.gtrue then portPops r.instr else []) ++ portPushes r.instr).foldl
    (fun m p => sset 0 m (portKey j p) (sget 0 m (portKey j p) - 1)) a.portCnt
  let fm := match r.pushFmt with
    | some w => a.fmts j ++ [w]
    | none => if r.popsFmt then (a.fmts j).drop 1 else a.fmts j
  { a with portCnt := cnt, fmtCopy := sset [] a.fmtCopy j fm }

/-- The command a request puts into a cell's queue; it arrives a command lead after its issue (R15, R16). -/
def makeCmd (c : CoreSt) (pcc lead : Nat) (r : CellReq) (resAt resLen resOps : Nat) : Cmd :=
  { instr := r.instr, bid := c.bid, bundle := c.arch.pc, lock := c.interlocked, start := c.startCycle pcc lead,
    arrive := pcc + lead, x1 := r.x1, x2 := r.x2, x3 := r.x3, guard := r.guard, gtrue := r.gtrue,
    tm := c.arch.tmShape, lchk := c.arch.lchk, erc := c.arch.erc, set := r.set, resAt := resAt, resLen := resLen,
    resOps := resOps, seed := none, word := none }

/-- In the replay of a recompute span: the seed, shape and format granules an instruction reads in place, in push order. -/
def replayKeep (need : Nat) : List Nat := [8, 16, 32].filter fun k => hasRec need k

/-- The granule a replayed command reads in place, from the window or the HBM area; placeCmd has found it readable. -/
def windowGranule (s : State) (q j x : Nat) : BitVec 512 :=
  match granuleRead s q j x with
  | (_, .ok v) => v
  | (_, .error _) => 0

/-- The granules a replayed command reads in place in cell j, by its encoding and, for DRAIN, the word it pops there (R230, R410). -/
def keepCount (c : CoreSt) (w : RevWalk) (j : Nat) (i : Instr) : Nat :=
  (replayKeep (adjointNeeds c.arch.spanDesc c.arch.tmShape (((sget [] w.fmts j).head?).getD 0) i)).length

/-- The format word a replayed command takes in cell j: the one its format record holds, or the next of the walk's own queue; an empty
one gives a free value (R240, R415). -/
def replayFmt (s : State) (q j : Nat) (i : Instr) : Word :=
  let c := s.core q
  match c.rev with
  | some w =>
    if hasRec (adjointNeeds c.arch.spanDesc c.arch.tmShape 0 i) 32 then (windowGranule s q j (sget 0 w.seedAt j)).setWidth 64
    else ((sget [] w.fmts j).head?).getD (Config.freeWord s.fresh)
  | none => 0

/-- The first granule that a replayed command could not read in place: its cell, number, failing kind and status (R240, R242). -/
def replayBlocked (s : State) (q : Nat) (js : List Nat) (i : Instr) : Option (Nat × Nat × Nat × Nat) :=
  match (s.core q).rev with
  | some w => js.findSome? fun j =>
    match granulesRead s q j (keepCount (s.core q) w j i) (sget 0 w.seedAt j) with
    | (_, .error e) => some (j, e)
    | (_, .ok _) => none
  | none => none

/-- Put a request into the queue of cell j (R147, R231, R240). -/
def placeIn (s : State) (q j : Nat) (r : CellReq) : Except Nat State :=
  let c := s.core q
  let fmt := ((c.arch.fmts j).head?).getD 0
  match c.rev with
  | some w =>
    if c.arch.walking then
      let at0 := sget 0 w.seedAt j
      let own := (sget [] w.fmts j).head?
      let first := adjointNeeds c.arch.spanDesc c.arch.tmShape 0 r.instr
      let tm := if hasRec first 16 then BitVec.ofNat 32 (windowGranule s q j at0).toNat else c.arch.tmShape
      let fm := replayFmt s q j r.instr
      let need := adjointNeeds c.arch.spanDesc tm fm r.instr
      let keep := replayKeep need
      match recordsOf c q c.arch.spanDesc tm fm r.instr true with
      | .error n => .error n
      | .ok ops =>
        match reserve s q j (recGranules r.instr ops) none with
        | .error n => .error n
        | .ok t =>
          let k := { makeCmd c s.pcc (s.lead q) r (c.arch.depth j) (recGranules r.instr ops) ops with
            tm := tm
            word := if r.popsFmt then some fm else none
            seed := if hasRec need 8 then some ((windowGranule s q j at0).setWidth 64) else none }
          let t1 := if r.popsFmt && own.isNone then { t with fresh := t.fresh + 1 } else t
          .ok ((t1.modCell q j fun x => enqueue x r.queue k).modCore q fun c =>
            { c with
              rev := some { w with
                seedAt := sset 0 w.seedAt j (at0 + keep.length)
                keepLog := sset [] w.keepLog j (keep.length :: sget [] w.keepLog j)
                fmts := if r.popsFmt then sset [] w.fmts j ((sget [] w.fmts j).drop 1) else w.fmts }
              arch := takeCounts c.arch { r with popsFmt := false, pushFmt := none } j })
    else
      .ok ((s.modCell q j fun x => enqueue x r.queue (makeCmd c s.pcc (s.lead q) r 0 0 0)).modArch q fun a => takeCounts a r j)
  | none =>
    match c.spanNow with
    | none =>
      .ok ((s.modCell q j fun x => enqueue x r.queue (makeCmd c s.pcc (s.lead q) r 0 0 0)).modArch q fun a => takeCounts a r j)
    | some d =>
      match recordsOf c q d c.arch.tmShape fmt r.instr false with
      | .error n => .error n
      | .ok ops =>
        match reserve s q j (recGranules r.instr ops) (some (descBudget d)) with
        | .error n => .error n
        | .ok t =>
          let mark : List Nat := match r.instr with
            | .drain _ => if hasRec ops 8 then [c.arch.depth j] else []
            | _ => []
          .ok ((t.modCell q j fun x =>
              let y := enqueue x r.queue (makeCmd c s.pcc (s.lead q) r (c.arch.depth j) (recGranules r.instr ops) ops)
              { y with seedMarks := y.seedMarks ++ mark }).modArch q fun a => takeCounts a r j)

/-- Put a request into the queues of the cells of a list, or raise what it raises: SPAN at a cell. -/
def placeAll (s : State) (q : Nat) (r : CellReq) : List Nat → State × Option (Nat × Nat)
  | [] => (s, none)
  | j :: rest =>
    match placeIn s q j r with
    | .error n => (s, some (n, j))
    | .ok t => placeAll t q r rest

/-- A differentiable command of a bundle to be skipped in reverse that selects no cell (R227); one that selects cells raises it there.
No cell pops a word for an MMA, whose form is taken as plain (DESIGN CHOICE, log 23). -/
def skippedDiff (c : CoreSt) (q : Nat) (i : Instr) (js : List Nat) : Bool :=
  js.isEmpty && !c.arch.walking && headerSkip c.curBundle && (match c.spanNow with
    | some d => hasRec (adjointNeeds d c.arch.tmShape 0 i) 128 && (match i with
      | .xferRow f => xferGrads c q d f
      | _ => true)
    | none => false)

/-- A cell command at issue: port and format counts (R165, R166), room in the queues (R151), residual space (R231), then the
queues of the selected cells. In replay a tile command takes its word from the walk
(R415). -/
def placeCmd (s : State) (r0 : CellReq) : State :=
  let q := s.cur
  let c := s.core q
  let r := if c.arch.walking then { r0 with popsFmt := false, pushFmt := none } else r0
  let js := cellsOf r0.cm
  match js.findSome? (countTrap c.arch r) with
  | some t => slotTrap s q t.1 t.2
  | none =>
    if !(c.interlocked) && js.any (fun j => decide (16 ≤ ((s.cell q j).queueOf r.queue).length)) then
      slotTrap s q 9 (timingTval 7 0 r.queue 0 s.pcc)
    else if skippedDiff c q r0.instr js then spanFault s q 11 0
    else if c.arch.walking && (replayBlocked s q js r0.instr).isSome then
      match replayBlocked s q js r0.instr with
      | some (j, x, k, st) => granuleTrap s q j x k st
      | none => s
    else
      match placeAll s q r0 js with
      | (_, some e) => spanFault s q e.1 e.2
      | (t, none) => nextSlot t q

/-- A request without format word, registers or parameter set. -/
def plainReq (i : Instr) (cm : BitVec 4) (queue : Nat) (guard : Pred) (gtrue : Bool) : CellReq :=
  { instr := i, cm := cm, queue := queue, x1 := 0, x2 := 0, x3 := 0, guard := guard, gtrue := gtrue, popsFmt := false,
    pushFmt := none, set := 0 }

end Sys2Proof.Machine
end

