-- ==== Sys2Proof/Machine/Access.lean ====
section
/-! DEFINITION. The instructions of slot B at issue: address spaces, checks and translation, and the global operations they
hand to the core's queue (R345 to R366). -/

namespace Sys2Proof.Machine

/-! ### Address spaces (R345) -/

/-- What an effective address selects. -/
inductive Space where
  | global (va : Nat)
  | ldm (o : Nat)
  | go (ch : Nat)
  | template (t w : Nat)
  | none
  deriving DecidableEq, Repr

/-- The space of an effective address. -/
def spaceOf (ea : Word) : Space :=
  let n := ea.toNat
  if n < 2 ^ 48 then .global n
  else if 0xFFFFF00000000000 ≤ n ∧ n < 0xFFFFF00000000000 + ldmSize then .ldm (n - 0xFFFFF00000000000)
  else if 0xFFFFF10000000000 ≤ n ∧ n < 0xFFFFF10000001000 ∧ n % 256 = 0 then .go ((n - 0xFFFFF10000000000) / 256)
  else if 0xFFFFF10000010000 ≤ n ∧ n < 0xFFFFF10000014000 then
    .template ((n - 0xFFFFF10000010000) / 64) ((n - 0xFFFFF10000010000) % 64 / 8)
  else .none

/-- PROT of kind 6 at an address (R178, R345). -/
def protKind6 (s : State) (q : Nat) (ea : Word) : State := slotTrap s q 5 (kindTval ea.toNat 6 0)

/-- ALIGN at an address (R272). -/
def alignTrap (s : State) (q : Nat) (ea : Word) : State := slotTrap s q 3 (BitVec.ofNat 64 (ea.toNat % 2 ^ 48))

/-- The address space of the task a core runs. -/
def CoreSt.asid (c : CoreSt) : Nat :=
  match c.task with
  | some t => t.asid
  | none => 0

/-- A number that tells one run of a task from every other; it stays with a run that is resumed after a pre-emption. -/
def Task.ident (t : Task) : Nat := t.slot + 2 ^ 12 * (t.run % 2 ^ 20) + 2 ^ 32 * (t.inst % 2 ^ 32) + 2 ^ 64 * t.born

/-- That number for the task a core runs. -/
def CoreSt.ident (c : CoreSt) : Nat :=
  match c.task with
  | some t => t.ident
  | none => 0

/-- Sign- or zero-extension of n bytes to a word. -/
def extendLoad (n : Nat) (signed : Bool) (v : Nat) : Word :=
  if signed then BitVec.ofInt 64 (signedOf8 n v) else BitVec.ofNat 64 (v % 2 ^ (8 * n))
where
  /-- n bytes as a signed number. -/
  signedOf8 (n v : Nat) : Int :=
    let w := v % 2 ^ (8 * n)
    if w < 2 ^ (8 * n - 1) then w else (w : Int) - 2 ^ (8 * n)

/-- A global operation with nothing set but what every kind has. -/
def blankOp (c : CoreSt) (pcc : Nat) (kind : MemKind) (va : Nat) (place : Place) (len : Nat) : MemOp :=
  { tag := c.nextTag % 4096, gen := c.nextTag / 4096 % 16, bid := c.bid, bundle := c.arch.pc, kind := kind, va := va,
    place := place, len := len, data := 0, cmp := 0, fn := 0, flt := false, flush := false, policy := 0, acq := false,
    rel := false, scope := 0, dst := 0, signed := false, issued := pcc, phase := 0, result := 0, pois := false,
    timedOut := false, status := 0 }

/-- The operation joins the core's queue and the slot ends. -/
def pushOp (s : State) (q : Nat) (m : MemOp) : State :=
  nextSlot (s.modCore q fun c => { c with lsq := c.lsq ++ [m], nextTag := c.nextTag + 1 }) q

/-- Translate for a core with the rights an access needs, or raise PAGE or PROT (R178). -/
def withPlace (s : State) (q va need : Nat) (k : State → Place → State) : State :=
  match translate s (.core q) (s.core q).asid va need with
  | (t, .error e) => slotTrap t q (kindCause e.1) (kindTval va e.1 e.2)
  | (t, .ok p) => k t p

/-! ### The block-transfer engine at a go store (R367, R368) -/

/-- A space field of a template: space 0 global, 1 scratchpad, 2 surface, with its other bits zero (R367). DEDUCED, log 36. -/
def tmplSpace (v : BitVec 64) : Nat := nfield v 60 2
def tmplSpaceOk (v : BitVec 64) (dst : Bool) : Bool :=
  match tmplSpace v with
  | 0 => decide (nfield v 48 12 = 0 ∧ nfield v 62 2 = 0)
  | 1 => decide (nfield v 22 36 = 0 ∧ nfield v 62 2 = 0)
  | 2 => !dst && decide (nfield v 58 2 = 0 ∧ nfield v 62 2 = 0)
  | _ => false

/-- Template fields. -/
def tmplSrc (t : BitVec 512) : BitVec 64 := t.extractLsb' 0 64
def tmplDst (t : BitVec 512) : BitVec 64 := t.extractLsb' 64 64
def tmplIdx (t : BitVec 512) : BitVec 64 := t.extractLsb' 128 64
def tmplRowlen (t : BitVec 512) : Nat := nfield t 192 32
def tmplRows (t : BitVec 512) : Nat := nfield t 224 32
def tmplSstride (t : BitVec 512) : Int := (t.extractLsb' 256 32).toInt
def tmplDstride (t : BitVec 512) : Int := (t.extractLsb' 288 32).toInt
def tmplWord (t : BitVec 512) : Word := t.extractLsb' 320 64
def tmplValue (t : BitVec 512) : Word := t.extractLsb' 384 64
def tmplSlot (t : BitVec 512) : Nat := nfield t 448 12
def tmplSlotValid (t : BitVec 512) : Bool := t.getLsbD 463
def tmplKind (t : BitVec 512) : Nat := nfield t 464 2
def tmplPolicy (t : BitVec 512) : Nat := nfield t 466 2

/-- The address part of a space field. -/
def spaceAddr (v : BitVec 64) : Nat := if tmplSpace v = 1 then nfield v 0 22 else nfield v 0 48

/-- The source, destination and index addresses of a command after the offsets of a go store (R368). -/
def goAddrs (t : BitVec 512) (data : Word) : Int × Int × Int :=
  let soff : Int := 32 * (data.extractLsb' 8 28).toInt
  let doff : Int := 32 * (data.extractLsb' 36 28).toInt
  let gather := tmplKind t = 1
  ((spaceAddr (tmplSrc t) : Int) + (if gather then 0 else soff), (spaceAddr (tmplDst t) : Int) + doff,
    (nfield (tmplIdx t) 0 48 : Int) + (if gather then soff else 0))

/-- Every row of a scratchpad side stays inside the 4 MiB (R368). -/
def rowsInside (base stride : Int) (rows rowlen : Nat) : Bool :=
  let last := base + ((rows : Int) - 1) * stride
  decide (0 ≤ base) && decide (base + rowlen ≤ (spmSize : Int)) && decide (0 ≤ last) && decide (last + rowlen ≤ (spmSize : Int))

/-- A global side stays a 48-bit address at its first and last row. -/
def rowsAddressable (base stride : Int) (rows rowlen : Nat) : Bool :=
  let last := base + ((rows : Int) - 1) * stride
  decide (0 ≤ base) && decide (base + rowlen ≤ (2 ^ 48 : Int)) && decide (0 ≤ last) && decide (last + rowlen ≤ (2 ^ 48 : Int))

/-- A captured command is in range, aligned and well formed (R367, R368). -/
def goOk (t : BitVec 512) (data : Word) : Bool :=
  let (src, dst, idx) := goAddrs t data
  let rl := tmplRowlen t
  let rows := tmplRows t
  let gather := decide (tmplKind t = 1)
  decide (tmplKind t < 2) && tmplSpaceOk (tmplSrc t) false && tmplSpaceOk (tmplDst t) true
    && decide (32 ≤ rl ∧ rl ≤ 2 ^ 24 ∧ rl % 32 = 0) && decide (1 ≤ rows ∧ rows ≤ 2 ^ 24)
    && decide (tmplSstride t % 32 = 0) && decide (tmplDstride t % 32 = 0)
    && (decide (tmplWord t = 0) || specOk (tmplWord t)) && decide (nfield (tmplWord t) 0 3 = 0)
    && decide (nfield t 460 3 = 0)
    && decide (nfield t 468 4 = 0) && decide (nfield t 472 40 = 0)
    && (if gather then decide (tmplSpace (tmplSrc t) ≠ 1) && decide (idx % 4 = 0) && decide (nfield (tmplIdx t) 48 16 = 0)
          && decide (0 ≤ idx ∧ idx + 4 * rows ≤ (2 ^ 48 : Int))
        else decide (tmplIdx t = 0) &&
          (if tmplSpace (tmplSrc t) = 1 then rowsInside src (tmplSstride t) rows rl
           else rowsAddressable src (tmplSstride t) rows rl))
    && (if tmplSpace (tmplDst t) = 1 then rowsInside dst (tmplDstride t) rows rl
        else rowsAddressable dst (tmplDstride t) rows rl)

/-- A go store (R368): PRIV for a slot decrement on channels 4 to 15, ALIGN for a command that is not well formed, then the
captured command leaves the core when its bundle commits. -/
def goStore (s : State) (q ch : Nat) (ea data : Word) : State :=
  let die := quadDie q
  let t := sget 0 (s.die die).templates (data.toNat % 256)
  if tmplSlotValid t && decide (4 ≤ ch) then slotTrap s q 2 (BitVec.ofNat 64 (ea.toNat % 2 ^ 48))
  else if goOk t data = false then alignTrap s q ea
  else nextSlot (s.modCore q fun c => { c with actions := c.actions ++ [(c.bid, .go die ch q data c.asid t)] }) q

/-! ### Loads and stores -/

/-- The size of an access, whether it extends its sign. -/
structure Width where
  n : Nat
  signed : Bool
  deriving DecidableEq, Repr

/-- The effective address of a plain form (R347). -/
def plainEa (a : Arch) (f : SI) (n : Nat) : Word :=
  a.rx f.a.toNat + BitVec.ofInt 64 ((n : Int) * (f.imm.extractLsb' 2 12).toInt)

/-- A global load (R349): translation with right R, then the operation. -/
def globalLoad (s : State) (q va : Nat) (w : Width) (d policy scope : Nat) (acq : Bool) : State :=
  withPlace s q va 1 fun t p =>
    let c := t.core q
    pushOp t q { blankOp c t.pcc .load va p w.n with dst := d, signed := w.signed, policy := policy, acq := acq, scope := scope }

/-- A global store (R349): translation with right W, then the operation. -/
def globalStore (s : State) (q va n : Nat) (v : Word) (policy scope : Nat) (rel : Bool) : State :=
  withPlace s q va 2 fun t p =>
    let c := t.core q
    pushOp t q { blankOp c t.pcc .store va p n with data := v, policy := policy, rel := rel, scope := scope }

/-- A plain load (R345 to R347). -/
def plainLoad (i : Instr) (f : SI) (w : Width) (s : State) : State :=
  issueSlot s i false (liveGuard s i) fun t =>
    let q := s.cur
    let c := t.core q
    let ea := plainEa c.arch f w.n
    let bad := ea.toNat % w.n ≠ 0
    match spaceOf ea with
    | .global va => if bad then alignTrap t q ea else globalLoad t q va w f.d.toNat (f.imm.toNat % 4) 0 false
    | .ldm o =>
      if bad then alignTrap t q ea
      else nextSlot (writeX t q 4 f.d.toNat (extendLoad w.n w.signed (natOfBytes (c.arch.ldmBytes o w.n)))) q
    | .template k n =>
      if w.n ≠ 8 then protKind6 t q ea
      else if bad then alignTrap t q ea
      else
        let v := (sget 0 (t.die (quadDie q)).templates k).extractLsb' (64 * n) 64
        pushOp t q { blankOp c t.pcc .tmpl 0 { pa := 0, key := 0, home := 0, soft := false } 8 with
          dst := f.d.toNat, phase := 2, result := v }
    | .go _ | .none => protKind6 t q ea

/-- A plain store (R345 to R347). -/
def plainStore (i : Instr) (f : SI) (n : Nat) (s : State) : State :=
  issueSlot s i false (liveGuard s i) fun t =>
    let q := s.cur
    let c := t.core q
    let ea := plainEa c.arch f n
    let v := c.arch.rx f.d.toNat
    let bad := ea.toNat % n ≠ 0
    match spaceOf ea with
    | .global va => if bad then alignTrap t q ea else globalStore t q va n v (f.imm.toNat % 4) 0 false
    | .ldm o =>
      if bad then alignTrap t q ea else nextSlot (writeLater t q 1 (.ldm o n) (wide v)) q
    | .template k w =>
      if n ≠ 8 then protKind6 t q ea
      else if bad then alignTrap t q ea
      else nextSlot (writeLater t q 1 (.template k w) (wide v)) q
    | .go ch => if n ≠ 8 then protKind6 t q ea else goStore t q ch ea v
    | .none => protKind6 t q ea

/-- An acquire load (R348): a policy of 10 or 11 or a scope of 11 raises ILL; a window raises PROT. -/
def acqLoad (i : Instr) (f : SR) (w : Width) (s : State) : State :=
  issueSlot s i (decide (2 ≤ nfield f.fn 0 2) || nfield f.fn 2 2 == 3) (liveGuard s i) fun t =>
    let q := s.cur
    let c := t.core q
    let ea := c.arch.rx f.a.toNat + c.arch.rx f.b.toNat
    match spaceOf ea with
    | .global va =>
      if ea.toNat % w.n ≠ 0 then alignTrap t q ea
      else globalLoad t q va w f.d.toNat (nfield f.fn 0 2) (nfield f.fn 2 2) true
    | _ => protKind6 t q ea

/-- A release store (R348). -/
def relStore (i : Instr) (f : SR) (n : Nat) (s : State) : State :=
  issueSlot s i (decide (2 ≤ nfield f.fn 0 2) || nfield f.fn 2 2 == 3) (liveGuard s i) fun t =>
    let q := s.cur
    let c := t.core q
    let ea := c.arch.rx f.a.toNat + c.arch.rx f.b.toNat
    match spaceOf ea with
    | .global va =>
      if ea.toNat % n ≠ 0 then alignTrap t q ea
      else globalStore t q va n (c.arch.rx f.d.toNat) (nfield f.fn 0 2) (nfield f.fn 2 2) true
    | _ => protKind6 t q ea

/-! ### Atomics (R354 to R358) -/

/-- A function code of R354. -/
def atomCode (fn : Nat) : Bool := decide (fn ≤ 6) || decide (8 ≤ fn ∧ fn ≤ 10)

/-- The afn and the float bit of a function code (R71, R354). -/
def atomAfn (fn : Nat) : Nat × Bool := if 8 ≤ fn then (fn - 8, true) else (fn, false)

/-- An atomic at x(a): PROT kind 6, ALIGN, then translation with rights R and W (W alone for RED). -/
def atomOp (i : Instr) (ill : Bool) (f : SR) (need : Nat) (mk : CoreSt → MemOp → MemOp) (kind : MemKind) (s : State) : State :=
  issueSlot s i ill (liveGuard s i) fun t =>
    let q := s.cur
    let ea := (t.core q).arch.rx f.a.toNat
    match spaceOf ea with
    | .global va =>
      if va % 4 ≠ 0 then alignTrap t q ea
      else withPlace t q va need fun u p =>
        let c := u.core q
        pushOp u q (mk c (blankOp c u.pcc kind va p 4))
    | _ => protKind6 t q ea

/-- The ordering and scope fields of AMO and CAS on an operation (R355). -/
def orderAtom (f : SR) (m : MemOp) : MemOp :=
  { m with acq := f.fn.getLsbD 4, rel := f.fn.getLsbD 5, scope := nfield f.fn 6 2, dst := f.d.toNat }

/-- R354, R355, R358. -/
def execAmo (f : SR) (s : State) : Host.Outcome State Fault Refusal :=
  let fn := nfield f.fn 0 4
  .next (atomOp (.amo f) (!(atomCode fn) || nfield f.fn 6 2 == 3) f 3 (fun c m =>
    { orderAtom f m with data := c.arch.rx f.b.toNat, fn := (atomAfn fn).1, flt := (atomAfn fn).2, signed := !(atomAfn fn).2 })
    .atom s)

/-- R356: a compare and swap; the compare value is x(d)[31:0]. -/
def execCas (f : SR) (s : State) : Host.Outcome State Fault Refusal :=
  .next (atomOp (.cas f) (nfield f.fn 6 2 == 3) f 3 (fun c m =>
    { orderAtom f m with data := c.arch.rx f.b.toNat, cmp := (c.arch.rx f.d.toNat).setWidth 32, fn := 7 }) .atom s)

/-- R357: a return-free reduction. -/
def execRed (f : SR) (s : State) : Host.Outcome State Fault Refusal :=
  let fn := nfield f.fn 0 4
  .next (atomOp (.red f) (!(atomCode fn) || fn == 6) f 2 (fun c m =>
    { m with data := c.arch.rx f.b.toNat, fn := (atomAfn fn).1, flt := (atomAfn fn).2, flush := f.fn.getLsbD 4 }) .red s)

/-! ### Fences and waits (R359 to R363) -/

/-- A fence: the next bundle waits for it, and its bundle commits when it completes; scope 11 raises ILL. -/
def fenceOp (i : Instr) (kind : Nat) (f : SR) (s : State) : State :=
  issueSlot s i (nfield f.fn 4 2 == 3) (liveGuard s i) fun t =>
    nextSlot (t.modCore s.cur fun c => { c with sync := some (.fence kind (nfield f.fn 4 2) c.bid) }) s.cur

/-- R361, R363: the word spec, its alignment and the translation of a global word, then the wait. -/
def execWaita (f : SR) (s : State) : Host.Outcome State Fault Refusal :=
  let i : Instr := .waita f
  .next (issueSlot s i (decide (5 ≤ nfield f.fn 0 3) || nfield f.fn 4 2 == 3) (liveGuard s i) fun t =>
    let q := s.cur
    let c := t.core q
    let spec := c.arch.rx f.a.toNat
    let n := if f.fn.getLsbD 3 then 4 else 8
    let wait (p : Place) : Waita :=
      { bid := c.bid, bundle := c.arch.pc, spec := spec, place := p, cmp := c.arch.rx f.b.toNat,
        cond := nfield f.fn 0 3, wide := n == 8, scope := nfield f.fn 4 2, dst := f.d.toNat,
        tout := (c.arch.rx f.d.toNat).toNat % 2 ^ 32, issued := t.pcc, nextRead := t.pcc, lost := none }
    let start (u : State) (p : Place) : State := nextSlot (u.modCore q fun c => { c with waita := some (wait p) }) q
    if specOk spec = false then protKind6 t q spec
    else if nfield spec 0 22 % n ≠ 0 then alignTrap t q spec
    else if specLocal spec then start t { pa := 0, key := 0, home := 0, soft := false }
    else withPlace t q (nfield spec 0 48) 1 start)

/-! ### Range operations (R364 to R366) -/

/-- Every page of a range has right W, pages that do not translate apart: the first page that lacks it (R364). -/
def pagesLackW (s : State) (q asid : Nat) : Nat → Nat → Nat → State × Option Nat
  | 0, _, _ => (s, none)
  | n + 1, va, last =>
    if last < va then (s, none)
    else
      match translate s (.core q) asid va 2 with
      | (t, .error e) => if e.1 = 5 then (t, some va) else pagesLackW t q asid n (va / 4096 * 4096 + 4096) last
      | (t, .ok _) => pagesLackW t q asid n (va / 4096 * 4096 + 4096) last

/-- The bytes of a run that lie in 128-byte line n, as a mask. -/
def lineMask (n pa len : Nat) : BitVec 128 :=
  BitVec.ofNat 128 (((List.range 128).filter fun i => decide (pa ≤ 128 * n + i ∧ 128 * n + i < pa + len)).foldl (fun m i => m + 2 ^ i) 0)

/-- What a range operation finds dirty in a cache at its issue: the dirty bytes of its lines, and, in the control die's, what the core's
older stores are still to write (R365). -/
def dirtyAt (s : State) (die : Nat) (c : CoreSt) : List (Nat × BitVec 128) :=
  (((s.die die).rdc.filter fun l => l.2.dirty != 0).map fun l => (l.1, l.2.dirty)) ++
    (if die = 0 then (c.lsq.filter fun m => m.kind == .store && m.phase == 0).map fun m =>
      (m.place.pa / 128, lineMask (m.place.pa / 128) m.place.pa m.len) else [])

/-- A range operation of a kind (0 CWB, 1 CINV, 2 CWBI) on the control die's or the matrix die's RDC (R364, R365). -/
def rangeOp (i : Instr) (kind : Nat) (f : SR) (s : State) : State :=
  issueSlot s i false (liveGuard s i) fun t =>
    let q := s.cur
    let c := t.core q
    let va := (c.arch.rx f.a.toNat).toNat
    let len := (c.arch.rx f.b.toNat).toNat
    let die := if f.fn.getLsbD 0 then quadDie q else 0
    let act (u : State) : State := nextSlot (u.modCore q fun c =>
        { c with actions := c.actions ++ [(c.bid, .rangeOp die kind va len c.asid u.pcc (dirtyAt u die c))] }) q
    if 2 ^ 48 ≤ va then protKind6 t q (c.arch.rx f.a.toNat)
    else if 2 ^ 36 < len then alignTrap t q (c.arch.rx f.a.toNat)
    else if len = 0 then nextSlot t q
    else if kind = 0 then act t
    else
      match pagesLackW t q c.asid (len / 4096 + 2) va (va + len - 1) with
      | (u, some bad) => slotTrap u q 5 (kindTval bad 5 0)
      | (u, none) => act u

/-- R366: the length, the token spec and the token's page are checked; the prefetch leaves when its bundle commits. -/
def execPfr (f : SR) (s : State) : Host.Outcome State Fault Refusal :=
  let i : Instr := .pfr f
  .next (issueSlot s i false (liveGuard s i) fun t =>
    let q := s.cur
    let c := t.core q
    let va := (c.arch.rx f.a.toNat).toNat
    let len := (c.arch.rx f.b.toNat).toNat
    let spec := c.arch.rx f.d.toNat
    let act (u : State) (p : Place) : State := nextSlot (u.modCore q fun c =>
        { c with actions := c.actions ++ [(c.bid, .pfr 0 q va len spec f.fn.toNat p c.asid)] }) q
    if 2 ^ 48 ≤ va then protKind6 t q (c.arch.rx f.a.toNat)
    else if 2 ^ 30 < len then alignTrap t q (c.arch.rx f.a.toNat)
    else if specOk spec = false then protKind6 t q spec
    else if nfield spec 0 22 % 8 ≠ 0 then alignTrap t q spec
    else if spec = 0 ∨ specLocal spec then act t { pa := 0, key := 0, home := 0, soft := false }
    else withPlace t q (nfield spec 0 48) 2 act)

/-! ### Meanings -/

/-- R347. -/
def execLdb (f : SI) (s : State) : Host.Outcome State Fault Refusal := .next (plainLoad (.ldb f) f { n := 1, signed := true } s)

/-- R348. -/
def execLdbAcq (f : SR) (s : State) : Host.Outcome State Fault Refusal := .next (acqLoad (.ldbAcq f) f { n := 1, signed := true } s)

/-- R347. -/
def execLdbn (f : SI) (s : State) : Host.Outcome State Fault Refusal := .next (plainLoad (.ldbn f) f { n := 1, signed := false } s)

/-- R348. -/
def execLdbnAcq (f : SR) (s : State) : Host.Outcome State Fault Refusal := .next (acqLoad (.ldbnAcq f) f { n := 1, signed := false } s)

/-- R347. -/
def execLdh (f : SI) (s : State) : Host.Outcome State Fault Refusal := .next (plainLoad (.ldh f) f { n := 2, signed := true } s)

/-- R348. -/
def execLdhAcq (f : SR) (s : State) : Host.Outcome State Fault Refusal := .next (acqLoad (.ldhAcq f) f { n := 2, signed := true } s)

/-- R347. -/
def execLdhn (f : SI) (s : State) : Host.Outcome State Fault Refusal := .next (plainLoad (.ldhn f) f { n := 2, signed := false } s)

/-- R348. -/
def execLdhnAcq (f : SR) (s : State) : Host.Outcome State Fault Refusal := .next (acqLoad (.ldhnAcq f) f { n := 2, signed := false } s)

/-- R347. -/
def execLdw (f : SI) (s : State) : Host.Outcome State Fault Refusal := .next (plainLoad (.ldw f) f { n := 4, signed := true } s)

/-- R348. -/
def execLdwAcq (f : SR) (s : State) : Host.Outcome State Fault Refusal := .next (acqLoad (.ldwAcq f) f { n := 4, signed := true } s)

/-- R347. -/
def execLdwn (f : SI) (s : State) : Host.Outcome State Fault Refusal := .next (plainLoad (.ldwn f) f { n := 4, signed := false } s)

/-- R348. -/
def execLdwnAcq (f : SR) (s : State) : Host.Outcome State Fault Refusal := .next (acqLoad (.ldwnAcq f) f { n := 4, signed := false } s)

/-- R347. -/
def execLdd (f : SI) (s : State) : Host.Outcome State Fault Refusal := .next (plainLoad (.ldd f) f { n := 8, signed := false } s)

/-- R348. -/
def execLddAcq (f : SR) (s : State) : Host.Outcome State Fault Refusal := .next (acqLoad (.lddAcq f) f { n := 8, signed := false } s)

/-- R347. -/
def execStb (f : SI) (s : State) : Host.Outcome State Fault Refusal := .next (plainStore (.stb f) f 1 s)

/-- R348. -/
def execStbRel (f : SR) (s : State) : Host.Outcome State Fault Refusal := .next (relStore (.stbRel f) f 1 s)

/-- R347. -/
def execSth (f : SI) (s : State) : Host.Outcome State Fault Refusal := .next (plainStore (.sth f) f 2 s)

/-- R348. -/
def execSthRel (f : SR) (s : State) : Host.Outcome State Fault Refusal := .next (relStore (.sthRel f) f 2 s)

/-- R347. -/
def execStw (f : SI) (s : State) : Host.Outcome State Fault Refusal := .next (plainStore (.stw f) f 4 s)

/-- R348. -/
def execStwRel (f : SR) (s : State) : Host.Outcome State Fault Refusal := .next (relStore (.stwRel f) f 4 s)

/-- R347, R368. -/
def execStd (f : SI) (s : State) : Host.Outcome State Fault Refusal := .next (plainStore (.std f) f 8 s)

/-- R348. -/
def execStdRel (f : SR) (s : State) : Host.Outcome State Fault Refusal := .next (relStore (.stdRel f) f 8 s)

/-- R359, R360. -/
def execFenceAcq (f : SR) (s : State) : Host.Outcome State Fault Refusal := .next (fenceOp (.fenceAcq f) 0 f s)

/-- R359, R360. -/
def execFenceRel (f : SR) (s : State) : Host.Outcome State Fault Refusal := .next (fenceOp (.fenceRel f) 1 f s)

/-- R359, R360. -/
def execFenceFull (f : SR) (s : State) : Host.Outcome State Fault Refusal := .next (fenceOp (.fenceFull f) 2 f s)

/-- R359, R360. -/
def execFenceRed (f : SR) (s : State) : Host.Outcome State Fault Refusal := .next (fenceOp (.fenceRed f) 3 f s)

/-- R359, R360. -/
def execFenceEng (f : SR) (s : State) : Host.Outcome State Fault Refusal := .next (fenceOp (.fenceEng f) 4 f s)

/-- R364, R365. -/
def execCwb (f : SR) (s : State) : Host.Outcome State Fault Refusal := .next (rangeOp (.cwb f) 0 f s)

/-- R364, R365. -/
def execCinv (f : SR) (s : State) : Host.Outcome State Fault Refusal := .next (rangeOp (.cinv f) 1 f s)

/-- R364, R365. -/
def execCwbi (f : SR) (s : State) : Host.Outcome State Fault Refusal := .next (rangeOp (.cwbi f) 2 f s)

end Sys2Proof.Machine
end

