-- ==== Sys2Proof/Machine/Flags.lean ====
section
/-! DEFINITION. Number formats, rounding, and the flags that arithmetic leaves: the accumulator status bits and the truth of
comparisons. Exact values are rationals (R212); a code is a natural number of the format's width. -/

namespace Sys2Proof.Machine

/-! ### Floating formats (R201) -/

/-- A floating format: exponent and fraction widths, bias, whether it has infinities, whether all-ones with a full fraction is
its only NaN (e4m3). -/
structure Fmt where
  ew : Nat
  mw : Nat
  bias : Nat
  hasInf : Bool
  fp8n : Bool
  deriving DecidableEq, Repr

def Fmt.f32 : Fmt := { ew := 8, mw := 23, bias := 127, hasInf := true, fp8n := false }
def Fmt.bf16 : Fmt := { ew := 8, mw := 7, bias := 127, hasInf := true, fp8n := false }
def Fmt.f16 : Fmt := { ew := 5, mw := 10, bias := 15, hasInf := true, fp8n := false }
def Fmt.e5m2 : Fmt := { ew := 5, mw := 2, bias := 15, hasInf := true, fp8n := false }
def Fmt.e4m3 : Fmt := { ew := 4, mw := 3, bias := 7, hasInf := false, fp8n := true }
def Fmt.e2m1 : Fmt := { ew := 2, mw := 1, bias := 1, hasInf := false, fp8n := false }

/-- The floating format of an element type (R200). -/
def tyFmt (ty : Nat) : Fmt :=
  match ty with
  | 0 => .f32
  | 1 => .bf16
  | 2 => .f16
  | 3 => .e4m3
  | _ => .e5m2

/-- Width of a code. -/
def Fmt.width (f : Fmt) : Nat := 1 + f.ew + f.mw

/-- The magnitude index of the largest finite code. -/
def Fmt.maxIdx (f : Fmt) : Nat :=
  if f.fp8n then 2 ^ (f.ew + f.mw) - 2
  else if f.hasInf then (2 ^ f.ew - 1) * 2 ^ f.mw - 1
  else 2 ^ (f.ew + f.mw) - 1

/-- A code from its sign and magnitude index. -/
def Fmt.code (f : Fmt) (neg : Bool) (idx : Nat) : Nat := (if neg then 2 ^ (f.ew + f.mw) else 0) + idx

/-- The canonical NaN (R201). -/
def Fmt.canonNaN (f : Fmt) : Nat :=
  if f.fp8n then 2 ^ (f.ew + f.mw) - 1 else (2 ^ f.ew - 1) * 2 ^ f.mw + 2 ^ (f.mw - 1)

/-- The code of an infinity. -/
def Fmt.inf (f : Fmt) (neg : Bool) : Nat := f.code neg ((2 ^ f.ew - 1) * 2 ^ f.mw)

/-- A decoded value: a NaN with its sign and fraction (fraction width in mw), an infinity, or a signed magnitude. -/
inductive FVal where
  | nan (neg : Bool) (frac mw : Nat)
  | inf (neg : Bool)
  | fin (neg : Bool) (mag : Rat)
  deriving DecidableEq, Repr

/-- Two to an integer power. -/
def pow2 (e : Int) : Rat := if 0 ≤ e then ((2 ^ e.toNat : Nat) : Rat) else mkRat 1 (2 ^ (-e).toNat)

/-- The value of a magnitude index, the codes past the largest finite one included (R209). -/
def Fmt.idxValue (f : Fmt) (idx : Nat) : Rat :=
  let E := idx / 2 ^ f.mw
  let F := idx % 2 ^ f.mw
  if E = 0 then (F : Rat) * pow2 (1 - f.bias - f.mw)
  else ((2 ^ f.mw + F : Nat) : Rat) * pow2 (E - f.bias - f.mw)

/-- The value of a code (R201). -/
def Fmt.decode (f : Fmt) (c : Nat) : FVal :=
  let neg := decide (c / 2 ^ (f.ew + f.mw) % 2 = 1)
  let idx := c % 2 ^ (f.ew + f.mw)
  let E := idx / 2 ^ f.mw
  let F := idx % 2 ^ f.mw
  if f.hasInf && decide (E = 2 ^ f.ew - 1) then if F = 0 then .inf neg else .nan neg F f.mw
  else if f.fp8n && decide (idx = 2 ^ (f.ew + f.mw) - 1) then .nan neg F f.mw
  else .fin neg (f.idxValue idx)

/-- A NaN made quiet in a format: the sign and the top fraction bits that fit, the quiet bit set (R202). -/
def Fmt.quiet (f : Fmt) (neg : Bool) (frac mw : Nat) : Nat :=
  if f.fp8n then f.code neg (2 ^ (f.ew + f.mw) - 1)
  else
    let fr := if mw ≤ f.mw then frac * 2 ^ (f.mw - mw) else frac / 2 ^ (mw - f.mw)
    f.code neg ((2 ^ f.ew - 1) * 2 ^ f.mw + (fr % 2 ^ (f.mw - 1) + 2 ^ (f.mw - 1)))

def FVal.isNaN : FVal → Bool
  | .nan _ _ _ => true
  | _ => false

/-! ### Rounding (R208 to R211) -/

/-- The rounding modes. -/
inductive RMode where
  | rne | rtz | rdn | rup | rna | sto
  deriving DecidableEq, Repr

/-- The mode of an rm field; 6 and 7 never reach here (R208). -/
def rmode (rm : Nat) : RMode :=
  match rm with
  | 0 => .rne
  | 1 => .rtz
  | 2 => .rdn
  | 3 => .rup
  | 4 => .rna
  | _ => .sto

/-- Whether rounding takes the code of larger magnitude: r is the distance from the lower code as a fraction of the gap, odd
the parity of the lower code, u the draw (R209, R211). -/
def roundsUp (m : RMode) (neg odd : Bool) (r : Rat) (u : Nat) : Bool :=
  match m with
  | .rne => decide (1 / 2 < r) || (decide (r = 1 / 2) && odd)
  | .rna => decide (1 / 2 ≤ r)
  | .rtz => false
  | .rdn => neg && decide (r ≠ 0)
  | .rup => !neg && decide (r ≠ 0)
  | .sto => decide (u < (r * 65536).floor.toNat)

/-- The floor of the base-2 logarithm of a positive rational. -/
def ratLog2 (x : Rat) : Int :=
  let e := (Nat.log2 x.num.toNat : Int) - Nat.log2 x.den
  if x < pow2 e then e - 1 else e

/-- The magnitude index a positive value rounds to, exponent range unbounded (R209 step 1). -/
def Fmt.roundIdx (f : Fmt) (m : RMode) (neg : Bool) (x : Rat) (u : Nat) : Nat :=
  if x ≤ 0 then 0
  else
    let E := max (ratLog2 x + f.bias) 1
    let scaled := x / pow2 (E - f.bias - f.mw)
    let n := scaled.floor.toNat
    let idx := (E.toNat - 1) * 2 ^ f.mw + n
    if roundsUp m neg (decide (idx % 2 = 1)) (scaled - n) u then idx + 1 else idx

/-- The code of an overflowed result of a floating format (R210). -/
def Fmt.overflow (f : Fmt) (m : RMode) (neg sat : Bool) : Nat :=
  let big := f.code neg f.maxIdx
  let out := if f.fp8n then f.code neg (2 ^ (f.ew + f.mw) - 1) else f.inf neg
  if sat || (!f.hasInf && !f.fp8n) then big
  else
    match m with
    | .rne | .rna | .sto => out
    | .rtz => big
    | .rdn => if neg then out else big
    | .rup => if neg then big else out

/-- A signed exact value rounded into a format: the code, and whether the rounding overflowed (R209, R210). -/
def Fmt.round (f : Fmt) (m : RMode) (sat neg : Bool) (mag : Rat) (u : Nat) : Nat × Bool :=
  let idx := f.roundIdx m neg mag u
  if f.maxIdx < idx then (f.overflow m neg sat, true) else (f.code neg idx, false)

/-- An infinite value in a format (R210). -/
def Fmt.ofInf (f : Fmt) (neg sat : Bool) : Nat :=
  if f.hasInf then f.inf neg
  else if f.fp8n then if sat then f.code neg f.maxIdx else f.code neg (2 ^ (f.ew + f.mw) - 1)
  else f.code neg f.maxIdx

/-- A decoded value put into a format (R213): code and overflow. -/
def Fmt.ofVal (f : Fmt) (m : RMode) (sat : Bool) (v : FVal) (u : Nat) : Nat × Bool :=
  match v with
  | .nan neg fr mw => (f.quiet neg fr mw, false)
  | .inf neg => (f.ofInf neg sat, false)
  | .fin neg mag => f.round m sat neg mag u

/-! ### Exact sums and products (R212) -/

/-- A finite value with its sign applied. -/
def sgnRat (neg : Bool) (mag : Rat) : Rat := if neg then -mag else mag

/-- The product of two decoded values; NaN operands are the caller's. -/
def FVal.mul (a b : FVal) : FVal :=
  match a, b with
  | .fin na x, .fin nb y => .fin (na != nb) (x * y)
  | .inf na, .inf nb => .inf (na != nb)
  | .inf na, .fin nb y => if y = 0 then .nan false (2 ^ 22) 23 else .inf (na != nb)
  | .fin na x, .inf nb => if x = 0 then .nan false (2 ^ 22) 23 else .inf (na != nb)
  | _, _ => .nan false (2 ^ 22) 23

/-- The sum of decoded values that are not NaN: mixed infinities are invalid; a zero sum is -0 when every term is -0 or the mode
is rdn. -/
def FVal.sum (m : RMode) (ts : List FVal) : FVal :=
  if ts.any FVal.isNaN then .nan false (2 ^ 22) 23
  else
    let pos := ts.any fun t => t == .inf false
    let neg := ts.any fun t => t == .inf true
    if pos && neg then .nan false (2 ^ 22) 23
    else if pos then .inf false
    else if neg then .inf true
    else
      let total := ts.foldl (fun acc t => match t with | .fin n x => acc + sgnRat n x | _ => acc) (0 : Rat)
      if total = 0 then
        .fin (ts.all (fun t => t == .fin true 0) || decide (m = .rdn)) 0
      else .fin (decide (total < 0)) (if total < 0 then -total else total)

/-- The first NaN among operands in order (R202). -/
def firstNaN : List FVal → Option FVal
  | [] => none
  | v :: r => if v.isNaN then some v else firstNaN r

/-- An operation on decoded operands in a format: the first NaN operand made quiet, else the result rounded once; an invalid
operation gives the canonical NaN. -/
def Fmt.result (f : Fmt) (m : RMode) (u : Nat) (ops : List FVal) (r : FVal) : Nat :=
  match firstNaN ops with
  | some v => (f.ofVal m false v u).1
  | none => if r.isNaN then f.canonNaN else (f.ofVal m false r u).1

/-- The sign of a value inverted. -/
def FVal.neg : FVal → FVal
  | .nan n a b => .nan n a b
  | .inf n => .inf (!n)
  | .fin n x => .fin (!n) x

def Fmt.add (f : Fmt) (m : RMode) (u a b : Nat) : Nat :=
  let x := f.decode a
  let y := f.decode b
  f.result m u [x, y] (FVal.sum m [x, y])

def Fmt.sub (f : Fmt) (m : RMode) (u a b : Nat) : Nat :=
  let x := f.decode a
  let y := f.decode b
  f.result m u [x, y] (FVal.sum m [x, y.neg])

def Fmt.mul (f : Fmt) (m : RMode) (u a b : Nat) : Nat :=
  let x := f.decode a
  let y := f.decode b
  f.result m u [x, y] (x.mul y)

/-- a × b + c rounded once, NaN operand order a, b, c (R326, R377). -/
def Fmt.fma (f : Fmt) (m : RMode) (u a b c : Nat) (negProd : Bool) : Nat :=
  let x := f.decode a
  let y := f.decode b
  let z := f.decode c
  let p := x.mul y
  f.result m u [x, y, z] (FVal.sum m [if negProd then p.neg else p, z])

/-- a / b (R326). -/
def Fmt.div (f : Fmt) (m : RMode) (u a b : Nat) : Nat :=
  let x := f.decode a
  let y := f.decode b
  let r := match x, y with
    | .fin na p, .fin nb q =>
      if q = 0 then if p = 0 then FVal.nan false (2 ^ 22) 23 else .inf (na != nb) else .fin (na != nb) (p / q)
    | .fin na _, .inf nb => .fin (na != nb) 0
    | .inf na, .fin nb _ => .inf (na != nb)
    | _, _ => .nan false (2 ^ 22) 23
  f.result m u [x, y] r

/-- The integer square root of n, from bit k down. -/
def isqrtFrom (n : Nat) : Nat → Nat → Nat
  | 0, r => r
  | k + 1, r => if (r + 2 ^ k) * (r + 2 ^ k) ≤ n then isqrtFrom n k (r + 2 ^ k) else isqrtFrom n k r

/-- The integer square root. -/
def isqrt (n : Nat) : Nat := isqrtFrom n (Nat.log2 n / 2 + 1) 0

/-- The square root of a positive rational to a relative error below 2^-80, strictly between grid points where it is not
exact, so that it rounds as the exact root does. -/
def sqrtMag (x : Rat) : Rat :=
  let e := ratLog2 x
  let k : Int := 90 - e / 2
  let y := x * pow2 (2 * k)
  let n := y.floor.toNat
  let r := isqrt n
  if (r * r : Nat) = y then (r : Rat) * pow2 (-k) else ((2 * r + 1 : Nat) : Rat) * pow2 (-k - 1)

/-- The square root (R326). -/
def Fmt.sqrt (f : Fmt) (m : RMode) (u a : Nat) : Nat :=
  let x := f.decode a
  let r := match x with
    | .fin neg p => if p = 0 then FVal.fin neg 0 else if neg then .nan false (2 ^ 22) 23 else .fin false (sqrtMag p)
    | .inf false => .inf false
    | _ => .nan false (2 ^ 22) 23
  f.result m u [x] r

/-! ### Order, minimum and maximum (R84, R327) -/

/-- Numeric order of decoded values that are not NaN, −0 equal to +0. -/
def FVal.lt (a b : FVal) : Bool :=
  match a, b with
  | .fin na x, .fin nb y => decide (sgnRat na x < sgnRat nb y)
  | .inf na, .inf nb => na && !nb
  | .inf na, .fin _ _ => na
  | .fin _ _, .inf nb => !nb
  | _, _ => false

/-- Numeric equality of decoded values that are not NaN. -/
def FVal.eqv (a b : FVal) : Bool :=
  match a, b with
  | .fin na x, .fin nb y => decide (sgnRat na x = sgnRat nb y)
  | .inf na, .inf nb => na == nb
  | _, _ => false

/-- −0 below +0: the order of minimum and maximum. -/
def FVal.before (a b : FVal) : Bool :=
  a.lt b || (a.eqv b && (match a, b with | .fin na _, .fin nb _ => na && !nb | _, _ => false))

/-- f32_min and f32_max of R84 in a format, no rounding. -/
def Fmt.minMax (f : Fmt) (wantMax : Bool) (a b : Nat) : Nat :=
  let x := f.decode a
  let y := f.decode b
  if x.isNaN && y.isNaN then f.canonNaN
  else if x.isNaN then b
  else if y.isNaN then a
  else if (if wantMax then y.before x else x.before y) || x == y then a else b

/-- The conditions of FCMP by their code (R327). -/
def Fmt.cmp (f : Fmt) (cond : Nat) (a b : Nat) : Bool :=
  let x := f.decode a
  let y := f.decode b
  let un := x.isNaN || y.isNaN
  match cond with
  | 0 => !un && x.eqv y
  | 1 => un || !(x.eqv y)
  | 2 => !un && x.lt y
  | 3 => !un && (x.lt y || x.eqv y)
  | 4 => !un && y.lt x
  | 5 => !un && (y.lt x || x.eqv y)
  | 6 => un
  | _ => !un

/-- The conditions of integer comparisons on codes of width w (R322). -/
def intCond (w cond a b : Nat) : Bool :=
  let sa : Int := if a < 2 ^ (w - 1) then a else (a : Int) - 2 ^ w
  let sb : Int := if b < 2 ^ (w - 1) then b else (b : Int) - 2 ^ w
  match cond with
  | 0 => a == b
  | 1 => a != b
  | 2 => decide (sa < sb)
  | 3 => decide (sa ≤ sb)
  | 4 => decide (sb < sa)
  | 5 => decide (sb ≤ sa)
  | 6 => decide (a < b)
  | 7 => decide (a ≤ b)
  | 8 => decide (b < a)
  | _ => decide (b ≤ a)

/-! ### Integers (R204, R213) -/

/-- A code of width w as a signed integer. -/
def signedOf (w a : Nat) : Int := if a < 2 ^ (w - 1) then a else (a : Int) - 2 ^ w

/-- An integer as a code of width w, modulo 2^w. -/
def codeOf (w : Nat) (v : Int) : Nat := (v % 2 ^ w).toNat

/-- The least and greatest value of an integer type of width w. -/
def intRange (w : Nat) (natural : Bool) : Int × Int :=
  if natural then (0, 2 ^ w - 1) else (-(2 ^ (w - 1) : Int), 2 ^ (w - 1) - 1)

/-- A value clamped into a range. -/
def clampInt (lo hi v : Int) : Int := if v < lo then lo else if hi < v then hi else v

/-- An exact signed value rounded to an integer in a mode (R209 on the integers). -/
def roundInt (m : RMode) (neg : Bool) (mag : Rat) (u : Nat) : Int :=
  let n := mag.floor.toNat
  let up := roundsUp m neg (decide (n % 2 = 1)) (mag - n) u
  let r : Int := if up then n + 1 else n
  if neg then -r else r

/-- A decoded value converted to an integer type: NaN gives 0, everything clamps; the flag tells of a clamp (R213). -/
def toIntCode (w : Nat) (natural : Bool) (m : RMode) (v : FVal) (u : Nat) : Nat × Bool :=
  let (lo, hi) := intRange w natural
  match v with
  | .nan _ _ _ => (0, false)
  | .inf neg => (codeOf w (if neg then lo else hi), true)
  | .fin neg mag =>
    let r := roundInt m neg mag u
    (codeOf w (clampInt lo hi r), decide (r < lo ∨ hi < r))

/-- An integer as a decoded value. -/
def ofIntVal (v : Int) : FVal := .fin (decide (v < 0)) (v.natAbs : Rat)

/-! ### Block formats (R205, R206, R214) -/

/-- Magnitudes of the sign-and-magnitude FX4 types, scaled by 8 (R206). -/
def fx4Mags (t : Nat) : List Nat :=
  match t with
  | 1 => [0, 4, 8, 12, 16, 24, 32, 48]
  | 2 => [0, 1, 2, 4, 8, 16, 32, 64]
  | _ => [0, 8, 16, 24, 32, 48, 64, 96]

/-- The value of a 4-bit code of an FX4 type without its scale (R206). -/
def fx4Code (t c : Nat) : FVal :=
  if t = 0 then ofIntVal (signedOf 4 c)
  else .fin (decide (8 ≤ c)) (mkRat (((fx4Mags t)[c % 8]?).getD 0 : Nat) 8)

/-- The largest index of an ascending list of magnitudes not above x. -/
def lastBelow (x : Rat) (ms : List Rat) : Nat := (ms.filter fun v => decide (v ≤ x)).length - 1

/-- An exact value rounded to a code of an FX4 type, clamped at its ends (R209, R210). -/
def fx4Round (t : Nat) (m : RMode) (u : Nat) (v : Rat) : Nat :=
  let neg := decide (v < 0)
  let mag := if neg then -v else v
  if t = 0 then codeOf 4 (clampInt (-8) 7 (roundInt m neg mag u))
  else
    let ms := (fx4Mags t).map fun k => mkRat (k : Nat) 8
    let n := lastBelow mag ms
    let lo := (ms[n]?).getD 0
    let c := if n ≥ 7 then 7
      else if roundsUp m neg (decide (n % 2 = 1)) ((mag - lo) / ((ms[n + 1]?).getD 1 - lo)) u then n + 1 else n
    (if neg then 8 else 0) + c

/-- lo_val and hi_val of R214. -/
def fx4Ends (t : Nat) : Rat × Rat :=
  match t with
  | 0 => (-8, 7)
  | 1 => (-6, 6)
  | 2 => (-8, 8)
  | _ => (-12, 12)

/-- The smallest exponent under which every element fits, from e up; 62 when there is none (R214). -/
def fx4Exp (t : Nat) (xs : List Rat) : Nat → Nat → Nat
  | 0, _ => 62
  | n + 1, e =>
    let sc := pow2 ((e : Int) - 32)
    if xs.all fun x => decide ((fx4Ends t).1 ≤ x / sc) && decide (x / sc ≤ (fx4Ends t).2) then e
    else fx4Exp t xs n (e + 1)

/-- fx4_fit of R214: exponent and codes; x and u run over the block. -/
def fx4Fit (t : Nat) (m : RMode) (xs : List (Bool × Rat)) (us : List Nat) : Nat × List Nat :=
  let e := fx4Exp t (xs.map fun x => sgnRat x.1 x.2) 63 0
  let sc := pow2 ((e : Int) - 32)
  (e, List.zipWith (fun (x : Bool × Rat) u =>
      let c := fx4Round t m u (sgnRat x.1 x.2 / sc)
      if t ≠ 0 ∧ x.1 ∧ c < 8 then c + 8 else c) xs us)

/-- The error of a fit: the exact sum of squared differences (R214). -/
def fx4Err (t : Nat) (xs : List (Bool × Rat)) (fit : Nat × List Nat) : Rat :=
  (List.zipWith (fun (x : Bool × Rat) c =>
      let v := match fx4Code t c with | .fin n g => sgnRat n g | _ => 0
      let d := sgnRat x.1 x.2 - v * pow2 ((fit.1 : Int) - 32)
      d * d) xs fit.2).foldl (· + ·) 0

/-- fx4_encode of R214: scale byte and codes of a block of 32 values. -/
def fx4Encode (xs : List FVal) (tsel : Nat) (m : RMode) (us : List Nat) : Nat × List Nat :=
  let fins := xs.map fun v => match v with | .fin n g => some (n, g) | _ => none
  if fins.any Option.isNone then (0x3F, xs.map fun _ => 0)
  else
    let vs := fins.map fun o => o.getD (false, 0)
    let t :=
      if tsel < 4 then tsel
      else
        let errs := [0, 1, 2, 3].map fun t => (t, fx4Err t vs (fx4Fit t .rne vs (us.map fun _ => 0)))
        (errs.foldl (fun (b : Nat × Rat) e => if e.2 < b.2 then e else b) ((errs.head?).getD (0, 0))).1
    let fit := fx4Fit t m vs us
    (64 * t + fit.1, fit.2)

/-- The scale of an E8M0 byte; none for a NaN block (R205). -/
def e8m0 (b : Nat) : Option Rat := if b = 0xFF then none else some (pow2 ((b : Int) - 127))

/-- The type and scale of an FX4 scale byte; none for a NaN block (R206). -/
def fx4Scale (b : Nat) : Option (Nat × Rat) :=
  if b % 64 = 63 then none else some (b / 64, pow2 ((b % 64 : Nat) - 32))

/-! ### Random draws (R375) -/

/-- mix64 of R375. -/
def mix64 (z : Word) : Word :=
  let a := (z ^^^ (z >>> 30)) * 0xBF58476D1CE4E5B9
  let b := (a ^^^ (a >>> 27)) * 0x94D049BB133111EB
  b ^^^ (b >>> 31)

/-- The 64-bit draw of index j of a stream with key k at counter n. -/
def drawAt (k n : Word) (j : Nat) : Word := mix64 (mix64 (k ^^^ n) ^^^ BitVec.ofNat 64 j)

/-- The 16-bit draw of R211. -/
def draw16 (k n : Word) (j : Nat) : Nat := (drawAt k n j).toNat % 65536

/-! ### f32 shorthands, rounded to nearest even -/

def f32Add (a b : Nat) : Nat := Fmt.f32.add .rne 0 a b
def f32Sub (a b : Nat) : Nat := Fmt.f32.sub .rne 0 a b
def f32Mul (a b : Nat) : Nat := Fmt.f32.mul .rne 0 a b
def f32Div (a b : Nat) : Nat := Fmt.f32.div .rne 0 a b

/-- The sign of an f32 code inverted. -/
def f32Neg (a : Nat) : Nat := if a < 2 ^ 31 then a + 2 ^ 31 else a - 2 ^ 31

/-- tree_sum of R89 over a list, with an addition that is told the position of its right part. -/
def treeSum (op : Nat → Nat → Nat → Nat) : Nat → Nat → List Nat → Nat
  | 0, _, vs => (vs.head?).getD 0
  | fuel + 1, lo, vs =>
    match vs with
    | [] => 0
    | [v] => v
    | _ =>
      let h := 2 ^ Nat.log2 (vs.length - 1)
      op (lo + h) (treeSum op fuel lo (vs.take h)) (treeSum op fuel (lo + h) (vs.drop h))

/-! ### The bits of a status entry (R220) -/

/-- nan, inf, sat, ovf in bits 0 to 3. -/
def flagBits (nan inf sat ovf : Bool) : BitVec 4 :=
  BitVec.ofNat 4 ((if nan then 1 else 0) + (if inf then 2 else 0) + (if sat then 4 else 0) + (if ovf then 8 else 0))

end Sys2Proof.Machine
end

