-- ==== Sys2Proof/Machine/Elementary.lean ====
section
/-! DEFINITION. Correctly rounded elementary functions: an enclosure of the exact value is refined until both its ends round
to one code (R212, R379, R421). Where the refinement does not settle, the code is a free value (DESIGN CHOICE, log 13). -/

namespace Sys2Proof.Machine

/-- An enclosure of an exact value. -/
structure Iv where
  lo : Rat
  hi : Rat
  deriving DecidableEq, Repr

/-- The largest multiple of 2^-p not above x, and the smallest not below it. -/
def gridDown (p : Nat) (x : Rat) : Rat := ((x * pow2 p).floor : Rat) * pow2 (-(p : Int))
def gridUp (p : Nat) (x : Rat) : Rat := ((x * pow2 p).ceil : Rat) * pow2 (-(p : Int))

/-- An enclosure widened to multiples of 2^-p. -/
def Iv.grid (p : Nat) (x : Iv) : Iv := { lo := gridDown p x.lo, hi := gridUp p x.hi }

def Iv.point (x : Rat) : Iv := { lo := x, hi := x }
def Iv.add (a b : Iv) : Iv := { lo := a.lo + b.lo, hi := a.hi + b.hi }
def Iv.neg (a : Iv) : Iv := { lo := -a.hi, hi := -a.lo }
def Iv.mul (a b : Iv) : Iv :=
  let ps := [a.lo * b.lo, a.lo * b.hi, a.hi * b.lo, a.hi * b.hi]
  { lo := ps.foldl min (a.lo * b.lo), hi := ps.foldl max (a.lo * b.lo) }
/-- The reciprocal of an enclosure that does not hold zero. -/
def Iv.inv (a : Iv) : Iv := { lo := 1 / a.hi, hi := 1 / a.lo }

/-- Terms of a power series: the term of index i from the previous one by a factor, summed on the grid 2^-p. -/
def seriesSum (p : Nat) (step : Nat → Rat → Rat) : Nat → Nat → Rat → Rat
  | 0, _, _ => 0
  | n + 1, i, t => t + seriesSum p step n (i + 1) (gridDown p (step i t))

/-- Terms that make a series with ratio at most one half smaller than 2^-p. -/
def seriesLen (p : Nat) : Nat := p + 8

/-- e^y for |y| at most 1/2: the series with its remainder and the loss of each term to the grid. -/
def expSmall (p : Nat) (y : Rat) : Iv :=
  let n := seriesLen p
  let v := seriesSum p (fun i t => t * y / ((i : Nat) + 1 : Nat)) n 0 1
  let e := (n + 2 : Nat) * pow2 (1 - (p : Int))
  { lo := v - e, hi := v + e }

/-- An enclosure squared k times. -/
def squareTimes (p : Nat) : Nat → Iv → Iv
  | 0, a => a
  | k + 1, a => squareTimes p k ((a.mul a).grid p)

/-- e^x at precision p: x is halved until it is small, then the enclosure is squared; a large negative x is near zero, where the
relative precision comes from p. -/
def expIv (p : Nat) (x : Rat) : Iv :=
  let mag := if x < 0 then -x else x
  let k := (ratLog2 (mag + 1) + 2).toNat
  let q := p + 4 * k + 8 + (if x < 0 then (2 * mag).ceil.toNat else 0)
  let b := squareTimes q k (expSmall q (gridDown (q + 8) (mag / (2 ^ k : Nat))))
  let r := b.add { lo := 0, hi := b.hi * pow2 (-(q : Int) + k + 2) }
  if x < 0 then r.inv.grid q else r

/-- The e^x of both ends of an enclosure. -/
def expOf (p : Nat) (a : Iv) : Iv := { lo := (expIv p a.lo).lo, hi := (expIv p a.hi).hi }

/-- 2 artanh(z) for |z| at most 1/3. -/
def artanh2 (p : Nat) (z : Rat) : Iv :=
  let n := seriesLen p
  let v := (List.range n).foldl (fun (acc : Rat × Rat) i =>
    (acc.1 + acc.2 / ((2 * i + 1 : Nat)), gridDown (p + 8) (acc.2 * z * z))) ((0 : Rat), gridDown (p + 8) (2 * z))
  let e := (n + 4 : Nat) * pow2 (-(p : Int))
  { lo := v.1 - e, hi := v.1 + e }

/-- ln 2. -/
def ln2Iv (p : Nat) : Iv := artanh2 p (1 / 3)

/-- ln x for positive x. -/
def lnIv (p : Nat) (x : Rat) : Iv :=
  let k := ratLog2 x
  let m := x * pow2 (-k)
  let k1 := if 4 / 3 < m then k + 1 else k
  let m1 := if 4 / 3 < m then m / 2 else m
  (artanh2 (p + 16) ((m1 - 1) / (m1 + 1))).add ((Iv.point k1).mul (ln2Iv (p + 16)))

/-- arctan(1/n). -/
def arctanInv (p n : Nat) : Iv :=
  let k := seriesLen p
  let v := (List.range k).foldl (fun (acc : Rat × Rat) i =>
    (acc.1 + acc.2 / ((2 * i + 1 : Nat)), gridDown (p + 8) (-acc.2 / ((n * n : Nat) : Rat)))) ((0 : Rat), gridDown (p + 8) (1 / (n : Rat)))
  let e := (k + 4 : Nat) * pow2 (-(p : Int))
  { lo := v.1 - e, hi := v.1 + e }

/-- π by 16 arctan(1/5) − 4 arctan(1/239). -/
def piIv (p : Nat) : Iv :=
  ((Iv.point 16).mul (arctanInv (p + 8) 5)).add ((Iv.point (-4)).mul (arctanInv (p + 8) 239))

/-- The square root of an enclosure of positive values. -/
def sqrtIv (p : Nat) (a : Iv) : Iv :=
  let lo := isqrt (a.lo * pow2 (2 * p)).floor.toNat
  let hi := isqrt (a.hi * pow2 (2 * p)).ceil.toNat + 1
  { lo := (lo : Rat) * pow2 (-(p : Int)), hi := (hi : Rat) * pow2 (-(p : Int)) }

/-- sin or cos of r with |r| at most 1: the alternating series from its first term. -/
def trigSmall (p : Nat) (cosine : Bool) (r : Rat) : Iv :=
  let n := seriesLen p
  let v := (List.range n).foldl (fun (acc : Rat × Rat) i =>
      let d := if cosine then (2 * i + 1) * (2 * i + 2) else (2 * i + 2) * (2 * i + 3)
      (acc.1 + acc.2, gridDown (p + 8) (-acc.2 * r * r / ((d : Nat) : Rat))))
    ((0 : Rat), if cosine then 1 else r)
  let e := (n + 4 : Nat) * pow2 (-(p : Int))
  { lo := v.1 - e, hi := v.1 + e }

/-- sin x or cos x: x is reduced by the nearest multiple of π/2. -/
def trigIv (p : Nat) (cosine : Bool) (x : Rat) : Iv :=
  let big := (if x = 0 then 0 else (ratLog2 (if x < 0 then -x else x)).toNat) + 8
  let q := p + big
  let half := (Iv.point (1 / 2)).mul (piIv q)
  let k := (x / half.lo + 1 / 2).floor
  let r := (Iv.point x).add ((Iv.point (-(k : Rat))).mul half)
  let mid := gridDown q ((r.lo + r.hi) / 2)
  let slack := (r.hi - r.lo) + pow2 (1 - (q : Int))
  let turn := (k + if cosine then 1 else 0) % 4
  let base := trigSmall q (decide (turn % 2 = 1)) mid
  let wide : Iv := { lo := base.lo - slack, hi := base.hi + slack }
  if 2 ≤ turn then wide.neg else wide

/-- erf x: the Maclaurin series for |x| up to 10, else ±1 less than 2^-100 short. -/
def erfIv (p : Nat) (x : Rat) : Iv :=
  let mag := if x < 0 then -x else x
  let body :=
    if 16 < mag then { lo := 1 - pow2 (-300), hi := 1 : Iv }
    else
      let q := p + 4 * (mag * mag).ceil.toNat + 16
      let n := 6 * (mag * mag).ceil.toNat + q
      let v := (List.range n).foldl (fun (acc : Rat × Rat) i =>
        (acc.1 + acc.2 / ((2 * i + 1 : Nat)), gridDown q (-acc.2 * mag * mag / ((i + 1 : Nat) : Rat)))) ((0 : Rat), mag)
      let e := (n + 4 : Nat) * pow2 (-(q : Int) + 4 * ((mag * mag).ceil))
      let s : Iv := { lo := v.1 - e, hi := v.1 + e }
      s.mul ((Iv.point 2).mul (sqrtIv (q + 8) (piIv (q + 8))).inv)
  if x < 0 then body.neg else body

/-- The functions of VEXP2, VLOG2 and SFOP (R379, R421). -/
inductive Fn where
  | exp | ln | tanh | erf | sigm | gelu | sin | cos
  | dtanh | derf | dsigm | dgelu
  | exp2 | log2
  deriving DecidableEq, Repr

/-- The normal distribution function: (1 + erf(x/√2)) / 2. -/
def phiIv (p : Nat) (x : Rat) : Iv :=
  let q := p + 3 * (x * x).ceil.toNat + 40
  let r := (sqrtIv q (Iv.point 2)).inv
  let y := (Iv.point x).mul r
  let a := erfIv q (gridDown q y.lo)
  let b := erfIv q (gridUp q y.hi)
  (Iv.point (1 / 2)).mul ({ lo := 1 + a.lo, hi := 1 + b.hi } : Iv)

/-- The normal density. -/
def densityIv (p : Nat) (x : Rat) : Iv :=
  (expIv p (-(x * x) / 2)).mul (sqrtIv (p + 16) ((Iv.point 2).mul (piIv (p + 16)))).inv

/-- An enclosure of a function of a finite value at precision p. -/
def fnIv (f : Fn) (p : Nat) (x : Rat) : Iv :=
  let far := decide (200 < x) || decide (x < -200)
  match f with
  | .exp => if 200 < x then { lo := pow2 280, hi := pow2 300 } else if x < -200 then { lo := pow2 (-300), hi := pow2 (-280) }
      else expIv p x
  | .exp2 => if 300 < x then { lo := pow2 299, hi := pow2 301 } else if x < -300 then { lo := pow2 (-301), hi := pow2 (-299) }
      else expOf p ((Iv.point x).mul (ln2Iv (p + 16)))
  | .ln => lnIv p x
  | .log2 => (lnIv p x).mul (ln2Iv (p + 16)).inv
  | .sin => trigIv p false x
  | .cos => trigIv p true x
  | .tanh =>
    if far then (if 0 < x then { lo := 1 - pow2 (-200), hi := 1 } else { lo := -1, hi := -1 + pow2 (-200) })
    else
      let e := expIv (p + 8) (2 * x)
      { lo := 1 - 2 / (e.lo + 1), hi := 1 - 2 / (e.hi + 1) }
  | .sigm =>
    if far then (if 0 < x then { lo := 1 - pow2 (-200), hi := 1 } else { lo := pow2 (-300), hi := pow2 (-200) })
    else
      let e := expIv (p + 8) (-x)
      { lo := 1 / (1 + e.hi), hi := 1 / (1 + e.lo) }
  | .erf => erfIv p x
  | .gelu =>
    if 20 < x then { lo := x - pow2 (-200), hi := x }
    else if x < -20 then { lo := -pow2 (-200), hi := -pow2 (-2000) }
    else (Iv.point x).mul (phiIv p x)
  | .dtanh =>
    if far then { lo := pow2 (-300), hi := pow2 (-200) }
    else
      let e := expIv (p + 8) (2 * x)
      let d : Iv := { lo := (e.lo + 1) * (e.lo + 1), hi := (e.hi + 1) * (e.hi + 1) }
      (Iv.point 4).mul (e.mul d.inv)
  | .derf =>
    if far then { lo := pow2 (-300), hi := pow2 (-200) }
    else ((Iv.point 2).mul (sqrtIv (p + 8) (piIv (p + 8))).inv).mul (expIv (p + 8) (-(x * x)))
  | .dsigm =>
    if far then { lo := pow2 (-300), hi := pow2 (-200) }
    else
      let e := expIv (p + 8) (-x)
      let d : Iv := { lo := (e.lo + 1) * (e.lo + 1), hi := (e.hi + 1) * (e.hi + 1) }
      e.mul d.inv
  | .dgelu =>
    if 20 < x then { lo := 1 - pow2 (-200), hi := 1 + pow2 (-200) }
    else if x < -20 then { lo := -pow2 (-200), hi := -pow2 (-2000) }
    else (phiIv p x).add ((Iv.point x).mul (densityIv p x))

/-- An enclosure rounded: the code once both ends round to it. -/
def Iv.settled (a : Iv) (f : Fmt) (m : RMode) (u : Nat) : Option Nat :=
  let r (v : Rat) : Nat := (f.round m false (decide (v < 0)) (if v < 0 then -v else v) u).1
  if a.lo < 0 ∧ 0 < a.hi then none
  else if r a.lo = r a.hi then some (r a.lo) else none

/-- Refine an enclosure, doubling the precision, until it settles. -/
def refine (g : Nat → Iv) (f : Fmt) (m : RMode) (u : Nat) : Nat → Nat → Option Nat
  | 0, _ => none
  | n + 1, p =>
    match (g p).settled f m u with
    | some r => some r
    | none => refine g f m u n (2 * p)

/-- A code correctly rounded from an enclosure, with the free value of its function and argument where it does not settle. -/
def roundIv (id arg : Nat) (g : Nat → Iv) (f : Fmt) (m : RMode) (u : Nat) : Nat :=
  (refine g f m u Config.refinementFuel 64).getD (Config.unsettled id arg % 2 ^ f.width)

/-- The number of a function for its free value. -/
def Fn.id : Fn → Nat
  | .exp => 0 | .ln => 1 | .tanh => 2 | .erf => 3 | .sigm => 4 | .gelu => 5 | .sin => 6 | .cos => 7
  | .dtanh => 8 | .derf => 9 | .dsigm => 10 | .dgelu => 11 | .exp2 => 12 | .log2 => 13

/-- The exact rational value of a function where it has one (so that ties and exact results round as such). -/
def fnExact (f : Fn) (neg : Bool) (x : Rat) : Option FVal :=
  match f with
  | .exp => if x = 0 then some (.fin false 1) else none
  | .exp2 => if x.den = 1 then
      (if x < -400 ∨ 400 < x then none else some (.fin false (pow2 x.num))) else none
  | .ln => if x = 1 then some (.fin false 0) else none
  | .log2 => if x = pow2 (ratLog2 x) then some (ofIntVal (ratLog2 x)) else none
  | .tanh | .erf | .gelu | .sin => if x = 0 then some (.fin neg 0) else none
  | .sigm => if x = 0 then some (.fin false (1 / 2)) else none
  | .cos | .dtanh => if x = 0 then some (.fin false 1) else none
  | .dsigm => if x = 0 then some (.fin false (1 / 4)) else none
  | .dgelu => if x = 0 then some (.fin false (1 / 2)) else none
  | .derf => none

/-- A function of a finite value in a format and mode. -/
def fnRound (fn : Fn) (f : Fmt) (m : RMode) (u arg : Nat) (neg : Bool) (x : Rat) : Nat :=
  match fnExact fn neg x with
  | some v => (f.ofVal m false v u).1
  | none => roundIv fn.id arg (fun p => fnIv fn p x) f m u

/-- VRCP, VRSQ, VEXP2 and VLOG2 with their special cases (R379): the function number is 0 to 3. -/
def basicSpecial (which : Nat) (f : Fmt) (m : RMode) (u a : Nat) : Nat :=
  match f.decode a with
  | .nan neg fr mw => f.quiet neg fr mw
  | .inf neg =>
    match which with
    | 0 => f.code neg 0
    | 1 => if neg then f.canonNaN else 0
    | 2 => if neg then 0 else f.inf false
    | _ => if neg then f.canonNaN else f.inf false
  | .fin neg x =>
    match which with
    | 0 => if x = 0 then f.inf neg else (f.round m false neg (1 / x) u).1
    | 1 => if x = 0 then f.inf neg else if neg then f.canonNaN else (f.round m false false (sqrtMag (1 / x)) u).1
    | 2 => fnRound .exp2 f m u a neg (sgnRat neg x)
    | _ => if x = 0 then f.inf true else if neg then f.canonNaN else fnRound .log2 f m u a neg x

/-- SFOP functions 0 to 7 and their derivative forms with the special cases of R421. -/
def sfValue (fn : Nat) (deriv : Bool) (f : Fmt) (a : Nat) : Nat :=
  let ev (k : Fn) (neg : Bool) (x : Rat) : Nat := fnRound k f .rne 0 a neg (sgnRat neg x)
  match f.decode a with
  | .nan neg fr mw => f.quiet neg fr mw
  | .inf neg =>
    let one := (f.round .rne false false 1 0).1
    match fn, deriv with
    | 0, _ => if neg then 0 else f.inf false
    | 1, false => if neg then f.canonNaN else f.inf false
    | 1, true => if neg then f.canonNaN else 0
    | 2, false => if neg then (f.round .rne false true 1 0).1 else one
    | 3, false => if neg then (f.round .rne false true 1 0).1 else one
    | 4, false => if neg then 0 else one
    | 5, false => if neg then f.code true 0 else f.inf false
    | 5, true => if neg then f.code true 0 else one
    | 6, _ => f.canonNaN
    | 7, _ => f.canonNaN
    | _, _ => 0
  | .fin neg x =>
    match fn, deriv with
    | 0, _ => ev .exp neg x
    | 1, false => if x = 0 then f.inf true else if neg then f.canonNaN else ev .ln neg x
    | 1, true => if x = 0 then f.inf false else if neg then f.canonNaN else (f.round .rne false false (1 / x) 0).1
    | 2, false => ev .tanh neg x
    | 2, true => ev .dtanh neg x
    | 3, false => ev .erf neg x
    | 3, true => ev .derf neg x
    | 4, false => ev .sigm neg x
    | 4, true => ev .dsigm neg x
    | 5, false => ev .gelu neg x
    | 5, true => ev .dgelu neg x
    | 6, false => ev .sin neg x
    | 6, true => ev .cos neg x
    | _, false => ev .cos neg x
    | _, true => fnRound .sin f .rne 0 a (!neg) (sgnRat (!neg) x)

/-! ### Powers and roots of the transformed mean (R265) -/

/-- x^n for an integer n. -/
def ratPow (x : Rat) (n : Int) : Rat := if 0 ≤ n then x ^ n.toNat else 1 / x ^ (-n).toNat

/-- A signed rational rounded once to f32, to nearest even. -/
def rne32 (x : Rat) : Nat := (Fmt.f32.round .rne false (decide (x < 0)) (if x < 0 then -x else x) 0).1

/-- A value that the spec does not state: the free value of a function number and its arguments (DESIGN CHOICE, log 34). -/
def unstated32 (id a b : Nat) : Nat := Config.unsettled id (a + 2 ^ 32 * b) % 2 ^ 32

/-- n odd: a negative base keeps its sign. -/
def oddInt (n : Int) : Bool := decide (n.natAbs % 2 = 1)

/-- pow_rne(a, b, q) for f32 codes and integer q: the exact (a/b)^q with its sign, rounded once; 0^q is 0 for q > 0, (+inf)^q is 0
for q < 0. -/
def powRne (a b : Nat) (q : Int) : Nat :=
  match Fmt.f32.decode a, Fmt.f32.decode b with
  | .fin na x, .fin nb y =>
    let neg := (na != nb) && oddInt q
    if q = 0 then 0x3F800000
    else if x = 0 ∧ 0 < q then 0
    else if y = 0 then if 0 < q then Fmt.f32.inf neg else 0
    else if x = 0 then Fmt.f32.inf neg
    else rne32 (ratPow (sgnRat na x / sgnRat nb y) q)
  | .inf na, .fin nb _ => if 0 < q then Fmt.f32.inf ((na != nb) && oddInt q) else 0
  | .fin na x, .inf nb => if 0 < q then 0 else if x = 0 then 0 else Fmt.f32.inf ((na != nb) && oddInt q)
  | _, _ => Fmt.f32.canonNaN

/-- The largest magnitude index whose value to the power n is at most x, by bisection. -/
def rootSearch (f : Fmt) (n : Nat) (x : Rat) : Nat → Nat → Nat
  | 0, r => r
  | k + 1, r => if (f.idxValue (r + 2 ^ k)) ^ n ≤ x then rootSearch f n x k (r + 2 ^ k) else rootSearch f n x k r

/-- The exact n-th root of a positive rational rounded once to f32, ties to even. -/
def rootMag (n : Nat) (x : Rat) : Nat :=
  let f := Fmt.f32
  let lo := rootSearch f n x 31 0
  let mid := (f.idxValue lo + f.idxValue (lo + 1)) / 2
  let up := decide (mid ^ n < x) || (decide (mid ^ n = x) && decide (lo % 2 = 1))
  let r := if up then lo + 1 else lo
  if f.maxIdx < r then f.inf false else r

/-- The sign bit of a negative f32 code. -/
def negated32 (c : Nat) : Nat := c + 2 ^ 31

/-- root_rne(a, b, p) of R265: (a/b)^(1/p) for an f32 code a, a count b and an integer p ≠ 0; a negative S has a real root for odd p,
and no stated one for even p. -/
def rootRne (a b : Nat) (p : Int) : Nat :=
  let signed (neg : Bool) (c : Nat) : Nat := if !neg then c else if oddInt p then negated32 c else unstated32 22 a b
  match Fmt.f32.decode a with
  | .fin neg x =>
    if x = 0 then if 0 < p then 0 else Fmt.f32.inf false
    else
      let y := x / (b : Rat)
      signed neg (rootMag p.natAbs (if 0 < p then y else 1 / y))
  | .inf neg => signed neg (if 0 < p then Fmt.f32.inf false else 0)
  | .nan neg fr mw => Fmt.f32.quiet neg fr mw

/-- ln_rne and exp_rne of R265 on f32 codes. -/
def lnRne (a : Nat) : Nat := sfValue 1 false .f32 a
def expRne (a : Nat) : Nat := sfValue 0 false .f32 a

/-- The square root of a positive rational, where it is rational. -/
def exactSqrt (x : Rat) : Option Rat :=
  let n := isqrt x.num.toNat
  let d := isqrt x.den
  if n * n = x.num.toNat ∧ d * d = x.den then some ((n : Rat) / (d : Rat)) else none

/-- x to a dyadic power, where that is rational: k square roots, then a whole power. -/
def exactPow (n : Int) : Nat → Rat → Option Rat
  | 0, x => some (ratPow x n)
  | k + 1, x => (exactSqrt x).bind (exactPow n k)

/-- (x/y)^ex of two positive magnitudes, exact where it is rational and near enough, else by intervals; rounded once. -/
def powMag (arg : Nat) (x y ex : Rat) : Nat :=
  let k := ratLog2 (ex.den : Rat)
  match if k ≤ 8 ∧ ex.num.natAbs ≤ 1024 then exactPow ex.num k.toNat (x / y) else none with
  | some v => rne32 v
  | none => if x = y then 0x3F800000 else roundIv 20 arg (fun p => expOf p ((Iv.point ex).mul (lnIv (p + 32) (x / y)))) .f32 .rne 0

/-- (a/b)^q for an f32 exponent q, by the power law of a table pair (R271): exact where it is rational. A negative quotient has a power
where q is an integer, with the sign of its parity; one that the spec does not state, by another or an infinite exponent, is a free
value. -/
def powReal (a b q : Nat) : Nat :=
  match Fmt.f32.decode q with
  | .fin nq e =>
    let ex := sgnRat nq e
    let odd := decide (ex.den = 1) && oddInt ex.num
    let small : Int := if odd then 3 else 2
    let like : Int := if nq then -small else small
    if ex.den = 1 ∧ ex.num.natAbs ≤ 1024 then powRne a b ex.num
    else
      match Fmt.f32.decode a, Fmt.f32.decode b with
      | .fin na x, .fin nb y =>
        if x = 0 ∨ y = 0 then powRne a b like
        else
          let m := powMag (a + 2 ^ 32 * b) x y ex
          if na == nb then m else if ex.den ≠ 1 then unstated32 21 a b else if odd then negated32 m else m
      | .nan _ _ _, _ => powRne a b 1
      | _, .nan _ _ _ => powRne a b 1
      | _, _ => if ex.den ≠ 1 ∧ a / 2 ^ 31 % 2 ≠ b / 2 ^ 31 % 2 then unstated32 21 a b else powRne a b like
  | _ => unstated32 21 a b

end Sys2Proof.Machine
end

