-- ==== Sys2Proof/Machine/TMean.lean ====
section
/-! DEFINITION. The transformed mean: shapes, triples, adding, merging and leaving, and table pairs (R265 to R271). -/

namespace Sys2Proof.Machine

/-- A shape as tm.shape lays it out. -/
structure TmShape where
  p : Int
  inf : Bool
  tab : Bool
  pair : Nat
  zabs : Bool
  dtrap : Bool
  deriving DecidableEq, Repr

/-- The shape in a tm.shape value. -/
def TmShape.of (w : BitVec 32) : TmShape :=
  { p := (w.extractLsb' 0 8).toInt, inf := w.getLsbD 8, tab := w.getLsbD 9, pair := nfield w 10 3, zabs := w.getLsbD 13,
    dtrap := w.getLsbD 14 }

/-- A partial triple: S and m are f32 codes, c counts. -/
structure Triple where
  S : Nat
  c : Nat
  m : Nat
  deriving DecidableEq, Repr

/-- The canonical f32 NaN. -/
def nan32 : Nat := 0x7FC00000

/-- The code of 1.0. -/
def one32 : Nat := 0x3F800000

/-- The code of +inf. -/
def inf32 : Nat := 0x7F800000

def isNaN32 (a : Nat) : Bool := (Fmt.f32.decode a).isNaN
def lt32 (a b : Nat) : Bool := Fmt.f32.cmp 2 a b
def eq32 (a b : Nat) : Bool := Fmt.f32.cmp 0 a b
def zero32 (a : Nat) : Bool := decide (a % 2 ^ 31 = 0)

/-- A NaN made quiet. -/
def quiet32 (a : Nat) : Nat :=
  match Fmt.f32.decode a with
  | .nan n fr mw => Fmt.f32.quiet n fr mw
  | _ => a

/-- An exact quotient of an f32 code and a count, rounded once; by 0 as an f32 division (R212). -/
def divCount (a n : Nat) : Nat :=
  match Fmt.f32.decode a with
  | .nan neg fr mw => Fmt.f32.quiet neg fr mw
  | .inf neg => Fmt.f32.inf neg
  | .fin neg x =>
    if n = 0 then if x = 0 then nan32 else Fmt.f32.inf neg
    else (Fmt.f32.round .rne false neg (x / (n : Rat)) 0).1

/-- The count saturates (R265). -/
def satCount (n : Nat) : Nat := min n (2 ^ 32 - 1)

/-! ### Table pairs (R270) -/

/-- A 4-byte word of a table image. -/
def tabWord (t : List Byte) (at_ : Nat) : Nat := natOfBytes ((t.drop at_).take 4)

def tabKnot (t : List Byte) (inverse : Bool) (j : Nat) : Nat := tabWord t ((if inverse then 4164 else 64) + 4 * j)

/-- lo and hi of f, or of f⁻¹: f's knots 0 and 1,024 (R421). -/
def tabRange (t : List Byte) (inverse : Bool) : Nat × Nat :=
  if inverse then (tabKnot t false 0, tabKnot t false 1024) else (tabWord t 0, tabWord t 4)

/-- A finite f32 code as a rational; others count as 0. -/
def rat32 (a : Nat) : Rat :=
  match Fmt.f32.decode a with
  | .fin n x => sgnRat n x
  | _ => 0

/-- A finite f32 code. -/
def finite32 (a : Nat) : Bool :=
  match Fmt.f32.decode a with
  | .fin _ _ => true
  | _ => false

/-- The argument clamped to the table's range, whichever way it runs (R270). -/
def tabClamp (r : Nat × Nat) (x : Nat) : Nat :=
  let lo := if lt32 r.2 r.1 then r.2 else r.1
  let hi := if lt32 r.2 r.1 then r.1 else r.2
  if lt32 x lo then lo else if lt32 hi x then hi else x

/-- u and the segment j of an argument (R270): u rational, or beyond every segment, or not stated (infinite bounds, no number). -/
inductive Segment where
  | at_ (u : Rat) (j : Nat)
  | beyond
  | unstated
  deriving DecidableEq, Repr

/-- R270: u is f32_mul_rne(f32_sub_rne(x, lo), 1,024/(hi − lo)), the second factor exact; an infinite u lies in segment 1,023. -/
def tabSegment (t : List Byte) (inverse : Bool) (x : Nat) : Segment :=
  let r := tabRange t inverse
  if !(finite32 r.1) || !(finite32 r.2) then .unstated
  else
    match Fmt.f32.decode (f32Sub (tabClamp r x) r.1) with
    | .fin n v =>
      (match Fmt.f32.decode (rne32 (sgnRat n v * 1024 / (rat32 r.2 - rat32 r.1))) with
      | .fin n v => .at_ (sgnRat n v) (min (sgnRat n v).floor.toNat 1023)
      | .inf _ => .beyond
      | .nan _ _ _ => .unstated)
    | .inf _ => .beyond
    | .nan _ _ _ => .unstated

/-- A table's value of an argument; a NaN is returned made quiet (R270, R421); with a bound or knot that leaves no stated value, a
free one. DEDUCED, log 34. -/
def tabEval (t : List Byte) (inverse : Bool) (x : Nat) : Nat :=
  if isNaN32 x then quiet32 x
  else
    match tabSegment t inverse x with
    | .at_ u j =>
      let k0 := tabKnot t inverse j
      let k1 := tabKnot t inverse (j + 1)
      if finite32 k0 && finite32 k1 then rne32 (rat32 k0 + (u - j) * (rat32 k1 - rat32 k0))
      else if finite32 k0 && decide ((j : Rat) < u) then k1
      else unstated32 23 x j
    | .beyond => Fmt.f32.inf (lt32 (tabKnot t inverse 1024) (tabKnot t inverse 1023))
    | .unstated => unstated32 23 x 0

/-- The slope of the segment of an argument (R421). -/
def tabSlope (t : List Byte) (inverse : Bool) (x : Nat) : Nat :=
  if isNaN32 x then quiet32 x
  else
    let r := tabRange t inverse
    let slope (j : Nat) : Nat :=
      let k0 := tabKnot t inverse j
      let k1 := tabKnot t inverse (j + 1)
      if finite32 k0 && finite32 k1 then rne32 ((rat32 k1 - rat32 k0) * 1024 / (rat32 r.2 - rat32 r.1)) else unstated32 24 x j
    match tabSegment t inverse x with
    | .at_ _ j => slope j
    | .beyond => slope 1023
    | .unstated => unstated32 24 x 0

/-- A knot sequence is strictly monotone. -/
def knotsMonotone (t : List Byte) (inverse : Bool) : Bool :=
  let ks := (List.range 1025).map (tabKnot t inverse)
  let pairs := ks.zip (ks.drop 1)
  pairs.all (fun p => lt32 p.1 p.2) || pairs.all (fun p => lt32 p.2 p.1)

/-- The checks of an image (R422). -/
def tableOk (t : List Byte) : Bool :=
  lt32 (tabWord t 0) (tabWord t 4) && knotsMonotone t false && knotsMonotone t true
    && ((t.drop 16).take 48).all (· == 0) && decide (((t[8]?).getD 0).toNat ≤ 1) && decide (((t[9]?).getD 0).toNat ≤ 1)

/-! ### Triples (R265 to R269, R271) -/

/-- A domain fault leaves the NaN triple (R268). -/
def Triple.nan (c : Nat) : Triple := { S := nan32, c := c, m := nan32 }

/-- The rescale factor on a new extreme (R265, R271). -/
def tmFactor (sh : TmShape) (t : List Byte) (old new : Nat) : Nat :=
  if sh.tab then
    if ((t[8]?).getD 0) = 1 then expRne (f32Mul (tabWord t 12) (f32Sub old new)) else powReal old new (tabWord t 12)
  else powRne old new sh.p

/-- A new extreme under the shape's extreme. -/
def tmBeyond (sh : TmShape) (t : List Byte) (x m : Nat) : Bool :=
  if sh.tab then (if ((t[9]?).getD 0) = 0 then lt32 m x else lt32 x m)
  else if 0 < sh.p then lt32 m x else lt32 x m

/-- Kinds of domain fault: 0 negative, 1 zero, 2 bad triple (R272, R392). -/
abbrev DomKind := Option Nat

/-- tm_add under table mode (R271). -/
def tabAdd (sh : TmShape) (t : List Byte) (T : Triple) (x : Nat) : Triple :=
  let c := satCount (T.c + 1)
  if T.c ≠ 0 ∧ isNaN32 T.m then { T with c := c }
  else if isNaN32 x then { S := quiet32 x, c := c, m := quiet32 x }
  else
    let T1 : Triple :=
      if T.c = 0 then { T with c := c, m := x }
      else if tmBeyond sh t x T.m then { S := f32Mul T.S (tmFactor sh t T.m x), c := c, m := x }
      else { T with c := c }
    { T1 with S := f32Add T1.S (f32Div (tabEval t false x) (tabEval t false T1.m)) }

/-- tm_add for p = 0 (R266). -/
def geoAdd (sh : TmShape) (T : Triple) (x : Nat) : Triple × DomKind :=
  let c := satCount (T.c + 1)
  if isNaN32 T.m then ({ T with c := c }, none)
  else if isNaN32 x then ({ S := quiet32 x, c := c, m := quiet32 x }, none)
  else if lt32 x 0 then (Triple.nan c, some 0)
  else if zero32 x then
    if sh.zabs then if T.m = inf32 then (Triple.nan c, none) else ({ T with c := c, m := 0 }, none)
    else (Triple.nan c, some 1)
  else if x = inf32 then if zero32 T.m then (Triple.nan c, none) else ({ T with c := c, m := inf32 }, none)
  else ({ T with c := c, S := f32Add T.S (lnRne x) }, none)

/-- tm_add (R265 to R267, R271). -/
def tmAdd (sh : TmShape) (t : List Byte) (T : Triple) (x : Nat) : Triple × DomKind :=
  if sh.tab then (tabAdd sh t T x, none)
  else if !sh.inf && decide (sh.p = 0) then geoAdd sh T x
  else
    let c := satCount (T.c + 1)
    let keep : Triple := { T with c := c }
    if isNaN32 T.m then (keep, none)
    else if isNaN32 x then ({ S := quiet32 x, c := c, m := quiet32 x }, none)
    else if lt32 x 0 then (Triple.nan c, some 0)
    else if sh.inf then ({ keep with m := Fmt.f32.minMax true T.m x }, none)
    else if 0 < sh.p then
      if T.m = inf32 then (keep, none)
      else if x = inf32 then ({ keep with m := inf32 }, none)
      else
        let T1 := if lt32 T.m x then { keep with S := f32Mul T.S (powRne T.m x sh.p), m := x } else keep
        (if zero32 x then T1 else { T1 with S := f32Add T1.S (powRne x T1.m sh.p) }, none)
    else if zero32 T.m then (keep, none)
    else if zero32 x then if sh.zabs then ({ S := 0, c := c, m := 0 }, none) else (Triple.nan c, some 1)
    else if x = inf32 then (keep, none)
    else
      let T1 := if lt32 x T.m then { keep with S := f32Mul T.S (powRne T.m x sh.p), m := x } else keep
      ({ T1 with S := f32Add T1.S (powRne x T1.m sh.p) }, none)

/-- tm_merge (R265 to R267, R271); an empty triple of table mode leaves the other. DESIGN CHOICE, log 16. -/
def tmMerge (sh : TmShape) (t : List Byte) (A B : Triple) : Triple :=
  let c := satCount (A.c + B.c)
  let rescale (T : Triple) (m : Nat) : Nat := if eq32 T.m m then T.S else f32Mul T.S (tmFactor sh t T.m m)
  if isNaN32 A.m then { A with c := c }
  else if isNaN32 B.m then { B with c := c }
  else if sh.tab then
    if A.c = 0 then { B with c := c }
    else if B.c = 0 then { A with c := c }
    else
      let m := if tmBeyond sh t B.m A.m then B.m else A.m
      { S := f32Add (rescale A m) (rescale B m), c := c, m := m }
  else if sh.inf then { S := 0, c := c, m := Fmt.f32.minMax true A.m B.m }
  else if sh.p = 0 then
    if A.m = one32 ∧ B.m = one32 then { S := f32Add A.S B.S, c := c, m := one32 }
    else if (zero32 A.m ∧ B.m = inf32) ∨ (A.m = inf32 ∧ zero32 B.m) then Triple.nan c
    else { S := (Config.absorbedSum (BitVec.ofNat 32 A.S) (BitVec.ofNat 32 B.S)).toNat, c := c,
           m := if A.m = one32 then B.m else A.m }
  else if 0 < sh.p ∧ (A.m = inf32 ∨ B.m = inf32) then { S := 0, c := c, m := inf32 }
  else if sh.p < 0 ∧ (zero32 A.m ∨ zero32 B.m) then { S := 0, c := c, m := 0 }
  else
    let m := Fmt.f32.minMax (decide (0 < sh.p)) A.m B.m
    { S := f32Add (rescale A m) (rescale B m), c := c, m := m }

/-- An input triple that is bad (R269, R391). -/
def badTriple (sh : TmShape) (T : Triple) : Bool :=
  !sh.tab && (lt32 T.m 0 || (!(decide (sh.p = 0) && !sh.inf) && lt32 T.S 0) || (decide (T.c = 0) && !(zero32 T.S)))

/-- tm_merge of a checked input: a bad triple is a domain fault of kind 2 and counts as the NaN triple (R269, R391). -/
def tmMergeChecked (sh : TmShape) (t : List Byte) (A B : Triple) : Triple × DomKind :=
  if badTriple sh B then (tmMerge sh t A (Triple.nan B.c), some 2) else (tmMerge sh t A B, none)

/-- tm_exit with whether the triple was empty (R265 to R267, R271). -/
def tmExit (sh : TmShape) (t : List Byte) (T : Triple) : Nat × Bool :=
  if T.c = 0 then (nan32, true)
  else if sh.tab then
    (if isNaN32 T.m then T.m else tabEval t true (f32Mul (tabEval t false T.m) (divCount T.S T.c)), false)
  else if sh.inf then (T.m, false)
  else if sh.p = 0 then (if T.m = one32 then expRne (divCount T.S T.c) else T.m, false)
  else if isNaN32 T.m ∨ zero32 T.m ∨ T.m = inf32 then (T.m, false)
  else if sh.p < 0 ∧ zero32 T.S then (inf32, false)
  else (f32Mul T.m (rootRne T.S T.c sh.p), false)

end Sys2Proof.Machine
end

