-- ==== Sys2Proof/Machine/Fabric.lean ====
section
/-! DEFINITION. The engine, fabric, task and port instructions of slot E (R416 to R440); span boundaries and the reverse walk are
in Machine/Span.lean, the start of a queued command in Machine/Start.lean. -/

namespace Sys2Proof.Machine

/-! ### Shared parts -/

/-- The physical quad of a logical quad under the binding of a core's task; a logical quad that a binding does not name gives 256, which
is no quad and which no entry holds (R65). -/
def CoreSt.physQuad (c : CoreSt) (l : Nat) : Nat := if c.binding.isEmpty then l else (c.binding[l]?).getD 256

/-- A gang of an entry holds a quad; one whose context is saved holds none (R138). -/
def Entry.holds (e : Entry) (q : Nat) : Bool := e.gangs.any fun g => !g.ended && !g.away && g.quads.contains q

/-- The entry whose task a core runs holds a quad. -/
def heldByTask (s : State) (q dq : Nat) : Bool :=
  match (s.core q).task with
  | some t => (s.entry t.slot).holds dq || t.gang.contains dq
  | none => false

/-- A slot that enters no cell queue: under a false guard it is quashed (R299). -/
def engineOp (i : Instr) (ill : Bool) (body : State → State) (s : State) : State :=
  issueSlot s i ill (liveGuard s i) body

/-- Every page of a range translates with the rights needed; else PAGE or PROT at the first that does not (R418). -/
def checkPages (s : State) (q asid need : Nat) : Nat → Nat → Nat → State × Option (Nat × Nat × Nat)
  | 0, _, _ => (s, none)
  | n + 1, va, last =>
    if last < va then (s, none)
    else
      match translate s (.core q) asid va need with
      | (t, .error e) => (t, some (va, e.1, e.2))
      | (t, .ok _) => checkPages t q asid need n (va / 4096 * 4096 + 4096) last

/-- A request over len bytes at an address word: PROT kind 6 outside the 48-bit space, then the pages, then the request. -/
def withPages (s : State) (q : Nat) (va : Word) (len need : Nat) (k : State → State) : State :=
  if 2 ^ 48 < va.toNat + len then protKind6 s q va
  else
    match checkPages s q (s.core q).asid need (len / 4096 + 2) va.toNat (va.toNat + len - 1) with
    | (t, some e) => slotTrap t q (kindCause e.2.1) (kindTval e.1 e.2.1 e.2.2)
    | (t, none) => k t

/-- A completion word: PROT kind 6 for a bad spec, ALIGN for a misaligned one, and the page of a global word with right W. -/
def withWord (s : State) (q : Nat) (spec : Word) (k : State → State) : State :=
  if specOk spec = false then protKind6 s q spec
  else if nfield spec 0 22 % 8 ≠ 0 then alignTrap s q spec
  else if spec = 0 ∨ specLocal spec then k s
  else withPages s q (BitVec.ofNat 64 (nfield spec 0 48)) 8 2 k

/-- An effect that leaves the core when the bundle commits; the slot ends. -/
def postAction (s : State) (q : Nat) (a : Action) : State :=
  nextSlot (s.modCore q fun c => { c with actions := c.actions ++ [(c.bid, a)] }) q

/-- A cell command of slot E that carries the scalar guard (R301). -/
def engineReq (s : State) (i : Instr) (cm : BitVec 4) : CellReq :=
  plainReq i cm 2 0 (liveGuard s i)

/-- An LDM line address of 64-byte alignment within LDM. -/
def ldmAddrOk (w : Word) (len : Nat) : Bool := decide (w.toNat % 64 = 0) && decide (w.toNat + len ≤ ldmSize)

/-! ### Transfers and special functions -/

/-- The parts of an XFER command: own quad or a logical quad, cell offset, addresses, length (R419). -/
def xferRowMode (i : Instr) : Bool :=
  match i with
  | .xferRow _ => true
  | _ => false
def xferSrc (i : Instr) (x1 : Word) : Nat := if xferRowMode i then nfield x1 0 8 else nfield x1 0 22
def xferDst (i : Instr) (x2 : Word) : Nat := if xferRowMode i then nfield x2 0 8 else nfield x2 0 22
def xferLen (i : Instr) (x3 : Word) : Nat := if xferRowMode i then 1024 else x3.toNat
def xferOffset (x2 : Word) : Nat := nfield x2 22 2
def xferLogical (x2 : Word) : Nat := nfield x2 24 8

/-- R419: ALIGN for a bad address, length or range, PRIV for a quad that the entry does not hold; the command captures the
destination's physical quad. DEDUCED, log 35. -/
def xferOp (i : Instr) (f : ER) (s : State) : State :=
  issueSlot s i false true fun t =>
    let q := t.cur
    let c := t.core q
    let x1 := c.arch.rx f.xa.toNat
    let x2 := c.arch.rx f.xb.toNat
    let x3 := c.arch.rx f.xc.toNat
    let len := xferLen i x3
    let bad (a : Nat) : Bool := !(xferRowMode i) && (a % 256 != 0 || decide (spmSize < a + len))
    let own := x2.getLsbD 32
    let dq := if own then q else c.physQuad (xferLogical x2)
    if bad (xferSrc i x1) || (!(xferRowMode i) && (decide (len < 256) || decide (65536 < len) || len % 256 != 0)) then
      slotTrap t q 3 (BitVec.ofNat 64 (xferSrc i x1))
    else if bad (xferDst i x2) then slotTrap t q 3 (BitVec.ofNat 64 (xferDst i x2))
    else if !own && !(heldByTask t q dq) then slotTrap t q 2 (BitVec.ofNat 64 (xferDst i x2))
    else placeCmd t { engineReq t i f.cm with x1 := x1, x2 := x2, x3 := BitVec.ofNat 64 (len + 2 ^ 32 * dq) }

/-- R419: scratchpad mode. -/
def execXfer (f : ER) (s : State) : Host.Outcome State Fault Refusal := .next (xferOp (.xfer f) f s)

/-- R419: row mode. -/
def execXferRow (f : ER) (s : State) : Host.Outcome State Fault Refusal := .next (xferOp (.xferRow f) f s)

/-- The element type of an SFOP. -/
def sfopType (f : EV) : Nat := nfield f.fn 4 2

/-- R421: functions 10 to 15, type 3 and bad operand codes raise ILL. -/
def execSfop (f : EV) (s : State) : Host.Outcome State Fault Refusal :=
  let i : Instr := .sfop f
  let fn := nfield f.fn 0 4
  let ill := decide (10 ≤ fn) || sfopType f == 3 || (srcCode f.a).isNone || (dstCode f.d).isNone
  .next (issueSlot s i ill true fun t =>
    let x := if fn = 8 ∨ fn = 9 then (t.core t.cur).arch.rx f.xa.toNat else 0
    placeCmd t { engineReq t i f.cm with x1 := x })

/-- R422: the image's alignment, then its pages and the completion word; the request leaves when the bundle commits. -/
def execSftab (f : ER) (s : State) : Host.Outcome State Fault Refusal :=
  let i : Instr := .sftab f
  .next (engineOp i false (fun t =>
    let q := t.cur
    let a := (t.core q).arch
    let va := a.rx f.xa.toNat
    let spec := a.rx f.xb.toNat
    let val := a.rx f.xc.toNat
    if va.toNat % 64 ≠ 0 then alignTrap t q va
    else withPages t q va 8264 1 fun u => withWord u q spec fun v =>
      postAction v q (.sftab q (f.fn.toNat % 8) va.toNat spec val (v.core q).asid)) s)

/-! ### Explicit residuals, seeds and pairs -/

/-- The top of the granules that queued RPOPs of a cell have still to read, or the depth. -/
def popsTop (c : CellSt) (depth : Nat) : Nat :=
  c.qSf.foldl (fun m k => match k.instr with
    | .rpop _ => max m (k.resAt + k.resLen)
    | _ => m) depth

/-- RPUSH's reservation, or RPOP's, in one cell: the sub-cause it raises, or the state and the first granule (R426, R469). -/
def stackMove (s : State) (q j : Nat) (push : Bool) : Except Nat (State × Nat) :=
  let a := (s.core q).arch
  let c := s.cell q j
  if push && a.winSize j == 0 then .error 9
  else if popsTop c (a.depth j) < c.spilled then .error 9
  else if push then
    let t := (s.modArch q fun x => { x with rsTop := sset 0 x.rsTop j (BitVec.ofNat 40 (a.depth j + 16)) }).modCore q fun x =>
      { x with lastRes := some x.bid }
    .ok (t.modCell q j fun x => { x with reserved := x.reserved ++ [(a.depth j, 16)] }, a.depth j)
  else if a.depth j < 16 then .error 16
  else .ok (s.modArch q (fun x => { x with rsTop := sset 0 x.rsTop j (BitVec.ofNat 40 (a.depth j - 16)) }), a.depth j - 16)

/-- The reservation and the queueing of an RPUSH or RPOP in each cell of a list. -/
def stackPlace (s : State) (q : Nat) (r : CellReq) (push : Bool) : List Nat → State × Option (Nat × Nat)
  | [] => (s, none)
  | j :: rest =>
    match stackMove s q j push with
    | .error n => (s, some (n, j))
    | .ok (t, at_) =>
      let k := makeCmd (t.core q) t.pcc (t.lead q) r at_ 16 1
      stackPlace ((t.modCell q j fun x => enqueue x r.queue k).modArch q fun a => takeCounts a r j) q r push rest

/-- RPUSH and RPOP at issue: port counts, room in the queues, then the stacks (R426). -/
def stackOp (i : Instr) (ill push : Bool) (cm : BitVec 4) (s : State) : State :=
  issueSlot s i ill true fun t =>
    let q := t.cur
    let c := t.core q
    let r := engineReq t i cm
    let js := cellsOf cm
    match js.findSome? (countTrap c.arch r) with
    | some e => slotTrap t q e.1 e.2
    | none =>
      if !(c.interlocked) && js.any (fun j => decide (16 ≤ (t.cell q j).qSf.length)) then
        slotTrap t q 9 (timingTval 7 0 2 0 t.pcc)
      else if c.arch.inSpan || c.arch.revActive then spanFault t q 15 0
      else
        match stackPlace t q r push js with
        | (_, some e) => spanFault t q e.1 e.2
        | (u, none) => nextSlot u q

/-- R426. -/
def execRpush (f : EV) (s : State) : Host.Outcome State Fault Refusal :=
  .next (stackOp (.rpush f) (srcCode f.a).isNone true f.cm s)

/-- R426. -/
def execRpop (f : EV) (s : State) : Host.Outcome State Fault Refusal :=
  .next (stackOp (.rpop f) (dstCode f.d).isNone false f.cm s)

/-- R427: the new key and counter travel with the command. -/
def execRseed (f : ER) (s : State) : Host.Outcome State Fault Refusal :=
  let i : Instr := .rseed f
  .next (issueSlot s i false true fun t =>
    let a := (t.core t.cur).arch
    placeCmd t { engineReq t i f.cm with x1 := a.rx f.xa.toNat, x2 := a.rx f.xb.toNat })

/-- The pair's map entry at a core: the eight bytes Trestle read at dispatch (R244). -/
def CoreSt.pairEntry (c : CoreSt) (n : Nat) : Word :=
  match c.task with
  | some t => t.pairs.extractLsb' (64 * n) 64
  | none => 0

/-- The key of a lane of pair n: forward 2n, return 2n + 1. -/
def laneKey (n : Nat) (back : Bool) : Nat := 2 * n + (if back then 1 else 0)

/-- A send or a receive of pair fn[2:0]: ILL for an invalid entry or the wrong role, beside bad operand codes (R428); a send
takes one credit for each selected cell at issue (R429). -/
def pairOp (i : Instr) (f : EV) (send back bad : Bool) (s : State) : State :=
  let n := nfield f.fn 0 3
  let e := (s.core s.cur).pairEntry n
  let role := e.getLsbD 19
  let wants := if send then back else !back
  issueSlot s i bad true fun t =>
    if !(e.getLsbD 20) || role != wants then illTrap t t.cur else
    let m := (cellsOf f.cm).length
    let t1 := if send then t.modArch t.cur fun a =>
        { a with credits := sset 0 a.credits (laneKey n back) (sget 0 a.credits (laneKey n back) + m) } else t
    placeCmd t1 { engineReq t1 i f.cm with x1 := BitVec.ofNat 64 ((t.core t.cur).physQuad (nfield e 0 8) + 256 * nfield e 16 3) }

/-- R428, R429. -/
def execPsend (f : EV) (s : State) : Host.Outcome State Fault Refusal :=
  .next (pairOp (.psend f) f true false (srcCode f.a).isNone s)

/-- R428, R429. -/
def execPsendG (f : EV) (s : State) : Host.Outcome State Fault Refusal :=
  .next (pairOp (.psendG f) f true true (srcCode f.a).isNone s)

/-- R428, R429. -/
def execPrecv (f : EV) (s : State) : Host.Outcome State Fault Refusal :=
  .next (pairOp (.precv f) f false false (dstCode f.d).isNone s)

/-- R428, R429. -/
def execPrecvG (f : EV) (s : State) : Host.Outcome State Fault Refusal :=
  .next (pairOp (.precvG f) f false true (dstCode f.d).isNone s)

/-! ### Engine requests -/

/-- R430: the record's alignment and pages; the request leaves when the bundle commits, with sr.cecfg as it stands. -/
def execColl (f : ER) (s : State) : Host.Outcome State Fault Refusal :=
  .next (engineOp (.coll f) false (fun t =>
    let q := t.cur
    let c := t.core q
    let va := c.arch.rx f.xa.toNat
    if va.toNat % 64 ≠ 0 then alignTrap t q va
    else withPages t q va 192 1 fun u => postAction u q (.ce (quadDie q) q 0 va 0 0 c.arch.cecfg c.asid c.ident)) s)

/-- R431: ALIGN for a length that is not 32 to 65,536 in steps of 32. -/
def execShpin (f : ER) (s : State) : Host.Outcome State Fault Refusal :=
  .next (engineOp (.shpin f) false (fun t =>
    let q := t.cur
    let a := (t.core q).arch
    let len := (a.rx f.xc.toNat).toNat
    let va : Word := BitVec.ofNat 64 (nfield (a.rx f.xb.toNat) 0 48)
    if len < 32 ∨ 65536 < len ∨ len % 32 ≠ 0 then alignTrap t q va
    else withPages t q va len 1 fun u =>
      postAction u q (.ce (quadDie q) q 1 (a.rx f.xa.toNat) va (BitVec.ofNat 64 len) a.cecfg (u.core q).asid (u.core q).ident)) s)

/-- R431. -/
def execShrel (f : ER) (s : State) : Host.Outcome State Fault Refusal :=
  .next (engineOp (.shrel f) false (fun t =>
    let q := t.cur
    let a := (t.core q).arch
    postAction t q (.ce (quadDie q) q 2 (a.rx f.xa.toNat) 0 0 a.cecfg (t.core q).asid (t.core q).ident)) s)

/-- R432: ALIGN for a bad address or length, then the pages of the block. -/
def execNnq (f : ER) (s : State) : Host.Outcome State Fault Refusal :=
  .next (engineOp (.nnq f) false (fun t =>
    let q := t.cur
    let a := (t.core q).arch
    let va := a.rx f.xa.toNat
    let len := (a.rx f.xb.toNat).toNat
    if va.toNat % 64 ≠ 0 ∨ len < 128 ∨ 4096 < len ∨ len % 32 ≠ 0 then alignTrap t q va
    else withPages t q va len 1 fun u => postAction u q (.nnq (quadDie q) q va.toNat len (u.core q).asid)) s)

/-- R433: the image is read at issue; the predicate is pending until Trestle has decided. -/
def execTspawn (f : ER) (s : State) : Host.Outcome State Fault Refusal :=
  .next (engineOp (.tspawn f) false (fun t =>
    let q := t.cur
    let a := (t.core q).arch
    let w := a.rx f.xa.toNat
    let pd := f.fn.toNat % 32
    if ldmAddrOk w 64 = false then alignTrap t q w
    else
      let t1 := if pd = 0 then t else t.modCore q fun c => { c with pendPreds := c.pendPreds ++ [pd] }
      postAction t1 q (.spawn q (nfield (a.rx f.xb.toNat) 0 12) pd (bitsOfBytes 512 (a.ldmBytes w.toNat 64)) (t1.core q).asid (t1.core q).binding)) s)

/-- R434: the arrival-match entry is written in cycle issue + 1, after the messages of that cycle have been tested. -/
def execNatm (f : ER) (s : State) : Host.Outcome State Fault Refusal :=
  .next (engineOp (.natm f) false (fun t =>
    let q := t.cur
    let a := (t.core q).arch
    let x := a.rx f.xa.toNat
    let v := nfield (a.rx f.xb.toNat) 0 32 + 2 ^ 32 * nfield (a.rx f.xc.toNat) 0 32
      + 2 ^ 64 * (nfield x 16 12 + 2 ^ 14 * nfield x 30 2)
    nextSlot (writeLater t q 2 (.arrivalEntry (nfield x 0 10)) (BitVec.ofNat 1024 v)) q) s)

/-! ### Overlays and planes -/

/-- R435: ALIGN, right X on every page, the flag word; the shadow plane's tag is invalid from issue. -/
def execOvl (f : ER) (s : State) : Host.Outcome State Fault Refusal :=
  .next (engineOp (.ovl f) false (fun t =>
    let q := t.cur
    let a := (t.core q).arch
    let va := a.rx f.xa.toNat
    let spec := a.rx f.xb.toNat
    let val := a.rx f.xc.toNat
    if va.toNat % 65536 ≠ 0 then alignTrap t q va
    else withPages t q va 65536 4 fun u => withWord u q spec fun v =>
      let c := v.core q
      let p := 1 - c.active
      let w := remember v q c.bid (.tag p) (tagValue (sget none c.tags p))
      postAction (w.modCore q fun c => { c with tags := sset none c.tags p none, ovlBusy := true }) q
        (.ovl c.asid va.toNat spec val)) s)

/-- What slot A of the current bundle holds for PSWAP: not a drain point, a quashed one, RGN or TEND. -/
inductive DrainPoint where
  | none | quashed | rgn | tend
  deriving DecidableEq, Repr

/-- The drain point in slot A of the current bundle. -/
def CoreSt.drainPoint (c : CoreSt) : DrainPoint :=
  match c.slotInstr .a with
  | .rgn f => if c.arch.guardTrue f.pg f.ng then .rgn else .quashed
  | .tend f => if c.arch.guardTrue f.pg f.ng then .tend else .quashed
  | _ => .none

/-- R436: ILL outside a drain point or with an invalid shadow tag; the swap follows the drain of RGN, or the completion of the
run beside TEND. -/
def execPswap (f : EI) (s : State) : Host.Outcome State Fault Refusal :=
  let c := s.core s.cur
  let p := c.drainPoint
  let ill := p == .none || (p != .quashed && (sget none c.tags (1 - c.active)).isNone)
  .next (issueSlot s (.pswap f) false true fun t =>
    let q := t.cur
    if ill then illTrap t q
    else if p = .quashed then nextSlot t q
    else nextSlot (t.modCore q fun c => { c with sync := some (.pswap (f.imm.toNat % 2048)) }) q)

/-! ### Ports and generators -/

/-- The logical count and walk length of port p in the cells of a list become n and len (R165, R439, R440). -/
def setPortCount (a : Arch) (p n len : Nat) (js : List Nat) : Arch :=
  { a with
    portCnt := js.foldl (fun m j => sset 0 m (portKey j p) n) a.portCnt
    portLen := js.foldl (fun m j => sset 0 m (portKey j p) len) a.portLen }

/-- A port command that changes the counts at issue when its guard is true. -/
def portPlace (s : State) (r : CellReq) (p n len : Nat) (bind : Bool) : State :=
  let js := cellsOf r.cm
  let s1 := if r.gtrue then s.modArch s.cur fun a =>
      let b := setPortCount a p n len js
      if bind && (s.core s.cur).spanNow.isSome then { b with spanPorts := js.map (portKey · p) ++ b.spanPorts } else b
    else s
  placeCmd s1 r

/-- R439: the set is captured and checked at issue; ALIGN with the base for a bad one. -/
def execPbind (f : ER) (s : State) : Host.Outcome State Fault Refusal :=
  let i : Instr := .pbind f
  .next (issueSlot s i false true fun t =>
    let q := t.cur
    let set := sget 0 (t.core q).arch.gens (nfield f.fn 3 4)
    if setOk set = false then slotTrap t q 3 (BitVec.ofNat 64 (nfield set 0 64 % 2 ^ 48))
    else portPlace t { engineReq t i f.cm with set := set, x1 := BitVec.ofNat 64 (nfield f.fn 0 3) } (nfield f.fn 0 3)
      (setLength set) (setLength set) true)

/-- R439. -/
def execPbindOff (f : ER) (s : State) : Host.Outcome State Fault Refusal :=
  let i : Instr := .pbindOff f
  .next (issueSlot s i false true fun t =>
    portPlace t { engineReq t i f.cm with x1 := BitVec.ofNat 64 (nfield f.fn 0 3) } (nfield f.fn 0 3) 0 0 false)

/-- R438: gm is written at issue + 4 from the LDM as it stands at issue. -/
def execPparm (f : ER) (s : State) : Host.Outcome State Fault Refusal :=
  .next (engineOp (.pparm f) false (fun t =>
    let q := t.cur
    let a := (t.core q).arch
    let w := a.rx f.xa.toNat
    if ldmAddrOk w 128 = false then alignTrap t q w
    else nextSlot (writeLater t q 4 (.gen (f.fn.toNat % 16)) (a.ldmLine w.toNat)) q) s)

/-- R440: ILL for an unbound port, ALIGN for an entry past the walk. -/
def execPhase (f : EI) (s : State) : Host.Outcome State Fault Refusal :=
  let i : Instr := .phase f
  let c := s.core s.cur
  let p := f.imm.toNat % 8
  let js := cellsOf f.cm
  let e := nfield (c.arch.rx f.xa.toNat) 0 40 + f.imm.toNat / 8
  let len (j : Nat) : Nat := sget 0 c.arch.portLen (portKey j p)
  .next (issueSlot s i false true fun t =>
    let q := t.cur
    if js.any fun j => len j == 0 then illTrap t q
    else if js.any fun j => decide (len j ≤ e) then slotTrap t q 3 (BitVec.ofNat 64 e)
    else
      let t1 := t.modArch q fun a =>
        { a with portCnt := js.foldl (fun m j => sset 0 m (portKey j p) (len j - e)) a.portCnt }
      placeCmd t1 { engineReq t1 i f.cm with x1 := BitVec.ofNat 64 p, x2 := BitVec.ofNat 64 e })

end Sys2Proof.Machine
end

