-- ==== Sys2Proof/Machine/Tile.lean ====
section
/-! DEFINITION. The tile and matrix instructions of slot T: format words, what is checked at issue, and the arithmetic of
passes, drains and sums (R395 to R413). The start of a queued command is in Machine/Start.lean. -/

namespace Sys2Proof.Machine

/-! ### Format words (R395, R396) -/

def fmtAt (w : Word) : Nat := nfield w 0 4
def fmtBt (w : Word) : Nat := nfield w 4 4
def fmtAs (w : Word) : Bool := w.getLsbD 8
def fmtBs (w : Word) : Bool := w.getLsbD 9
def fmtAscl (w : Word) : Nat := nfield w 10 2
def fmtBscl (w : Word) : Nat := nfield w 12 2
def fmtAzp (w : Word) : Nat := nfield w 14 8
def fmtBzp (w : Word) : Nat := nfield w 22 8
def fmtSp (w : Word) : Nat := nfield w 30 2
def fmtAcc (w : Word) : Nat := nfield w 32 2
def fmtAsat (w : Word) : Bool := w.getLsbD 34
def fmtOt (w : Word) : Nat := nfield w 35 3
def fmtOn (w : Word) : Bool := w.getLsbD 38
def fmtOrm (w : Word) : Nat := nfield w 39 3
def fmtOsat (w : Word) : Bool := w.getLsbD 42
def fmtRq (w : Word) : Bool := w.getLsbD 43
def fmtLay (w : Word) : Nat := nfield w 44 2

/-- The width of an operand type. -/
def opBits (t : Nat) : Nat := if t < 2 then 16 else if t < 5 then 8 else 4

/-- int8 or int4. -/
def opInt (t : Nat) : Bool := decide (t = 4 ∨ t = 5)

/-- A scale mode suits a type. -/
def scaleSuits (t scl : Nat) : Bool :=
  if t = 2 ∨ t = 3 then decide (scl < 2) else if t = 6 then decide (scl = 1) else if t = 7 then decide (scl = 2) else decide (scl = 0)

/-- An accumulator type suits an operand type. -/
def accSuits (t acc : Nat) : Bool := opInt t == decide (acc = 1)

/-- The word obeys the rules on the fields that an instruction uses (R396, R402, R408, R412). -/
def wordOk (i : Instr) (w : Word) : Bool :=
  let both := decide (fmtAt w < 8) && decide (fmtBt w < 8) && scaleSuits (fmtAt w) (fmtAscl w)
    && scaleSuits (fmtBt w) (fmtBscl w) && decide (opBits (fmtAt w) = opBits (fmtBt w))
    && (opInt (fmtAt w) == opInt (fmtBt w)) && accSuits (fmtAt w) (fmtAcc w)
  decide (nfield w 46 18 = 0) &&
    match i with
    | .tld _ | .tst _ | .tfill _ => decide (fmtAscl w ≠ 3)
    | .wld _ => decide (fmtBt w < 8) && scaleSuits (fmtBt w) (fmtBscl w) && accSuits (fmtBt w) (fmtAcc w)
    | .mma _ => both && decide (fmtSp w = 0)
    | .mmas _ => both && decide (fmtSp w ≠ 0) && decide (opBits (fmtAt w) ≠ 4) && decide (fmtAscl w = 0)
        && decide (fmtBscl w = 0)
    | .drain _ => !(fmtOn w && tyFloat (fmtOt w)) && decide (fmtOrm w < 6)
    | .trsum _ | .tcsum _ => opInt (fmtAt w)
    | _ => true

/-- The command pops a format word (R402). -/
def popsWord : Instr → Bool
  | .fpush _ => false
  | _ => true

/-! ### Shapes (R399 to R401) -/

/-- 16-bit accumulation. -/
def accNarrow (w : Word) : Bool := decide (2 ≤ fmtAcc w)

/-- Columns N of a pass. -/
def passN (w : Word) : Nat := if accNarrow w then 512 else 256

/-- K of a dense pass of operand width b. -/
def denseK (b : Nat) (narrow : Bool) : Nat := 2048 / b / (if narrow then 2 else 1)

/-- Stored values per group of 128 positions (R395, R219). -/
def sparseN (sp : Nat) : Nat := if sp = 1 then 64 else if sp = 2 then 32 else 16

/-- Dense positions an A row covers. -/
def passK (w : Word) : Nat :=
  let k := denseK (opBits (fmtAt w)) (accNarrow w)
  if fmtSp w = 0 then k else k * min (128 / sparseN (fmtSp w)) 4

/-- The rules of R400 on row0, h and the lines of source code ta; a port has none. -/
def rowsOk (w : Word) (ta row0 h : Nat) : Bool :=
  if 20 ≤ ta then true
  else if 16 ≤ ta then decide (row0 = 0 ∧ h = 0)
  else
    let cols := 2048 / opBits (fmtAt w)
    let lines := if 8 ≤ ta then cols else 256
    let lw := if 8 ≤ ta then 256 else cols
    let ka := passK w
    if ka ≤ lw then decide ((h + 1) * ka ≤ lw ∧ row0 + 64 ≤ lines)
    else decide (h = 0 ∧ row0 + 64 * (ka / lw) ≤ lines)

/-! ### Operand values (R218, R219) -/

/-- A matrix operand: NaN, an infinity, or a signed magnitude in units of 2^-160 (of 1 for integer operands). -/
inductive MVal where
  | nan
  | inf (neg : Bool)
  | fin (neg : Bool) (mag : Nat)
  deriving DecidableEq, Repr

/-- The unit exponent of a type's values. -/
def opShift (t : Nat) : Nat := if opInt t then 0 else 160

/-- A floating code times 2^sc as a matrix operand. -/
def floatVal (f : Fmt) (c : Nat) (sc : Int) : MVal :=
  let neg := decide (c / 2 ^ (f.ew + f.mw) % 2 = 1)
  let idx := c % 2 ^ (f.ew + f.mw)
  let E := idx / 2 ^ f.mw
  let F := idx % 2 ^ f.mw
  if f.hasInf && decide (E = 2 ^ f.ew - 1) then if F = 0 then .inf neg else .nan
  else if f.fp8n && decide (idx = 2 ^ (f.ew + f.mw) - 1) then .nan
  else
    let n := if E = 0 then F else 2 ^ f.mw + F
    let e : Int := (max E 1 : Nat) - (f.bias : Int) - f.mw + sc + 160
    .fin neg (n * 2 ^ e.toNat)

/-- The value of a code of operand type t with signedness, zero point, scale mode and scale byte (R218). -/
def opVal (t : Nat) (natural : Bool) (zp scl code sb : Nat) : MVal :=
  if opInt t then
    let q : Int := if natural then (code : Int) else signedOf (opBits t) code
    let z : Int := if natural then (zp : Int) else signedOf 8 zp
    .fin (decide (q < z)) (q - z).natAbs
  else if t = 7 then
    if sb % 64 = 63 then .nan
    else
      let e := sb % 64 + 128
      if sb / 64 = 0 then .fin (decide (8 ≤ code)) ((signedOf 4 code).natAbs * 2 ^ e)
      else .fin (decide (8 ≤ code)) (((fx4Mags (sb / 64))[code % 8]?).getD 0 * 2 ^ (e - 3))
  else
    let f : Fmt := match t with
      | 0 => .bf16
      | 1 => .f16
      | 2 => .e4m3
      | 3 => .e5m2
      | _ => .e2m1
    if scl = 1 then if sb = 0xFF then .nan else floatVal f code ((sb : Int) - 127)
    else floatVal f code 0

/-- The code and scale byte at element (r, c) of a tile held as its 64 rows of 1 KiB, read through a port. -/
def tileCode (rows scales : Sparse Row) (col : Bool) (w r c : Nat) : Nat × Nat :=
  let bit := 2048 * (r % 4) + c * w
  let at_ := if col then 8 * c + r / 32 else 16 * r + c / 32
  (((sget 0 rows (r / 4)).toNat >>> bit) % 2 ^ w, (rowByte (sget 0 scales (at_ / 1024)) (at_ % 1024)).toNat)

/-- Element e of the sequence of a tile through a port (R401). -/
def seqElem (col : Bool) (w e : Nat) : Nat × Nat :=
  if col then (e % 256, e / 256) else (e / (2048 / w), e % (2048 / w))

/-- Row i of a tile source of a pass in the form of an accumulator row or a port entry: its codes from byte 0 on and, for a block-scaled
type, the scale of each 32 of them from byte 256 on (R400). -/
def packTileRow (w : Word) (ta row0 h i : Nat) (rows scales : Sparse Row) : Row :=
  let b := opBits (fmtAt w)
  let ka := passK w
  let col := decide (8 ≤ ta)
  let lw := if col then 256 else 2048 / b
  let m := ka / lw
  let code (k : Nat) : Nat × Nat :=
    let line := if ka ≤ lw then row0 + i else row0 + m * i + k / lw
    let pos := if ka ≤ lw then h * ka + k else k % lw
    if col then tileCode rows scales col b pos line else tileCode rows scales col b line pos
  let codes := packLanes b ((List.range ka).map fun k => (code k).1)
  if fmtAscl w = 0 then BitVec.ofNat 8192 codes
  else BitVec.ofNat 8192 (codes + 2 ^ 2048 * packLanes 8 ((List.range (ka / 32)).map fun k => (code (32 * k)).2))

/-- The A row of a pass as operand values, from an accumulator row, a port entry or a packed tile row (R400). -/
def aRow (w : Word) (given : Row) : Array MVal :=
  let t := fmtAt w
  ((List.range (passK w)).map fun k =>
    opVal t (fmtAs w) (fmtAzp w) (fmtAscl w) (laneNat given (opBits t) k) (rowByte given (256 + k / 32)).toNat).toArray

/-- B(k, n) of a dense pass (R401). -/
def bElem (w : Word) (col : Bool) (rows scales : Sparse Row) (k n : Nat) : MVal :=
  let t := fmtBt w
  let b := opBits t
  let e := seqElem col b (n * passK w + k)
  let cs := tileCode rows scales col b e.1 e.2
  opVal t (fmtBs w) (fmtBzp w) (fmtBscl w) cs.1 cs.2

/-- The stored values of column n of a sparse pass with their dense positions (R219, R401). -/
def sparseCol (w : Word) (col : Bool) (rows scales idx : Sparse Row) (n : Nat) : List (Nat × MVal) :=
  let t := fmtBt w
  let b := opBits t
  let sn := sparseN (fmtSp w)
  let ks := passK w * sn / 128
  (List.range ks).map fun s =>
    let g := s / sn
    let j := s % sn
    let at_ := n * ks + g * sn
    let byte (o : Nat) : Nat := (rowByte (sget 0 idx ((at_ + o) / 1024)) ((at_ + o) % 1024)).toNat
    let pair := byte (7 * j / 8) + 256 * byte (7 * j / 8 + 1)
    let p := pair / 2 ^ (7 * j % 8) % 128
    let e := seqElem col b (n * ks + s)
    let cs := tileCode rows scales col b e.1 e.2
    (128 * g + p, opVal t (fmtBs w) (fmtBzp w) (fmtBscl w) cs.1 cs.2)

/-! ### Chunks and accumulation (R216, R217) -/

/-- A chunk sum as it grows: the exact total, whether a NaN arose, whether a positive or a negative infinity arose, whether every
product so far is -0. -/
structure ChunkSum where
  total : Int
  nan : Bool
  pos : Bool
  neg : Bool
  allNeg : Bool
  deriving DecidableEq, Repr

/-- The empty chunk. -/
def ChunkSum.zero : ChunkSum := { total := 0, nan := false, pos := false, neg := false, allNeg := true }

/-- One product more. -/
def ChunkSum.push (c : ChunkSum) (a b : MVal) : ChunkSum :=
  let infin (n : Bool) : ChunkSum := if n then { c with neg := true } else { c with pos := true }
  match a, b with
  | .nan, _ => { c with nan := true }
  | _, .nan => { c with nan := true }
  | .inf x, .inf y => infin (x != y)
  | .inf x, .fin y m => if m = 0 then { c with nan := true } else infin (x != y)
  | .fin x m, .inf y => if m = 0 then { c with nan := true } else infin (x != y)
  | .fin x m, .fin y n =>
    if m * n = 0 then { c with allNeg := c.allNeg && (x != y) }
    else { c with allNeg := false, total := if x != y then c.total - (m * n : Nat) else c.total + (m * n : Nat) }

/-- The value of a finished chunk in units of 2^-sh (R212, R216). -/
def ChunkSum.val (c : ChunkSum) (sh : Nat) : FVal :=
  if c.nan || (c.pos && c.neg) then .nan false (2 ^ 22) 23
  else if c.pos then .inf false
  else if c.neg then .inf true
  else if c.total = 0 then .fin c.allNeg 0
  else .fin (decide (c.total < 0)) (mkRat c.total.natAbs (2 ^ sh))

/-- The format of a floating accumulator type. -/
def accFmt (acc : Nat) : Fmt :=
  match acc with
  | 2 => .bf16
  | 3 => .f16
  | _ => .f32

/-- Lane width of an accumulator type. -/
def accBits (acc : Nat) : Nat := if 2 ≤ acc then 16 else 32

/-- One chunk added to a floating accumulator: the code and the flags sat, ovf (R216). -/
def accFloat (f : Fmt) (a : Nat) (s : FVal) : Nat × BitVec 4 :=
  match f.decode a with
  | .nan n fr mw => (f.quiet n fr mw, 0)
  | v =>
    if s.isNaN then (f.canonNaN, 0)
    else
      match FVal.sum .rne [v, s] with
      | .nan _ _ _ => (f.canonNaN, 0)
      | .inf n => (f.inf n, 0)
      | .fin n x =>
        let r := f.round .rne false n x 0
        (r.1, flagBits false false false r.2)

/-- One chunk added to an i32 accumulator (R217). -/
def accInt (sat : Bool) (a : Nat) (s : Int) : Nat × BitVec 4 :=
  let v := signedOf 32 a + s
  if sat then
    let c := clampInt (-(2 ^ 31)) (2 ^ 31 - 1) v
    (codeOf 32 c, flagBits false false (c != v) false)
  else (codeOf 32 v, flagBits false false false (signedOf 32 (codeOf 32 v) != v))

/-- A chunk added to an accumulator of type acc. -/
def accAdd (acc : Nat) (sat : Bool) (sh a : Nat) (c : ChunkSum) : Nat × BitVec 4 :=
  if acc = 1 then accInt sat a c.total else accFloat (accFmt acc) a (c.val sh)

/-- A dot product over K in chunks of 32, added to an accumulator (R407): term k gives the k-th product. -/
def dotInto (acc : Nat) (sat : Bool) (sh chunks a : Nat) (chunk : Nat → ChunkSum) : Nat × BitVec 4 :=
  (List.range chunks).foldl (fun (p : Nat × BitVec 4) c =>
    let r := accAdd acc sat sh p.1 (chunk c)
    (r.1, p.2 ||| r.2)) (a, 0)

/-- The row a pass leaves: old row i, A row values, and B as its buffer holds it; with the flags it sets (R407, R408). -/
def passRow (w : Word) (tb : Nat) (b : BData) (old : Row) (a : Array MVal) : Row × BitVec 4 :=
  let col := decide (8 ≤ tb)
  let k := passK w
  let sh := opShift (fmtAt w) + opShift (fmtBt w)
  let acc := fmtAcc w
  let zero : MVal := .fin false 0
  let av (j : Nat) : MVal := a.getD j zero
  let dense (n c : Nat) : ChunkSum :=
    (List.range 32).foldl (fun s j => s.push (av (32 * c + j)) (bElem w col b.rows b.scales (32 * c + j) n)) ChunkSum.zero
  let lane (p : Nat × Nat) : Nat × BitVec 4 :=
    if fmtSp w = 0 then dotInto acc (fmtAsat w) sh (k / 32) p.1 (dense p.2)
    else
      let st := sparseCol w col b.rows b.scales b.idx p.2
      let named := st.map fun x => x.1
      dotInto acc (fmtAsat w) sh (k / 32) p.1 fun c =>
        let here := st.filter fun x => decide (x.1 / 32 = c)
        let s := here.foldl (fun s x => s.push (av x.1) x.2) ChunkSum.zero
        (List.range 32).foldl (fun s j => if named.contains (32 * c + j) then s else s.push (av (32 * c + j)) zero) s
  let ls := (rowLanes old (accBits acc)).zipIdx.map lane
  (rowOfLanes (accBits acc) (ls.map fun p => p.1), ls.foldl (fun f p => f ||| p.2) 0)

/-! ### Drains (R410, R220) -/

/-- x × M + z with one rounding to follow; a NaN of x, then of M, is carried (R410). -/
def requantise (m : RMode) (x mul : FVal) (z : Int) : FVal :=
  match firstNaN [x, mul] with
  | some v => v
  | none => FVal.sum m [x.mul mul, ofIntVal z]

/-- One element drained: the output code and the status bits nan, inf, sat, ovf that it finds; an output whose store its guard
suppresses is converted and not written (R210, R220). -/
def drainLane (w : Word) (x : Nat) (mul : Nat) (z : Int) (u : Nat) (written : Bool) : Nat × BitVec 4 :=
  let m := rmode (fmtOrm w)
  let v := if fmtAcc w = 1 then ofIntVal (signedOf 32 x) else (accFmt (fmtAcc w)).decode x
  let y := if fmtRq w then requantise m v (Fmt.f32.decode mul) z else v
  let isInf (t : FVal) : Bool := match t with | .inf _ => true | _ => false
  let ot := fmtOt w
  if tyFloat ot then
    let f := tyFmt ot
    let r := f.ofVal m (fmtOsat w) y u
    let out := f.decode r.1
    let past := r.2 || (isInf y && !f.hasInf)
    (r.1, flagBits (v.isNaN || out.isNaN) (isInf v || (isInf out && written)) (past && fmtOsat w) past)
  else
    let r := toIntCode (tyWidth ot) (fmtOn w) m y u
    (r.1, flagBits (v.isNaN || y.isNaN) (isInf v) r.2 r.2)

/-- An output row of a drain as bytes, none where the column's guard is false, and the status bits found; table gives M and z of a
column. -/
def drainRow (w : Word) (old : Row) (table : Nat → Nat × Int) (draw : Nat → Nat) (g : Pred) : List (Option Byte) × BitVec 4 :=
  let wd := tyWidth (fmtOt w) / 8
  let ls := (rowLanes old (accBits (fmtAcc w))).zipIdx.map fun p =>
    let t := table p.2
    (p.2, drainLane w p.1 t.1 t.2 (draw p.2) (g.getLsbD p.2))
  (ls.flatMap fun p => (bytesOf (BitVec.ofNat 32 p.2.1) wd).map fun b => if g.getLsbD p.1 then some b else none,
   ls.foldl (fun f p => f ||| p.2.2) 0)

/-! ### Raw sums (R412) -/

/-- A raw code as a signed or natural integer. -/
def rawInt (w : Word) (c : Nat) : Int := if fmtAs w then (c : Int) else signedOf (opBits (fmtAt w)) c

/-- The sums of the rows of a tile. -/
def rowSums (w : Word) (rows : Sparse Row) : List Int :=
  let b := opBits (fmtAt w)
  (List.range 256).map fun r =>
    (List.range (2048 / b)).foldl (fun s c => s + rawInt w (tileCode rows [] false b r c).1) 0

/-- The sums of its columns. -/
def colSums (w : Word) (rows : Sparse Row) : List Int :=
  let b := opBits (fmtAt w)
  (List.range (2048 / b)).map fun c =>
    (List.range 256).foldl (fun s r => s + rawInt w (tileCode rows [] false b r c).1) 0

/-! ### Issue -/

/-- A tile slot whose operand codes R402 does not list. -/
def tileIll : Instr → Bool
  | .tld f | .tfill f | .tzero f => decide (8 ≤ f.td.toNat)
  | .tst f => decide (8 ≤ f.ta.toNat)
  | .wld f => decide (16 ≤ f.tb.toNat)
  | .mma f | .mmas f => !(decide (8 ≤ f.td.toNat ∧ f.td.toNat < 12 ∧ f.ta.toNat < 26 ∧ f.tb.toNat < 16))
  | .azero f => !(decide (8 ≤ f.td.toNat ∧ f.td.toNat < 12))
  | .drain f | .tstat f => !(decide (16 ≤ f.ta.toNat ∧ f.ta.toNat < 20))
  | .tclr f => decide (12 ≤ f.td.toNat)
  | .trsum f | .tcsum f => !(decide (8 ≤ f.td.toNat ∧ f.td.toNat < 12 ∧ f.ta.toNat < 8))
  | _ => false

/-- The trap that the register operand of a command raises with the word of one cell: cause and sr.tval, none for ILL (R400,
R404, R410, R412). -/
def tileParams (i : Instr) (x : Word) (w : Word) : Option (Option (Nat × Word)) :=
  let addr := nfield x 0 22
  let align (a : Nat) : Option (Option (Nat × Word)) := some (some (3, BitVec.ofNat 64 a))
  match i with
  | .tld _ | .tfill _ | .tst _ =>
    if addr % 65536 ≠ 0 then align addr
    else if fmtAscl w ≠ 0 ∧ spmSize ≤ addr + 65536 then align (addr + 65536)
    else none
  | .drain _ =>
    let stride := nfield x 22 16
    let len := passN w * tyWidth (fmtOt w) / 8
    if addr % 64 ≠ 0 ∨ stride % 64 ≠ 0 ∨ spmSize < addr + 63 * stride + len then align addr else none
  | .mma f | .mmas f => if rowsOk w f.ta.toNat (nfield x 0 8) (nfield x 8 2) then none else some none
  | .tcsum _ => if fmtAt w = 5 ∧ nfield x 0 6 = 63 then some none else none
  | _ => none

/-- What the words of the selected cells make a command raise at issue, cell by cell: FMTQ, ILL, then its parameters. -/
def tileTrap (a : Arch) (i : Instr) (x : Word) : List Nat → Option (Option (Nat × Word))
  | [] => none
  | j :: r =>
    if !(popsWord i) then none
    else
      match (a.fmts j).head? with
      | none => some (some (8, portTval 7 j))
      | some w =>
        if !(wordOk i w) then some none
        else
          match tileParams i x w with
          | some t => some t
          | none => tileTrap a i x r

/-- In the replay of a walk, FPUSH and the commands that take a word use the walk's own queues of words (R415). -/
def replayWord (c : CoreSt) (push : Option Word) (pop : Bool) (js : List Nat) : CoreSt :=
  match c.rev with
  | some w => { c with rev := some { w with
      fmts := js.foldl (fun m j =>
        let l := sget [] m j
        sset [] m j (match push with
          | some v => l ++ [v]
          | none => if pop then l.drop 1 else l)) w.fmts } }
  | none => c

/-- A tile slot at issue (R396, R400, R402, R404, R410): the register operand and the guard are read, the words of the cells
are checked, and the command is placed. -/
def tileIssue (i : Instr) (f : TG) (s : State) : State :=
  issueSlot s i (tileIll i) true fun t =>
    let q := t.cur
    let c := t.core q
    let x := c.arch.rx f.xs.toNat
    let js := cellsOf f.cm
    let g : Bool := match i with
      | .drain _ => true
      | _ => c.arch.guardTrue f.pg f.ng
    let isPush : Bool := match i with
      | .fpush _ => true
      | _ => false
    let push : Option Word := if isPush && g then some x else none
    let r : CellReq :=
      { plainReq i f.cm 0 (c.arch.guardBits f.pg f.ng) g with x1 := x, popsFmt := popsWord i, pushFmt := push }
    if c.arch.walking then
      if isPush then nextSlot (t.setCore q (replayWord c push false js)) q
      else
        match js.findSome? fun j => tileParams i x (replayFmt t q j i) with
        | some (some e) => slotTrap t q e.1 e.2
        | some none => illTrap t q
        | none => placeCmd t r
    else
      match tileTrap c.arch i x js with
      | some (some e) => slotTrap t q e.1 e.2
      | some none => illTrap t q
      | none =>
        let badDraw : Bool := match i with
          | .drain _ => c.spanNow.isSome && js.any fun j => match (c.arch.fmts j).head? with
              | some w => fmtOrm w == 5 && fmtAcc w != 0
              | none => false
          | _ => false
        let note : Bool := match i with
          | .tstat _ => g && !js.isEmpty
          | _ => false
        if badDraw then spanFault t q 13 0
        else placeCmd (if note then t.modCore q fun c => { c with tstats := c.tstats ++ [(c.bid, js.length, false)] } else t) r

/-! ### Meanings -/

/-- R404: the command enters the matrix queue of the selected cells. -/
def execTld (f : TG) (s : State) : Host.Outcome State Fault Refusal := .next (tileIssue (.tld f) f s)

/-- R404: the command enters the matrix queue of the selected cells. -/
def execTst (f : TG) (s : State) : Host.Outcome State Fault Refusal := .next (tileIssue (.tst f) f s)

/-- R404: the command enters the matrix queue of the selected cells. -/
def execTfill (f : TG) (s : State) : Host.Outcome State Fault Refusal := .next (tileIssue (.tfill f) f s)

/-- R404: the command enters the matrix queue of the selected cells. -/
def execTzero (f : TG) (s : State) : Host.Outcome State Fault Refusal := .next (tileIssue (.tzero f) f s)

/-- R405: the command enters the matrix queue of the selected cells. -/
def execWld (f : TG) (s : State) : Host.Outcome State Fault Refusal := .next (tileIssue (.wld f) f s)

/-- R407: the command enters the matrix queue of the selected cells. -/
def execMma (f : TG) (s : State) : Host.Outcome State Fault Refusal := .next (tileIssue (.mma f) f s)

/-- R408: the command enters the matrix queue of the selected cells. -/
def execMmas (f : TG) (s : State) : Host.Outcome State Fault Refusal := .next (tileIssue (.mmas f) f s)

/-- R409: the command enters the matrix queue of the selected cells. -/
def execAzero (f : TG) (s : State) : Host.Outcome State Fault Refusal := .next (tileIssue (.azero f) f s)

/-- R410: the command enters the matrix queue of the selected cells. -/
def execDrain (f : TG) (s : State) : Host.Outcome State Fault Refusal := .next (tileIssue (.drain f) f s)

/-- R413: the command enters the matrix queue of the selected cells. -/
def execFpush (f : TG) (s : State) : Host.Outcome State Fault Refusal := .next (tileIssue (.fpush f) f s)

/-- R411: the command enters the matrix queue of the selected cells. -/
def execTstat (f : TG) (s : State) : Host.Outcome State Fault Refusal := .next (tileIssue (.tstat f) f s)

/-- R409: the command enters the matrix queue of the selected cells. -/
def execTclr (f : TG) (s : State) : Host.Outcome State Fault Refusal := .next (tileIssue (.tclr f) f s)

/-- R412: the command enters the matrix queue of the selected cells. -/
def execTrsum (f : TG) (s : State) : Host.Outcome State Fault Refusal := .next (tileIssue (.trsum f) f s)

/-- R412: the command enters the matrix queue of the selected cells. -/
def execTcsum (f : TG) (s : State) : Host.Outcome State Fault Refusal := .next (tileIssue (.tcsum f) f s)

end Sys2Proof.Machine
end

