-- ==== Sys2Proof/Machine/Vector.lean ====
section
/-! DEFINITION. The vector instructions of slot V: which encodings are illegal, what each lane becomes, and the placing of
the command (R371 to R392). The start of a queued command is in Machine/Start.lean. -/

namespace Sys2Proof.Machine

/-! ### Encodings (R371, R372) -/

/-- The element types an instruction accepts. -/
def vecTypeOk : Instr → Bool
  | .vadd _ f | .vsub _ f | .vmul _ f | .vfma _ f | .vfnma _ f | .vscale _ f => tyFloat f.ty.toNat
  | .vmin f | .vmax f | .vabs f | .vneg f | .vcmpEq f | .vcmpNe f | .vcmpLt f | .vcmpLe f | .vcmpGt f
  | .vcmpGe f => tyFloat f.ty.toNat
  | .vclamp f => f.ty != 3 && f.ty != 4
  | .vrcp _ f | .vrsq _ f | .vexp2 _ f | .vlog2 _ f | .vcvtfx _ f => decide (f.ty.toNat < 3)
  | .viadd f | .visub f | .vimul f | .vimulh f | .vshl f | .vshr f | .vsra f | .vimin f | .vimax f | .viminn f
  | .vimaxn f | .vpcnt f | .viota f | .vicmpEq f | .vicmpNe f | .vicmpLt f | .vicmpLe f | .vicmpGt f
  | .vicmpGe f | .vicmpLtn f | .vicmpLen f | .vicmpGtn f | .vicmpGen f => !(tyFloat f.ty.toNat)
  | .vscan _ f | .vsegsum _ f | .vred _ f => f.ty != 3 && f.ty != 4
  | .vcxs f => f.ty == 0 || !(tyFloat f.ty.toNat)
  | .vtma f | .vtmm f | .vtmf f => f.ty == 0
  | .vrng f => f.b.toNat % 4 == 0 || tyFloat f.ty.toNat
  | _ => true

/-- A trio that starts at a register code lies within one accumulator (R391). -/
def trioOk (c : BitVec 9) : Bool := decide (c.toNat ≤ 253) && decide (c.toNat % 64 ≤ 61)

/-- Source type, natural flags, saturation and part of VCVT (R380). -/
def cvtSrc (f : VR) : Nat := nfield f.b 0 3
def cvtPart (f : VR) : Nat := nfield f.b 6 2

/-- The conditions on fields of one instruction beyond its type and operand codes (R372, R380 to R391). -/
def vecFieldsOk : Instr → Bool
  | .vfma _ f | .vfnma _ f => decide (f.d.toNat < 256)
  | .vsel f | .vins f => decide (f.d.toNat < 256)
  | .vtma f => trioOk f.d
  | .vtmm f => trioOk f.d && trioOk f.a
  | .vtmf f => trioOk f.a && f.b.toNat % 4 != 3
  | .vcxs f =>
    let jj := nfield f.d 0 4
    let kk := nfield f.d 4 4
    decide (f.a.toNat < 256) && decide (f.b.toNat < 256) && decide (1 ≤ kk ∧ kk ≤ 10 ∧ jj < kk ∧ 2 ^ jj < tyLanes f.ty.toNat)
  | .vcvt _ f =>
    let ls := tyLanes (cvtSrc f)
    let ld := tyLanes f.ty.toNat
    (!(f.b.getLsbD 3) || !(tyFloat (cvtSrc f))) && (!(f.b.getLsbD 4) || !(tyFloat f.ty.toNat))
      && decide (cvtPart f < max ls ld / min ls ld)
  | .vcvtfx _ f => decide (nfield f.b 0 3 < 5)
  | .vbcast f => decide (f.b.toNat < tyLanes f.ty.toNat)
  | .vred _ f => f.b.toNat % 4 != 3
  | .vrng f => f.b.toNat % 4 != 3
  | _ => true

/-- A vector instruction whose encoding raises ILL (R295, R371, R372). -/
def vecIll (i : Instr) : Bool :=
  !(vecTypeOk i) || !(vecFieldsOk i) || (vecSources i).any (fun c => (srcCode c).isNone) ||
    (match i with
      | .vcxs _ => false
      | _ => match destCode i with
        | some c => (dstCode c).isNone
        | none => false)

/-! ### Lanes -/

/-- Four lists read side by side with their index. -/
def zipLanes (g : Nat → Nat → Nat → Nat → Nat) : Nat → List Nat → List Nat → List Nat → List Nat
  | j, a :: as, b :: bs, d :: ds => g j a b d :: zipLanes g (j + 1) as bs ds
  | _, _, _, _ => []

/-- A lane of a list, 0 past its end. -/
def laneAt (l : Array Nat) (j : Nat) : Nat := l.getD j 0

/-- The result row and byte enables of a function of each lane and the old destination. -/
def lanewise (ty : Nat) (g : Pred) (a b d : Row) (h : Nat → Nat → Nat → Nat → Nat) : Row × BitVec 1024 :=
  let w := tyWidth ty
  (rowOfLanes w (zipLanes h 0 (rowLanes a w) (rowLanes b w) (rowLanes d w)), laneMask (w / 8) (laneGuard g ty))

/-- VSCALE's lane: k beyond ±1,000 acts as ±1,000, which over- or underflows every code alike (R377). -/
def scaleLane (f : Fmt) (m : RMode) (u a : Nat) (k : Int) : Nat :=
  match f.decode a with
  | .nan n fr mw => f.quiet n fr mw
  | .inf n => f.inf n
  | .fin n x => (f.round m false n (x * pow2 (clampInt (-1000) 1000 k)) u).1

/-- The result of minimum or maximum is a's value, for the mask residual (R378). -/
def takesA (f : Fmt) (wantMax : Bool) (a b : Nat) : Bool :=
  let x := f.decode a
  let y := f.decode b
  if y.isNaN then true
  else if x.isNaN then false
  else (if wantMax then y.before x else x.before y) || x.eqv y

/-- VCLAMP's lane (R378). -/
def clampLane (ty a b : Nat) : Nat :=
  if tyFloat ty then
    let f := tyFmt ty
    match f.decode a with
    | .nan n fr mw => f.quiet n fr mw
    | _ =>
      if (f.decode b).isNaN then f.canonNaN
      else
        let h := b % 2 ^ (f.ew + f.mw)
        f.minMax false (f.minMax true a (f.code true h)) h
  else
    let w := tyWidth ty
    let x := signedOf w a
    let y := signedOf w b
    let h := min (if y < 0 then -y else y) (2 ^ (w - 1) - 1)
    codeOf w (clampInt (-h) h x)

/-- VCVT's conversion of one code (R213, R380). -/
def cvtLane (f : VR) (m : RMode) (u a : Nat) : Nat :=
  let st := cvtSrc f
  let ws := tyWidth st
  let v : FVal := if tyFloat st then (tyFmt st).decode a
    else ofIntVal (if f.b.getLsbD 3 then (a : Int) else signedOf ws a)
  if tyFloat f.ty.toNat then ((tyFmt f.ty.toNat).ofVal m (f.b.getLsbD 5) v u).1
  else (toIntCode (tyWidth f.ty.toNat) (f.b.getLsbD 4) m v u).1

/-- VCVT's row and enables: n lanes between part h of the wider row and the narrower one (R380). -/
def cvtRow (f : VR) (m : RMode) (draw : Nat → Nat) (g : Pred) (a : Row) : Row × BitVec 1024 :=
  let ls := tyLanes (cvtSrc f)
  let ld := tyLanes f.ty.toNat
  let n := min ls ld
  let h := cvtPart f
  let wd := tyWidth f.ty.toNat
  let src := (rowLanes a (tyWidth (cvtSrc f))).toArray
  let en := laneGuard g f.ty.toNat
  if ls ≤ ld then
    let vals := (List.range n).map fun j => cvtLane f m (draw j) (laneAt src j)
    (rowOfLanes wd (List.replicate (h * n) 0 ++ vals),
     laneMask (wd / 8) ((en.zipIdx).map fun p => p.1 && decide (h * n ≤ p.2) && decide (p.2 < h * n + n)))
  else
    let vals := (List.range n).map fun j => cvtLane f m (draw (h * n + j)) (laneAt src (h * n + j))
    (rowOfLanes wd vals, laneMask (wd / 8) en)

/-- VCVTFX's row and enables (R207, R214, R381). -/
def cvtFxRow (f : VR) (m : RMode) (draw : Nat → Nat) (g : Pred) (a : Row) : Row × BitVec 1024 :=
  let ty := f.ty.toNat
  let L := tyLanes ty
  let lanes := (rowLanes a (tyWidth ty)).toArray
  let blocks := (List.range (L / 32)).map fun k =>
    fx4Encode ((List.range 32).map fun i => (tyFmt ty).decode (laneAt lanes (32 * k + i))) (nfield f.b 0 3) m
      ((List.range 32).map fun i => draw (32 * k + i))
  let codes := blocks.flatMap fun b => b.2
  let bytes := (List.range (L / 2)).map fun i => (codes.toArray.getD (2 * i) 0) + 16 * (codes.toArray.getD (2 * i + 1) 0)
  let en := (laneGuard g ty).toArray
  let on (k : Nat) : Bool := en.getD (32 * k) false
  let mask := (List.range 1024).map fun i =>
    if i < L / 2 then on (i / 16) else if i < L / 2 + L / 32 then on (i - L / 2) else en.getD 0 false
  (rowOfLanes 8 (bytes ++ blocks.map fun b => b.1), laneMask 1 mask)

/-- The immediate lane count k' (R386). -/
def laneImm (f : VR) : Nat := if tyLanes f.ty.toNat = 1024 then 2 * f.b.toNat else f.b.toNat

/-- The row of an instruction that moves lanes: lane j of the result by the source's lanes and the old destination's lane. -/
def moveRow (f : VR) (g : Pred) (a d : Row) (h : Array Nat → Nat → Nat → Nat) : Row × BitVec 1024 :=
  let ty := f.ty.toNat
  let w := tyWidth ty
  let src := (rowLanes a w).toArray
  (rowOfLanes w ((rowLanes d w).zipIdx.map fun p => h src p.2 p.1), laneMask (w / 8) (laneGuard g ty))

/-- VCMPR's row (R386). -/
def compressRow (f : VR) (g : Pred) (a b : Row) : Row × BitVec 1024 :=
  let ty := f.ty.toNat
  let w := tyWidth ty
  let trip := (rowLanes a w).zip ((rowLanes b w).zip (laneGuard g ty))
  (rowOfLanes w ((trip.filter fun t => t.2.2 && t.2.1 != 0).map fun t => t.1), BitVec.allOnes 1024)

/-- One key precedes another in VCXS: signed integers, or numbers with -0 before +0 and NaNs after all (R387). -/
def keyPrecedes (ty a b : Nat) : Bool :=
  if ty = 0 then
    let x := Fmt.f32.decode a
    let y := Fmt.f32.decode b
    if x.isNaN then false else if y.isNaN then true else x.before y
  else decide (signedOf (tyWidth ty) a < signedOf (tyWidth ty) b)

/-- VCXS's rows: keys and payloads after one stage (R387). -/
def exchangeRows (f : VR) (g : Pred) (key pay : Row) : Row × Row × BitVec 1024 :=
  let ty := f.ty.toNat
  let w := tyWidth ty
  let L := tyLanes ty
  let dist := 2 ^ nfield f.d 0 4
  let block := 2 ^ nfield f.d 4 4
  let dn := f.d.getLsbD 8
  let ks := (rowLanes key w).toArray
  let ps := (rowLanes pay w).toArray
  let en := (laneGuard g ty).toArray
  let low (i : Nat) : Nat := if i / dist % 2 = 0 then i else i - dist
  let swaps (i : Nat) : Bool :=
    let lo := low i
    let hi := lo + dist
    let up := decide (lo / block % 2 = 0) != dn
    en.getD lo false && en.getD hi false &&
      (if up then keyPrecedes ty (laneAt ks hi) (laneAt ks lo) else keyPrecedes ty (laneAt ks lo) (laneAt ks hi))
  let from_ (i : Nat) : Nat := if swaps i then (if i / dist % 2 = 0 then i + dist else i - dist) else i
  let idx := (List.range L).map from_
  (rowOfLanes w (idx.map (laneAt ks)), rowOfLanes w (idx.map (laneAt ps)), laneMask (w / 8) (laneGuard g ty))

/-- The addition of VSCAN, VSEGSUM and VRED .sum in an element type: rounding, or wrapping for integers (R388, R389). -/
def sumLane (ty : Nat) (m : RMode) (u a b : Nat) : Nat :=
  if tyFloat ty then (tyFmt ty).add m u a b else (a + b) % 2 ^ tyWidth ty

/-- A value that starts an accumulation: a NaN is made quiet (R388). -/
def startLane (ty a : Nat) : Nat :=
  if tyFloat ty then
    match (tyFmt ty).decode a with
    | .nan n fr mw => (tyFmt ty).quiet n fr mw
    | _ => a
  else a

/-- The lanes of VSCAN and VSEGSUM from lane j on; prev is b's lane before (R388). -/
def scanFrom (ty : Nat) (m : RMode) (draw : Nat → Nat) (seg : Bool) :
    Nat → Option Nat → Option Nat → List (Nat × Nat × Bool) → List Nat
  | _, _, _, [] => []
  | j, acc, prev, (a, b, en) :: r =>
    let acc1 := if seg && prev != some b then none else acc
    if en then
      let v := match acc1 with
        | none => startLane ty a
        | some x => sumLane ty m (draw j) x a
      v :: scanFrom ty m draw seg (j + 1) (some v) (some b) r
    else 0 :: scanFrom ty m draw seg (j + 1) acc1 (some b) r

/-- VSCAN's and VSEGSUM's row. -/
def scanRow (f : VR) (m : RMode) (draw : Nat → Nat) (seg : Bool) (g : Pred) (a b : Row) : Row × BitVec 1024 :=
  let ty := f.ty.toNat
  let w := tyWidth ty
  let en := laneGuard g ty
  (rowOfLanes w (scanFrom ty m draw seg 0 none none ((rowLanes a w).zip ((rowLanes b w).zip en))), laneMask (w / 8) en)

/-- VRED's row (R389). -/
def redRow (f : VR) (m : RMode) (draw : Nat → Nat) (g : Pred) (a : Row) : Row × BitVec 1024 :=
  let ty := f.ty.toNat
  let w := tyWidth ty
  let en := laneGuard g ty
  let live := ((rowLanes a w).zip en).zipIdx.filterMap fun p => if p.1.2 then some (p.1.1, p.2) else none
  let lanes := (live.map fun p => p.2).toArray
  let op (pos x y : Nat) : Nat :=
    match f.b.toNat % 4 with
    | 0 => sumLane ty m (draw (lanes.getD pos 0)) x y
    | n => if tyFloat ty then (tyFmt ty).minMax (n == 1) x y
        else if (if n = 1 then decide (signedOf w y ≤ signedOf w x) else decide (signedOf w x ≤ signedOf w y)) then x else y
  let v := treeSum op 12 0 (live.map fun p => p.1)
  (rowOfLanes w (en.map fun _ => v), laneMask (w / 8) en)

/-- U_j of R390: the top m bits of a 64-bit draw as a code. -/
def unifLane (ty : Nat) (d : Word) : Nat :=
  let m := match ty with
    | 0 => 24
    | 1 => 8
    | 2 => 11
    | 3 => 4
    | _ => 3
  ((tyFmt ty).round .rne false false (mkRat (d.toNat / 2 ^ (64 - m) : Nat) (2 ^ m)) 0).1

/-- VRNG's lane (R390). -/
def rngLane (f : VR) (d : Word) (a : Nat) : Nat :=
  let ty := f.ty.toNat
  match f.b.toNat % 4 with
  | 0 => d.toNat % 2 ^ tyWidth ty
  | 1 => unifLane ty d
  | _ => if (tyFmt ty).cmp 2 (unifLane ty d) a then ((tyFmt ty).round .rne false false 1 0).1 else 0

/-- The row and enables of an instruction with one result row, from its operand rows a and b and the old destination d; K and C
give the draws (R375 to R390). -/
def vecRow (i : Instr) (K C : Word) (g : Pred) (a b d : Row) : Row × BitVec 1024 :=
  let u (j : Nat) : Nat := draw16 K C j
  let fl (rm : BitVec 3) (f : VR) (h : Fmt → RMode → Nat → Nat → Nat → Nat → Nat) : Row × BitVec 1024 :=
    lanewise f.ty.toNat g a b d fun j x y z =>
      h (tyFmt f.ty.toNat) (rmode rm.toNat) (if rm.toNat = 5 then u j else 0) x y z
  let int (f : VR) (h : Nat → Nat → Nat → Nat) : Row × BitVec 1024 :=
    lanewise f.ty.toNat g a b d fun _ x y _ => h (tyWidth f.ty.toNat) x y
  let cmp (f : VR) (h : Nat → Nat → Bool) : Row × BitVec 1024 :=
    lanewise f.ty.toNat g a b d fun _ x y _ => if h x y then 2 ^ tyWidth f.ty.toNat - 1 else 0
  match i with
  | .vadd rm f => fl rm f fun t m r x y _ => t.add m r x y
  | .vsub rm f => fl rm f fun t m r x y _ => t.sub m r x y
  | .vmul rm f => fl rm f fun t m r x y _ => t.mul m r x y
  | .vfma rm f => fl rm f fun t m r x y z => t.fma m r x y z false
  | .vfnma rm f => fl rm f fun t m r x y z => t.fma m r x y z true
  | .vscale rm f => fl rm f fun t m r x y _ => scaleLane t m r x (signedOf t.width y)
  | .vrcp rm f => fl rm f fun t m r x _ _ => basicSpecial 0 t m r x
  | .vrsq rm f => fl rm f fun t m r x _ _ => basicSpecial 1 t m r x
  | .vexp2 rm f => fl rm f fun t m r x _ _ => basicSpecial 2 t m r x
  | .vlog2 rm f => fl rm f fun t m r x _ _ => basicSpecial 3 t m r x
  | .vcvt rm f => cvtRow f (rmode rm.toNat) u g a
  | .vcvtfx rm f => cvtFxRow f (rmode rm.toNat) u g a
  | .vscan rm f => scanRow f (rmode rm.toNat) u false g a 0
  | .vsegsum rm f => scanRow f (rmode rm.toNat) u true g a b
  | .vred rm f => redRow f (rmode rm.toNat) u g a
  | .vmin f => lanewise f.ty.toNat g a b d fun _ x y _ => (tyFmt f.ty.toNat).minMax false x y
  | .vmax f => lanewise f.ty.toNat g a b d fun _ x y _ => (tyFmt f.ty.toNat).minMax true x y
  | .vabs f => int f fun w x _ => x % 2 ^ (w - 1)
  | .vneg f => int f fun w x _ => (x + 2 ^ (w - 1)) % 2 ^ w
  | .vclamp f => lanewise f.ty.toNat g a b d fun _ x y _ => clampLane f.ty.toNat x y
  | .viadd f => int f fun w x y => (x + y) % 2 ^ w
  | .visub f => int f fun w x y => (x + 2 ^ w - y) % 2 ^ w
  | .vimul f => int f fun w x y => x * y % 2 ^ w
  | .vimulh f => int f fun w x y => codeOf w (signedOf w x * signedOf w y / 2 ^ w)
  | .vand f => int f fun _ x y => x &&& y
  | .vor f => int f fun _ x y => x ||| y
  | .vxor f => int f fun _ x y => x ^^^ y
  | .vandn f => int f fun w x y => x &&& (2 ^ w - 1 - y)
  | .vshl f => int f fun w x y => x * 2 ^ (y % w) % 2 ^ w
  | .vshr f => int f fun w x y => x / 2 ^ (y % w)
  | .vsra f => int f fun w x y => codeOf w (signedOf w x / 2 ^ (y % w))
  | .vimin f => int f fun w x y => if signedOf w x ≤ signedOf w y then x else y
  | .vimax f => int f fun w x y => if signedOf w x ≤ signedOf w y then y else x
  | .viminn f => int f fun _ x y => min x y
  | .vimaxn f => int f fun _ x y => max x y
  | .vpcnt f => int f fun w x _ => (List.range w).foldl (fun n k => n + x / 2 ^ k % 2) 0
  | .vsel f => lanewise f.ty.toNat g a b d fun _ x y z => if z = 0 then y else x
  | .vmov f => int f fun _ x _ => x
  | .vbcast f => moveRow f g a d fun src _ _ => laneAt src f.b.toNat
  | .viota f => lanewise f.ty.toNat g a b d fun j _ _ _ => j % 2 ^ tyWidth f.ty.toNat
  | .vperm f =>
    let L := tyLanes f.ty.toNat
    let bs := (rowLanes b (tyWidth f.ty.toNat)).toArray
    moveRow f g a d fun src j _ =>
      laneAt src (if L = 1024 then laneAt bs j + 256 * (j / 256) else laneAt bs j % L)
  | .vrot f => moveRow f g a d fun src j _ => laneAt src ((j + laneImm f) % tyLanes f.ty.toNat)
  | .vextr f => moveRow f g a d fun src j _ => if j + laneImm f < tyLanes f.ty.toNat then laneAt src (j + laneImm f) else 0
  | .vins f => moveRow f g a d fun src j old => if laneImm f ≤ j then laneAt src (j - laneImm f) else old
  | .vcmpr f => compressRow f g a b
  | .vrng f => lanewise f.ty.toNat g a b d fun j x _ _ => rngLane f (drawAt K C j) x
  | .vcmpEq f => cmp f fun x y => (tyFmt f.ty.toNat).cmp 0 x y
  | .vcmpNe f => cmp f fun x y => (tyFmt f.ty.toNat).cmp 1 x y
  | .vcmpLt f => cmp f fun x y => (tyFmt f.ty.toNat).cmp 2 x y
  | .vcmpLe f => cmp f fun x y => (tyFmt f.ty.toNat).cmp 3 x y
  | .vcmpGt f => cmp f fun x y => (tyFmt f.ty.toNat).cmp 4 x y
  | .vcmpGe f => cmp f fun x y => (tyFmt f.ty.toNat).cmp 5 x y
  | .vicmpEq f => cmp f fun x y => intCond (tyWidth f.ty.toNat) 0 x y
  | .vicmpNe f => cmp f fun x y => intCond (tyWidth f.ty.toNat) 1 x y
  | .vicmpLt f => cmp f fun x y => intCond (tyWidth f.ty.toNat) 2 x y
  | .vicmpLe f => cmp f fun x y => intCond (tyWidth f.ty.toNat) 3 x y
  | .vicmpGt f => cmp f fun x y => intCond (tyWidth f.ty.toNat) 4 x y
  | .vicmpGe f => cmp f fun x y => intCond (tyWidth f.ty.toNat) 5 x y
  | .vicmpLtn f => cmp f fun x y => intCond (tyWidth f.ty.toNat) 6 x y
  | .vicmpLen f => cmp f fun x y => intCond (tyWidth f.ty.toNat) 7 x y
  | .vicmpGtn f => cmp f fun x y => intCond (tyWidth f.ty.toNat) 8 x y
  | .vicmpGen f => cmp f fun x y => intCond (tyWidth f.ty.toNat) 9 x y
  | _ => (0, 0)

/-- The latency of a vector instruction (R170, R373). -/
def vecLatency : Instr → Nat
  | .vadd _ _ | .vsub _ _ | .vmul _ _ | .vfma _ _ | .vfnma _ _ | .vscale _ _ => 6
  | .vcvt _ _ | .vcvtfx _ _ => 8
  | .vred _ _ => 10
  | .vtma _ | .vtmm _ | .vtmf _ => 12
  | .vrcp _ _ | .vrsq _ _ | .vexp2 _ _ | .vlog2 _ _ => 14
  | .vscan _ _ | .vsegsum _ _ => 16
  | .vcxs _ => 5
  | _ => 3

/-- The mask residual of an instruction, one bit per f32 lane (R378, R385, R393). -/
def vecMask (i : Instr) (a b d : Row) : BitVec 512 :=
  let bits (h : Nat → Nat → Nat → Bool) : BitVec 512 :=
    BitVec.ofNat 512 (packLanes 1 (zipLanes (fun _ x y z => if h x y z then 1 else 0) 0 (rowLanes a 32) (rowLanes b 32) (rowLanes d 32)))
  match i with
  | .vmin _ => bits fun x y _ => takesA .f32 false x y
  | .vmax _ => bits fun x y _ => takesA .f32 true x y
  | .vsel _ => bits fun _ _ z => z != 0
  | .vclamp _ => bits fun x y _ => clampLane 0 x y == x && !(isNaN32 x)
  | .vabs _ => bits fun x _ _ => decide (2 ^ 31 ≤ x)
  | _ => 0

/-! ### The placing of a vector command -/

/-- A vector slot: its per-lane guard is read at issue and never quashes it (R300). -/
def vecIssue (i : Instr) (f : VR) (s : State) : State :=
  issueSlot s i (vecIll i) true fun t =>
    placeCmd t (plainReq i f.cm 1 ((t.core t.cur).arch.guardBits f.pg f.ng) true)

/-! ### Meanings -/

/-- R378: the command enters the vector queue of the selected cells. -/
def execVmin (f : VR) (s : State) : Host.Outcome State Fault Refusal := .next (vecIssue (.vmin f) f s)

/-- R378: the command enters the vector queue of the selected cells. -/
def execVmax (f : VR) (s : State) : Host.Outcome State Fault Refusal := .next (vecIssue (.vmax f) f s)

/-- R378: the command enters the vector queue of the selected cells. -/
def execVabs (f : VR) (s : State) : Host.Outcome State Fault Refusal := .next (vecIssue (.vabs f) f s)

/-- R378: the command enters the vector queue of the selected cells. -/
def execVneg (f : VR) (s : State) : Host.Outcome State Fault Refusal := .next (vecIssue (.vneg f) f s)

/-- R378: the command enters the vector queue of the selected cells. -/
def execVclamp (f : VR) (s : State) : Host.Outcome State Fault Refusal := .next (vecIssue (.vclamp f) f s)

/-- R382: the command enters the vector queue of the selected cells. -/
def execViadd (f : VR) (s : State) : Host.Outcome State Fault Refusal := .next (vecIssue (.viadd f) f s)

/-- R382: the command enters the vector queue of the selected cells. -/
def execVisub (f : VR) (s : State) : Host.Outcome State Fault Refusal := .next (vecIssue (.visub f) f s)

/-- R382: the command enters the vector queue of the selected cells. -/
def execVimul (f : VR) (s : State) : Host.Outcome State Fault Refusal := .next (vecIssue (.vimul f) f s)

/-- R382: the command enters the vector queue of the selected cells. -/
def execVimulh (f : VR) (s : State) : Host.Outcome State Fault Refusal := .next (vecIssue (.vimulh f) f s)

/-- R383: the command enters the vector queue of the selected cells. -/
def execVand (f : VR) (s : State) : Host.Outcome State Fault Refusal := .next (vecIssue (.vand f) f s)

/-- R383: the command enters the vector queue of the selected cells. -/
def execVor (f : VR) (s : State) : Host.Outcome State Fault Refusal := .next (vecIssue (.vor f) f s)

/-- R383: the command enters the vector queue of the selected cells. -/
def execVxor (f : VR) (s : State) : Host.Outcome State Fault Refusal := .next (vecIssue (.vxor f) f s)

/-- R383: the command enters the vector queue of the selected cells. -/
def execVandn (f : VR) (s : State) : Host.Outcome State Fault Refusal := .next (vecIssue (.vandn f) f s)

/-- R382: the command enters the vector queue of the selected cells. -/
def execVshl (f : VR) (s : State) : Host.Outcome State Fault Refusal := .next (vecIssue (.vshl f) f s)

/-- R382: the command enters the vector queue of the selected cells. -/
def execVshr (f : VR) (s : State) : Host.Outcome State Fault Refusal := .next (vecIssue (.vshr f) f s)

/-- R382: the command enters the vector queue of the selected cells. -/
def execVsra (f : VR) (s : State) : Host.Outcome State Fault Refusal := .next (vecIssue (.vsra f) f s)

/-- R377: the command enters the vector queue of the selected cells. -/
def execVadd (rm : BitVec 3) (f : VR) (s : State) : Host.Outcome State Fault Refusal := .next (vecIssue (.vadd rm f) f s)

/-- R377: the command enters the vector queue of the selected cells. -/
def execVsub (rm : BitVec 3) (f : VR) (s : State) : Host.Outcome State Fault Refusal := .next (vecIssue (.vsub rm f) f s)

/-- R377: the command enters the vector queue of the selected cells. -/
def execVmul (rm : BitVec 3) (f : VR) (s : State) : Host.Outcome State Fault Refusal := .next (vecIssue (.vmul rm f) f s)

/-- R377: the command enters the vector queue of the selected cells. -/
def execVfma (rm : BitVec 3) (f : VR) (s : State) : Host.Outcome State Fault Refusal := .next (vecIssue (.vfma rm f) f s)

/-- R377: the command enters the vector queue of the selected cells. -/
def execVfnma (rm : BitVec 3) (f : VR) (s : State) : Host.Outcome State Fault Refusal := .next (vecIssue (.vfnma rm f) f s)

/-- R377: the command enters the vector queue of the selected cells. -/
def execVscale (rm : BitVec 3) (f : VR) (s : State) : Host.Outcome State Fault Refusal := .next (vecIssue (.vscale rm f) f s)

/-- R379: the command enters the vector queue of the selected cells. -/
def execVrcp (rm : BitVec 3) (f : VR) (s : State) : Host.Outcome State Fault Refusal := .next (vecIssue (.vrcp rm f) f s)

/-- R379: the command enters the vector queue of the selected cells. -/
def execVrsq (rm : BitVec 3) (f : VR) (s : State) : Host.Outcome State Fault Refusal := .next (vecIssue (.vrsq rm f) f s)

/-- R379: the command enters the vector queue of the selected cells. -/
def execVexp2 (rm : BitVec 3) (f : VR) (s : State) : Host.Outcome State Fault Refusal := .next (vecIssue (.vexp2 rm f) f s)

/-- R379: the command enters the vector queue of the selected cells. -/
def execVlog2 (rm : BitVec 3) (f : VR) (s : State) : Host.Outcome State Fault Refusal := .next (vecIssue (.vlog2 rm f) f s)

/-- R380: the command enters the vector queue of the selected cells. -/
def execVcvt (rm : BitVec 3) (f : VR) (s : State) : Host.Outcome State Fault Refusal := .next (vecIssue (.vcvt rm f) f s)

/-- R381: the command enters the vector queue of the selected cells. -/
def execVcvtfx (rm : BitVec 3) (f : VR) (s : State) : Host.Outcome State Fault Refusal := .next (vecIssue (.vcvtfx rm f) f s)

/-- R388: the command enters the vector queue of the selected cells. -/
def execVscan (rm : BitVec 3) (f : VR) (s : State) : Host.Outcome State Fault Refusal := .next (vecIssue (.vscan rm f) f s)

/-- R388: the command enters the vector queue of the selected cells. -/
def execVsegsum (rm : BitVec 3) (f : VR) (s : State) : Host.Outcome State Fault Refusal := .next (vecIssue (.vsegsum rm f) f s)

/-- R389: the command enters the vector queue of the selected cells. -/
def execVred (rm : BitVec 3) (f : VR) (s : State) : Host.Outcome State Fault Refusal := .next (vecIssue (.vred rm f) f s)

/-- R382: the command enters the vector queue of the selected cells. -/
def execVimin (f : VR) (s : State) : Host.Outcome State Fault Refusal := .next (vecIssue (.vimin f) f s)

/-- R382: the command enters the vector queue of the selected cells. -/
def execVimax (f : VR) (s : State) : Host.Outcome State Fault Refusal := .next (vecIssue (.vimax f) f s)

/-- R382: the command enters the vector queue of the selected cells. -/
def execViminn (f : VR) (s : State) : Host.Outcome State Fault Refusal := .next (vecIssue (.viminn f) f s)

/-- R382: the command enters the vector queue of the selected cells. -/
def execVimaxn (f : VR) (s : State) : Host.Outcome State Fault Refusal := .next (vecIssue (.vimaxn f) f s)

/-- R385: the command enters the vector queue of the selected cells. -/
def execVsel (f : VR) (s : State) : Host.Outcome State Fault Refusal := .next (vecIssue (.vsel f) f s)

/-- R385: the command enters the vector queue of the selected cells. -/
def execVmov (f : VR) (s : State) : Host.Outcome State Fault Refusal := .next (vecIssue (.vmov f) f s)

/-- R386: the command enters the vector queue of the selected cells. -/
def execVbcast (f : VR) (s : State) : Host.Outcome State Fault Refusal := .next (vecIssue (.vbcast f) f s)

/-- R386: the command enters the vector queue of the selected cells. -/
def execViota (f : VR) (s : State) : Host.Outcome State Fault Refusal := .next (vecIssue (.viota f) f s)

/-- R386: the command enters the vector queue of the selected cells. -/
def execVperm (f : VR) (s : State) : Host.Outcome State Fault Refusal := .next (vecIssue (.vperm f) f s)

/-- R386: the command enters the vector queue of the selected cells. -/
def execVrot (f : VR) (s : State) : Host.Outcome State Fault Refusal := .next (vecIssue (.vrot f) f s)

/-- R387: the command enters the vector queue of the selected cells. -/
def execVcxs (f : VR) (s : State) : Host.Outcome State Fault Refusal := .next (vecIssue (.vcxs f) f s)

/-- R386: the command enters the vector queue of the selected cells. -/
def execVextr (f : VR) (s : State) : Host.Outcome State Fault Refusal := .next (vecIssue (.vextr f) f s)

/-- R386: the command enters the vector queue of the selected cells. -/
def execVins (f : VR) (s : State) : Host.Outcome State Fault Refusal := .next (vecIssue (.vins f) f s)

/-- R386: the command enters the vector queue of the selected cells. -/
def execVcmpr (f : VR) (s : State) : Host.Outcome State Fault Refusal := .next (vecIssue (.vcmpr f) f s)

/-- R382: the command enters the vector queue of the selected cells. -/
def execVpcnt (f : VR) (s : State) : Host.Outcome State Fault Refusal := .next (vecIssue (.vpcnt f) f s)

/-- R390: the command enters the vector queue of the selected cells. -/
def execVrng (f : VR) (s : State) : Host.Outcome State Fault Refusal := .next (vecIssue (.vrng f) f s)

/-- R391: the command enters the vector queue of the selected cells. -/
def execVtma (f : VR) (s : State) : Host.Outcome State Fault Refusal := .next (vecIssue (.vtma f) f s)

/-- R391: the command enters the vector queue of the selected cells. -/
def execVtmm (f : VR) (s : State) : Host.Outcome State Fault Refusal := .next (vecIssue (.vtmm f) f s)

/-- R391: the command enters the vector queue of the selected cells. -/
def execVtmf (f : VR) (s : State) : Host.Outcome State Fault Refusal := .next (vecIssue (.vtmf f) f s)

/-- R384: the command enters the vector queue of the selected cells. -/
def execVcmpEq (f : VR) (s : State) : Host.Outcome State Fault Refusal := .next (vecIssue (.vcmpEq f) f s)

/-- R384: the command enters the vector queue of the selected cells. -/
def execVcmpNe (f : VR) (s : State) : Host.Outcome State Fault Refusal := .next (vecIssue (.vcmpNe f) f s)

/-- R384: the command enters the vector queue of the selected cells. -/
def execVcmpLt (f : VR) (s : State) : Host.Outcome State Fault Refusal := .next (vecIssue (.vcmpLt f) f s)

/-- R384: the command enters the vector queue of the selected cells. -/
def execVcmpLe (f : VR) (s : State) : Host.Outcome State Fault Refusal := .next (vecIssue (.vcmpLe f) f s)

/-- R384: the command enters the vector queue of the selected cells. -/
def execVcmpGt (f : VR) (s : State) : Host.Outcome State Fault Refusal := .next (vecIssue (.vcmpGt f) f s)

/-- R384: the command enters the vector queue of the selected cells. -/
def execVcmpGe (f : VR) (s : State) : Host.Outcome State Fault Refusal := .next (vecIssue (.vcmpGe f) f s)

/-- R384: the command enters the vector queue of the selected cells. -/
def execVicmpEq (f : VR) (s : State) : Host.Outcome State Fault Refusal := .next (vecIssue (.vicmpEq f) f s)

/-- R384: the command enters the vector queue of the selected cells. -/
def execVicmpNe (f : VR) (s : State) : Host.Outcome State Fault Refusal := .next (vecIssue (.vicmpNe f) f s)

/-- R384: the command enters the vector queue of the selected cells. -/
def execVicmpLt (f : VR) (s : State) : Host.Outcome State Fault Refusal := .next (vecIssue (.vicmpLt f) f s)

/-- R384: the command enters the vector queue of the selected cells. -/
def execVicmpLe (f : VR) (s : State) : Host.Outcome State Fault Refusal := .next (vecIssue (.vicmpLe f) f s)

/-- R384: the command enters the vector queue of the selected cells. -/
def execVicmpGt (f : VR) (s : State) : Host.Outcome State Fault Refusal := .next (vecIssue (.vicmpGt f) f s)

/-- R384: the command enters the vector queue of the selected cells. -/
def execVicmpGe (f : VR) (s : State) : Host.Outcome State Fault Refusal := .next (vecIssue (.vicmpGe f) f s)

/-- R384: the command enters the vector queue of the selected cells. -/
def execVicmpLtn (f : VR) (s : State) : Host.Outcome State Fault Refusal := .next (vecIssue (.vicmpLtn f) f s)

/-- R384: the command enters the vector queue of the selected cells. -/
def execVicmpLen (f : VR) (s : State) : Host.Outcome State Fault Refusal := .next (vecIssue (.vicmpLen f) f s)

/-- R384: the command enters the vector queue of the selected cells. -/
def execVicmpGtn (f : VR) (s : State) : Host.Outcome State Fault Refusal := .next (vecIssue (.vicmpGtn f) f s)

/-- R384: the command enters the vector queue of the selected cells. -/
def execVicmpGen (f : VR) (s : State) : Host.Outcome State Fault Refusal := .next (vecIssue (.vicmpGen f) f s)

end Sys2Proof.Machine
end

