-- ==== Sys2Proof/Machine/Adjoint.lean ====
section
/-! DEFINITION. The adjoint of each differentiable instruction on one cell (R223, R238, R393, R415, R441). -/

namespace Sys2Proof.Machine

/-! ### Gradient storage (R223) -/

/-- The register that holds the gradient of vector register v, if its accumulator is mapped. -/
def gradReg (d : BitVec 1024) (v : Nat) : Option Nat := (descGmap d (v / 64)).map fun m => 64 * m + v % 64

/-- The f32 lanes of a row of a cell. -/
def CellSt.f32Lanes (c : CellSt) (v : Nat) : List Nat := rowLanes (sget 0 c.acc v) 32

/-- A row of a cell from f32 lanes. -/
def CellSt.putLanes (c : CellSt) (v : Nat) (ls : List Nat) : CellSt := { c with acc := sset 0 c.acc v (rowOfLanes 32 ls) }

/-- Terms added to a gradient row, lane by lane with one rounding (R238); a lane without a term stays. -/
def addTerms (c : CellSt) (gv : Nat) (ts : List (Option Nat)) : CellSt :=
  c.putLanes gv (List.zipWith (fun g t => match t with | some x => f32Add g x | none => g) (c.f32Lanes gv) ts)

/-- Terms added to the gradient of register v where it has one. -/
def addGrad (d : BitVec 1024) (c : CellSt) (v : Nat) (ts : List (Option Nat)) : CellSt :=
  match gradReg d v with
  | some gv => addTerms c gv ts
  | none => c

/-- The register a source code names; a port has no gradient. -/
def srcReg (c : BitVec 9) : Option Nat :=
  match srcCode c with
  | some (.reg v) => some v
  | _ => none

/-- The register a destination code names; a port has no gradient. -/
def dstReg (c : BitVec 9) : Option Nat :=
  match dstCode c with
  | some (.reg v) => some v
  | _ => none

/-- Terms for the enabled lanes. -/
def termsOf (en : List Bool) (ts : List Nat) : List (Option Nat) :=
  List.zipWith (fun e t => if e then some t else none) en ts

/-! ### Lane-wise entries (R393) -/

/-- What an entry does: whether grad(d) is zeroed first, the term of lane j for a and for b. -/
structure LaneAdjoint where
  zero : Bool
  ta : Option (Nat → Nat → Nat → Nat → Option Nat)
  tb : Option (Nat → Nat → Nat → Nat → Option Nat)

/-- 2^k times an f32 code. -/
def scaleF32 (a : Nat) (k : Int) : Nat := scaleLane .f32 .rne 0 a k

/-- ln 2 of R393. -/
def ln2Code : Nat := 0x3F317218

/-- The function of VRCP, VRSQ, VEXP2 or VLOG2 in f32 with rounding to nearest. -/
def rFn (which a : Nat) : Nat := basicSpecial which .f32 .rne 0 a

/-- The lane-wise adjoints: terms from the gradient g, the lanes a and b of the residuals, and the mask bit. -/
def laneAdjoint (i : Instr) : Option LaneAdjoint :=
  let g1 : Nat → Nat → Nat → Nat → Option Nat := fun g _ _ _ => some g
  let ngv : Nat → Nat → Nat → Nat → Option Nat := fun g _ _ _ => some (f32Neg g)
  let one (zero : Bool) (h : Nat → Nat → Nat → Nat) : Option LaneAdjoint :=
    some { zero := zero, ta := some fun g a b _ => some (h g a b), tb := none }
  match i with
  | .vadd _ _ => some { zero := true, ta := some g1, tb := some g1 }
  | .vsub _ _ => some { zero := true, ta := some g1, tb := some ngv }
  | .vmul _ _ => some { zero := true, ta := some fun g _ b _ => some (f32Mul g b), tb := some fun g a _ _ => some (f32Mul g a) }
  | .vfma _ _ => some { zero := false, ta := some fun g _ b _ => some (f32Mul g b), tb := some fun g a _ _ => some (f32Mul g a) }
  | .vfnma _ _ => some { zero := false, ta := some fun g _ b _ => some (f32Neg (f32Mul g b)),
                         tb := some fun g a _ _ => some (f32Neg (f32Mul g a)) }
  | .vscale _ _ => one true fun g _ b => scaleF32 g (signedOf 32 b)
  | .vmin _ | .vmax _ | .vsel _ =>
    some { zero := true, ta := some fun g _ _ m => if m = 1 then some g else none,
           tb := some fun g _ _ m => if m = 1 then none else some g }
  | .vclamp _ => some { zero := true, ta := some fun g _ _ m => if m = 1 then some g else none, tb := none }
  | .vabs _ => some { zero := true, ta := some fun g _ _ m => some (if m = 1 then f32Neg g else g), tb := none }
  | .vneg _ => some { zero := true, ta := some ngv, tb := none }
  | .vmov _ | .vcvt _ _ | .vcvtfx _ _ => some { zero := true, ta := some g1, tb := none }
  | .vrcp _ _ => one true fun g a _ => f32Neg (f32Mul (f32Mul g (rFn 0 a)) (rFn 0 a))
  | .vrsq _ _ => one true fun g a _ => f32Mul 0xBF000000 (f32Mul (f32Mul (f32Mul g (rFn 1 a)) (rFn 1 a)) (rFn 1 a))
  | .vexp2 _ _ => one true fun g a _ => f32Mul (f32Mul g (rFn 2 a)) ln2Code
  | .vlog2 _ _ => one true fun g a _ => f32Div g (f32Mul a ln2Code)
  | .vrng _ => some { zero := true, ta := none, tb := none }
  | _ => none

/-- The lanes of the result that are enabled, per source lane (R300, R380). -/
def adjointLanes (i : Instr) (g : Pred) : List Bool :=
  match i with
  | .vcvt _ f =>
    let en := (laneGuard g f.ty.toNat).toArray
    let n := min 256 (tyLanes f.ty.toNat)
    (List.range 256).map fun j => en.getD (cvtPart f * n + j) false
  | .vcvtfx _ _ => (List.range 256).map fun j => g.getLsbD (32 * (j / 32))
  | _ => (List.range 256).map fun j => g.getLsbD j

/-- The gradient lanes of the destination, zeroed where the kind says so, on the enabled lanes. DEDUCED, log 42. -/
def takeGrad (d : BitVec 1024) (c : CellSt) (dv : Nat) (zero : Bool) (en : List Bool) : Option (CellSt × List Nat) :=
  (gradReg d dv).map fun gv =>
    let g := c.f32Lanes gv
    (if zero then c.putLanes gv (List.zipWith (fun e x => if e then 0 else x) en g) else c, g)

/-- A lane-wise adjoint applied to a cell. -/
def applyLanes (d : BitVec 1024) (L : LaneAdjoint) (en : List Bool) (dc ac bc : BitVec 9) (a b : Row) (mask : BitVec 512)
    (c : CellSt) : CellSt :=
  match dstReg dc with
  | none => c
  | some dv =>
    match takeGrad d c dv L.zero en with
    | none => c
    | some (c1, g) =>
      let as := (rowLanes a 32).toArray
      let bs := (rowLanes b 32).toArray
      let run (h : Nat → Nat → Nat → Nat → Option Nat) : List (Option Nat) :=
        (List.zipWith (fun e x => (e, x)) en g).zipIdx.map fun p =>
          if p.1.1 then h p.1.2 (laneAt as p.2) (laneAt bs p.2) (if mask.getLsbD p.2 then 1 else 0) else none
      let put (c : CellSt) (code : BitVec 9) (h : Option (Nat → Nat → Nat → Nat → Option Nat)) : CellSt :=
        match h, srcReg code with
        | some h, some v => addGrad d c v (run h)
        | _, _ => c
      put (put c1 ac L.ta) bc L.tb

/-! ### Entries that move or sum lanes -/

/-- The terms of VSCAN and VSEGSUM from the top lane down: t of the next enabled lane above in the segment (R393). -/
def scanTerms (seg : Bool) : List (Bool × Nat × Nat) → Option Nat → List (Option Nat)
  | [], _ => []
  | (en, g, b) :: r, next =>
    let t := match next with
      | some n => f32Add g n
      | none => g
    let next1 := if en then some t else next
    let cut := seg && (match r with
      | (_, _, b1) :: _ => b1 != b
      | [] => false)
    (if en then some t else none) :: scanTerms seg r (if cut then none else next1)

/-- VROT, VSCAN, VSEGSUM and VRED on a cell. -/
def applyMoves (d : BitVec 1024) (i : Instr) (en : List Bool) (b : Row) (c : CellSt) : CellSt :=
  let go (dc ac : BitVec 9) (h : List Nat → List (Option Nat)) : CellSt :=
    match dstReg dc with
    | none => c
    | some dv =>
      match takeGrad d c dv true en with
      | none => c
      | some (c1, g) =>
        match srcReg ac with
        | some v => addGrad d c1 v (h g)
        | none => c1
  let scan (seg : Bool) (g : List Nat) : List (Option Nat) :=
    (scanTerms seg ((en.zip (g.zip (rowLanes b 32))).reverse) none).reverse
  match i with
  | .vrot f => go f.d f.a fun g =>
    let gs := g.toArray
    let es := en.toArray
    (List.range 256).map fun l =>
      let j := (l + 256 - laneImm f % 256) % 256
      if es.getD j false then some (laneAt gs j) else none
  | .vscan _ f => go f.d f.a (scan false)
  | .vsegsum _ f => go f.d f.a (scan true)
  | .vred _ f => go f.d f.a fun g => en.map fun e => if e then some ((g.head?).getD 0) else none
  | _ => c

/-! ### The transformed mean -/

/-- pow(x, M, q) of R393 with q = p − 1. -/
def tmPow (sh : TmShape) (x M : Nat) : Nat :=
  let q := sh.p - 1
  if q = 0 then one32
  else if zero32 x ∧ q < 0 then 0
  else if sh.p = 0 then f32Div M x
  else powRne x M q

/-- VTMA's term from G_S, G_m and lane x; none where it needs a G_m that there is not. -/
def tmaTerm (sh : TmShape) (gs : Nat) (gm : Option Nat) (x : Nat) : Option Nat :=
  match gm with
  | some m => some (if sh.inf then if eq32 x m then gs else 0 else f32Mul gs (tmPow sh x m))
  | none => if !sh.inf && decide (sh.p = 1) then some (f32Mul gs one32) else none

/-- The gradient lanes of a register, where it has a gradient. -/
def gradLanes (d : BitVec 1024) (c : CellSt) (v : Nat) : Option (List Nat) := (gradReg d v).map c.f32Lanes

/-- VTMA, VTMM and VTMF exit on a cell; a holds the residual rows. The terms of a trio register without a gradient are dropped
(R393). -/
def applyTm (d : BitVec 1024) (i : Instr) (sh : TmShape) (en : List Bool) (a : List Row) (c : CellSt) : CellSt :=
  let row (k : Nat) : List Nat := rowLanes ((a[k]?).getD 0) 32
  match i with
  | .vtma f =>
    match dstReg f.d, srcReg f.a with
    | some dv, some v =>
      match gradLanes d c dv with
      | none => c
      | some gs =>
        let gm : List (Option Nat) := match gradLanes d c (dv + 2) with
          | some l => l.map some
          | none => List.replicate 256 none
        addGrad d c v (List.zipWith (fun e t => if e then t else none) en
          (List.zipWith (fun g x => tmaTerm sh g.1 g.2 x) (gs.zip gm) (row 0)))
    | _, _ => c
  | .vtmm f =>
    match dstReg f.d, srcReg f.a with
    | some dv, some v =>
      let put (c : CellSt) (v : Nat) (g : Option (List Nat)) : CellSt := match g with
        | some l => addGrad d c v (termsOf en l)
        | none => c
      put (put c v (gradLanes d c dv)) (v + 2) (gradLanes d c (dv + 2))
    | _, _ => c
  | .vtmf f =>
    match dstReg f.d, srcReg f.a with
    | some dv, some v =>
      match takeGrad d c dv true en with
      | none => c
      | some (c1, g) =>
        let trips := List.zipWith (fun s cm => ({ S := s, c := cm.1, m := cm.2 } : Triple)) (row 0) ((row 1).zip (row 2))
        let ts := List.zipWith (fun x (t : Triple) => if sh.inf then x else divCount x t.c) g trips
        let tm := trips.map fun t => (tmExit sh [] t).1
        addGrad d (addGrad d c1 v (termsOf en ts)) (v + 2) (termsOf en tm)
    | _, _ => c
  | _ => c

/-! ### A V slot -/

/-- The adjoint of a vector instruction on a cell, with the guard as read at the reverse bundle. -/
def applyVec (d : BitVec 1024) (i : Instr) (sh : TmShape) (g : Pred) (a : List Row) (b : Row) (mask : BitVec 512) (c : CellSt) :
    CellSt :=
  let en := adjointLanes i g
  match i with
  | .vrot _ | .vscan _ _ | .vsegsum _ _ | .vred _ _ => applyMoves d i en b c
  | .vtma _ | .vtmm _ | .vtmf _ => applyTm d i sh en a c
  | _ =>
    match laneAdjoint i, destCode i with
    | some L, some dc =>
      applyLanes d L en dc (((vecSources i)[0]?).getD 511) (((vecSources i)[1]?).getD 511) ((a.head?).getD 0) b mask c
    | _, _ => c

/-! ### A T slot (R415) -/

/-- The tile-gradient area of tile t zeroed. -/
def zeroTileGrad (d : BitVec 1024) (t : Nat) (c : CellSt) : CellSt :=
  if descTileGrad d t then
    (List.range 512).foldl (fun c k => { c with spm := sset 0 c.spm (descTileAddr d t / 1024 + k) 0 }) c
  else c

/-- One f32 element of a tile-gradient area. -/
def tileGradAddr (d : BitVec 1024) (t r col : Nat) : Nat := descTileAddr d t + 2048 * r + 4 * col

/-- A dot product added to an f32 gradient in chunks of 32 (R216, R238). -/
def gradDot (acc n : Nat) (term : Nat → MVal × MVal) : Nat :=
  (dotInto 0 false 320 (n / 32) acc fun ch =>
    (List.range 32).foldl (fun s k => s.push (term (32 * ch + k)).1 (term (32 * ch + k)).2) ChunkSum.zero).1

/-- An f32 code as a matrix operand. -/
def f32Val (x : Nat) : MVal := floatVal .f32 x 0

/-- The position (r, c) in its tile of element k of A row i (R400). -/
def aPos (w : Word) (ta row0 h i k : Nat) : Nat × Nat :=
  let b := opBits (fmtAt w)
  let col := decide (8 ≤ ta)
  let lw := if col then 256 else 2048 / b
  let ka := passK w
  let line := if ka ≤ lw then row0 + i else row0 + ka / lw * i + k / lw
  let pos := if ka ≤ lw then h * ka + k else k % lw
  if col then (pos, line) else (line, pos)

/-- MMA on a cell: gradients of a tile or accumulator A and of the B tile (R415). xs is the register operand, a and b the
recorded tiles as rows; for a port source, a holds the 64 rows read again. -/
def applyMma (d : BitVec 1024) (f : TG) (w : Word) (xs : Word) (a b : List Row) (c : CellSt) : CellSt :=
  match descGmap d (f.td.toNat - 8) with
  | none => c
  | some m =>
    let rows (l : List Row) : Sparse Row := l.zipIdx.map fun p => (p.2, p.1)
    let ra := rows a
    let rb := rows b
    let ta := f.ta.toNat
    let tb := f.tb.toNat
    let row0 := nfield xs 0 8
    let h := nfield xs 8 2
    let k := passK w
    let gC := ((List.range 64).map fun i => ((c.f32Lanes (64 * m + i)).map f32Val).toArray).toArray
    let gAt (i n : Nat) : MVal := (gC.getD i #[]).getD n (.fin false 0)
    let avals := ((List.range 64).map fun i =>
      aRow w (if ta < 16 then packTileRow w ta row0 h i ra [] else sget 0 ra i)).toArray
    let aAt (i j : Nat) : MVal := (avals.getD i #[]).getD j (.fin false 0)
    let gradA (i j acc : Nat) : Nat := gradDot acc 256 fun n => (gAt i n, bElem w (decide (8 ≤ tb)) rb [] j n)
    let gradB (j n acc : Nat) : Nat := gradDot acc 64 fun i => (aAt i j, gAt i n)
    let word32 (c : CellSt) (at_ : Nat) : Nat := natOfBytes (c.spmBytes at_ 4)
    let put32 (c : CellSt) (at_ v : Nat) : CellSt := c.putSpm at_ (bytesOf (BitVec.ofNat 32 v) 4)
    let c1 :=
      if ta < 16 then
        if descTileGrad d (ta % 8) then
          (List.range 64).foldl (fun c i => (List.range k).foldl (fun c j =>
            let p := aPos w ta row0 h i j
            let at_ := tileGradAddr d (ta % 8) p.1 p.2
            put32 c at_ (gradA i j (word32 c at_))) c) c
        else c
      else if ta < 20 then
        match descGmap d (ta - 16) with
        | some n => (List.range 64).foldl (fun c i =>
            c.putLanes (64 * n + i) ((c.f32Lanes (64 * n + i)).zipIdx.map fun p =>
              if p.2 < k then gradA i p.2 p.1 else p.1)) c
        | none => c
      else c
    if descTileGrad d (tb % 8) then
      (List.range 256).foldl (fun c n => (List.range k).foldl (fun c j =>
        let p := seqElem (decide (8 ≤ tb)) (opBits (fmtBt w)) (n * k + j)
        let at_ := tileGradAddr d (tb % 8) p.1 p.2
        put32 c at_ (gradB j n (word32 c at_))) c) c1
    else c1

/-- The adjoint of a tile instruction on a cell under a true guard. -/
def applyTile (d : BitVec 1024) (i : Instr) (w : Word) (xs : Word) (a b : List Row) (c : CellSt) : CellSt :=
  match i with
  | .mma f => applyMma d f w xs a b c
  | .tld f | .tfill f | .tzero f => zeroTileGrad d (f.td.toNat % 8) c
  | .azero f =>
    match descGmap d (f.td.toNat - 8) with
    | some m => (List.range 64).foldl (fun c k => { c with acc := sset 0 c.acc (64 * m + k) 0 }) c
    | none => c
  | _ => c

/-! ### An E slot (R441) -/

/-- SFOP's term from the gradient and the residual. -/
def sfTerm (fn g r : Nat) : Nat :=
  match fn with
  | 0 => f32Mul g r
  | 2 => f32Mul g (f32Sub one32 (f32Mul r r))
  | 4 => f32Mul g (f32Mul r (f32Sub one32 r))
  | 1 => f32Div g r
  | n => f32Mul g (sfValue n true .f32 r)

/-- SFOP on a cell. -/
def applySfop (d : BitVec 1024) (f : EV) (r : Row) (c : CellSt) : CellSt :=
  let en := List.replicate 256 true
  match dstReg f.d with
  | none => c
  | some dv =>
    match takeGrad d c dv true en with
    | none => c
    | some (c1, g) =>
      match srcReg f.a with
      | some v => addGrad d c1 v (termsOf en (List.zipWith (sfTerm (nfield f.fn 0 4)) g (rowLanes r 32)))
      | none => c1

end Sys2Proof.Machine
end

