-- ==== Sys2Proof/Machine/Control.lean ====
section
/-! DEFINITION. The control instructions of slot A: branches, loops, time base, regions, task end, system registers, traps
(R329 to R344). In a reverse walk's replay only LOOP and LOOPX act (R315). -/

namespace Sys2Proof.Machine

/-- A control slot; in a walk it has no effect unless it is LOOP or LOOPX (R315). -/
def controlOp (i : Instr) (ill : Bool) (live : Bool) (walked : Bool) (body : CoreSt → CoreSt) (s : State) : State :=
  issueSlot s i ill live fun t =>
    let q := s.cur
    let c := t.core q
    nextSlot (if c.arch.walking && !walked then t else t.setCore q (body c)) q

/-- BR and BRL: the target is n + imm14 modulo 2,048 (R329). -/
def branchTarget (c : CoreSt) (imm : BitVec 14) : Nat :=
  (((c.arch.pc : Int) + imm.toInt) % 2048).toNat

/-- A taken branch, with a link where the instruction has one; a link to x0 is discarded. -/
def branchOp (i : Instr) (target : CoreSt → Nat) (link : Option (BitVec 6)) (s : State) : State :=
  issueSlot s i false (liveGuard s i) fun t =>
    let q := s.cur
    let c := t.core q
    let t1 := t.setCore q { c with taken := some (target c) }
    match link with
    | some d => nextSlot (writeX t1 q 1 d.toNat (BitVec.ofNat 64 ((c.arch.pc + 1) % 2048))) q
    | none => nextSlot t1 q

/-- R329. -/
def execBr (f : SI) (s : State) : Host.Outcome State Fault Refusal :=
  .next (branchOp (.br f) (fun c => branchTarget c f.imm) none s)

/-- R329. -/
def execBrl (f : SI) (s : State) : Host.Outcome State Fault Refusal :=
  .next (branchOp (.brl f) (fun c => branchTarget c f.imm) (some f.d) s)

/-- R329. -/
def execJr (f : SR) (s : State) : Host.Outcome State Fault Refusal :=
  .next (branchOp (.jr f) (fun c => (c.arch.rx f.a.toNat).toNat % 2048) none s)

/-- R329. -/
def execJrl (f : SR) (s : State) : Host.Outcome State Fault Refusal :=
  .next (branchOp (.jrl f) (fun c => (c.arch.rx f.a.toNat).toNat % 2048) (some f.d) s)

/-- A loop of count m and last-bundle offset o opens at the current bundle (R331); a count of zero skips the body as a taken
branch does. An open span remembers the counter and a count register (R225). -/
def openLoop (c : CoreSt) (n m o : Nat) (reg : Option Nat) : CoreSt :=
  let e := c.arch.pc
  let l : LoopCtr := { value := BitVec.ofNat 32 (m - 1), first := BitVec.ofNat 11 (e + 1), last := BitVec.ofNat 11 (e + o),
                       active := true }
  let old := sget LoopCtr.zero c.arch.lc n
  let notes := match reg with
    | some r => [n, 4 + r]
    | none => [n]
  let spanned := c.spanNow.isSome
  { c with
    arch := { c.arch with
      lc := if m = 0 then
          sset LoopCtr.zero c.arch.lc n { old with first := BitVec.ofNat 11 (e + 1), last := BitVec.ofNat 11 (e + o), active := false }
        else sset LoopCtr.zero c.arch.lc n l
      spanLoops := if spanned then notes ++ c.arch.spanLoops else c.arch.spanLoops }
    taken := if m = 0 then some ((e + o + 1) % 2048) else c.taken }

/-- R330, R331: count 0 or offset 0 raises ILL. -/
def execLoop (f : SI) (s : State) : Host.Outcome State Fault Refusal :=
  .next (controlOp (.loop f) (f.imm == 0 || f.a == 0) (liveGuard s (.loop f)) true
    (fun c => openLoop c (f.d.toNat % 4) f.imm.toNat f.a.toNat none) s)

/-- R330, R331: offset 0 raises ILL. -/
def execLoopx (f : SI) (s : State) : Host.Outcome State Fault Refusal :=
  .next (controlOp (.loopx f) (f.imm.toNat % 2048 == 0) (liveGuard s (.loopx f)) true
    (fun c => openLoop c (f.d.toNat % 4) ((c.arch.rx f.a.toNat).toNat % 2 ^ 32) (f.imm.toNat % 2048) (some f.a.toNat)) s)

/-- R333: the next bundle issues k cycles later. -/
def execIdle (f : SI) (s : State) : Host.Outcome State Fault Refusal :=
  .next (controlOp (.idle f) false (liveGuard s (.idle f)) false
    (fun c => { c with idleAdd := ((c.arch.rx f.a.toNat).toNat + f.imm.toNat) % 2 ^ 32 }) s)

/-- R334: the issue cycle becomes the time base, for this bundle's commands too. -/
def execSeg (f : SI) (s : State) : Host.Outcome State Fault Refusal :=
  .next (controlOp (.seg f) false (liveGuard s (.seg f)) false
    (fun c => { c with arch := { c.arch with tbase := s.pcc } }) s)

/-- The cycle from which KEY counts: the task start (R159, R284). -/
def CoreSt.taskStart (c : CoreSt) : Nat :=
  match c.task with
  | some t => t.start
  | none => 0

/-- R159, R160, R335: the next bundle waits for task start + c, which becomes the time base; a later issue is
a slip; the keystone and its cycle enter the debug trace. -/
def execKey (f : SL) (s : State) : Host.Outcome State Fault Refusal :=
  .next (issueSlot s (.key f) false true fun t =>
    let q := s.cur
    let c := t.core q
    let k := c.taskStart + f.imm.toNat
    if c.arch.walking then nextSlot t q
    else
      let u := t.setCore q { c with trace := c.trace ++ [(f.d.toNat, s.pcc)] }
      if k < s.pcc then slotTrap u q 9 (timingTval 5 0 3 f.d.toNat s.pcc)
      else nextSlot (u.modCore q fun c => { c with keyBase := some k }) q)

/-- Range r of a live-in record (R281). -/
def rgnRange (r : BitVec 512) (n : Nat) : BitVec 64 := r.extractLsb' (128 + 64 * n) 64

/-- A well-formed live-in record (R281). -/
def rgnOk (r : BitVec 512) : Bool :=
  decide (nfield r 100 4 = 0) && decide (nfield r 104 8 ≤ 4) && decide (nfield r 384 128 = 0) &&
    (List.range (min 4 (nfield r 104 8))).all fun n =>
      let w := rgnRange r n
      decide (nfield w 0 6 = 0) && decide (nfield w 26 23 % 64 = 0) && decide (nfield w 26 23 ≤ 2 ^ 22)
        && decide (nfield w 49 14 = 0)

/-- The record address of RGN: x(a) + 64 × n, n zero-extended (R336). -/
def rgnAddr (a : Arch) (f : SI) : Word := a.rx f.a.toNat + BitVec.ofNat 64 (64 * f.imm.toNat)

/-- R281, R336: captures the record and writes sr.rgn; a bad address or record raises ILL with the address. -/
def execRgn (f : SI) (s : State) : Host.Outcome State Fault Refusal :=
  .next (issueSlot s (.rgn f) false (liveGuard s (.rgn f)) fun t =>
    let q := s.cur
    let c := t.core q
    let w := rgnAddr c.arch f
    let at0 := w.toNat
    let r : BitVec 512 := bitsOfBytes 512 (c.arch.ldmBytes at0 64)
    if c.arch.walking then nextSlot t q
    else if ldmSize ≤ at0 ∨ at0 % 64 ≠ 0 ∨ rgnOk r = false then slotTrap t q 1 w
    else
      nextSlot (t.modArch q fun a =>
        { a with rgn := BitVec.ofNat 24 (c.arch.pc + 2 ^ 11 + 2 ^ 12 * (at0 / 64)), rgnRec := r }) q)

/-- R337: no later bundle of the run issues. -/
def execTend (f : SI) (s : State) : Host.Outcome State Fault Refusal :=
  .next (controlOp (.tend f) false (liveGuard s (.tend f)) false (fun c => { c with ending := true }) s)

/-- R338: the next bundle waits. -/
def execIsync (f : SI) (s : State) : Host.Outcome State Fault Refusal :=
  .next (controlOp (.isync f) false (liveGuard s (.isync f)) false
    (fun c => { c with sync := some (.isync s.pcc) }) s)

/-- R339: a number R340 does not list raises ILL. -/
def execSysr (f : SI) (s : State) : Host.Outcome State Fault Refusal :=
  let i : Instr := .sysr f
  let v := sysRead s s.cur (f.imm.toNat % 4096)
  .next (issueSlot s i v.isNone (liveGuard s i) fun t =>
    nextSlot (writeX t s.cur 1 f.d.toNat (v.getD 0)) s.cur)

/-- R339, R280: SYSW writes at issue + 1; sr.rqctl release and discard act when the bundle commits; R234 forbids the stack
registers while a span or a walk is in progress. -/
def execSysw (f : SI) (s : State) : Host.Outcome State Fault Refusal :=
  let i : Instr := .sysw f
  let n := f.imm.toNat % 4096
  .next (issueSlot s i (sysRead s s.cur n).isNone (liveGuard s i) fun t =>
    let q := s.cur
    let c := t.core q
    let v := c.arch.rx f.a.toNat
    if residualReg n && (c.arch.inSpan || c.arch.revActive) then spanFault t q 4 0
    else if c.arch.walking then nextSlot t q
    else
      let t1 := t.modCore q fun c => { c with arch := { c.arch with pend := c.arch.pend ++
        [{ due := s.pcc + 1, rank := 2, bid := c.bid, dst := .sys n, val := wide v }] } }
      let t2 := if n = 0x17 ∧ (v.getLsbD 5 ∨ v.getLsbD 6) then
          t1.modCore q fun c => { c with actions := c.actions ++
            [(c.bid, .replay (quadDie q) (rqChan (v.extractLsb' 0 5)) (v.getLsbD 6))] }
        else t1
      nextSlot t2 q)

/-- The place holder of sr.tpc for a trap that names the bundle that issues next. -/
def tpcNext : Nat := 2048

/-- TRAP and BRK: their bundle commits, and the trap names the bundle that follows (R272, R342, R343). -/
def softTrap (i : Instr) (cause : Nat) (imm : BitVec 26) (s : State) : State :=
  issueSlot s i false true fun t =>
    let q := s.cur
    let c := t.core q
    let r : Trap :=
      { cause := cause, slot := 0, origin := 0, cell := 0, chan := 0, ce := false, gstep := false,
        tval := (imm.extractLsb' 0 16).setWidth 64, tpc := tpcNext, seen := s.pcc }
    if c.arch.walking then nextSlot t q else nextSlot (t.setCore q { c with trapReq := some r }) q

/-- R342. -/
def execTrap (f : SL) (s : State) : Host.Outcome State Fault Refusal := .next (softTrap (.trap f) 16 f.imm s)

/-- R343. -/
def execBrk (f : SL) (s : State) : Host.Outcome State Fault Refusal := .next (softTrap (.brk f) 15 f.imm s)

/-- The bundle TRET resumes at: sr.tpc, or the walk a trap interrupted (R344). -/
def tretTarget (c : CoreSt) : Nat :=
  if c.arch.tcause.getLsbD 18 then
    match c.rev with
    | some w => if w.phase ≠ 0 then w.revBundle else (c.arch.rvs.extractLsb' 0 11).toNat
    | none => c.arch.tpc.toNat
  else c.arch.tpc.toNat

/-- R344: outside a handler TRET raises PRIV; a batch that has faulted is tried again (R232). -/
def execTret (f : SI) (s : State) : Host.Outcome State Fault Refusal :=
  .next (issueSlot s (.tret f) false (liveGuard s (.tret f)) fun t =>
    let q := s.cur
    let c := t.core q
    if !c.arch.inHandler then slotTrap t q 2 0
    else nextSlot ([0, 1, 2, 3].foldl (fun u j => u.modCell q j fun x => { x with spillStop := false })
      (t.setCore q (trapReturn c (tretTarget c)))) q)

end Sys2Proof.Machine
end

