-- ==== Sys2Proof/Machine/Resid.lean ====
section
/-! DEFINITION. The residual stack of a cell: its window and HBM area, granules written and read, spilling, run-ahead and the
residual-window hold (R228 to R233, R242, R469). -/

namespace Sys2Proof.Machine

/-! ### Spilling (R232) -/

/-- Granules of the next batch: written, contiguous from H, at most a quarter of the window, and none that a reverse bundle has
demanded, which stays held until the bundle commits (R232, R237). DEDUCED, log 43. -/
def batchSize (s : State) (q j : Nat) : Nat :=
  let c := s.cell q j
  let a := (s.core q).arch
  let top := c.reserved.foldl (fun m r => if c.spilled < r.1 + r.2 then min m (max r.1 c.spilled) else m)
    (match c.pin with
      | some p => min p.1 (a.depth j)
      | none => a.depth j)
  min ((a.ring j + 3) / 4) (top - c.spilled)

/-- A core takes the next step of a walk at REV's slot: a bundle walked back, or what comes before the first one or a replay (R237,
R240). -/
def CoreSt.walksBack (c : CoreSt) : Bool :=
  c.arch.walking && (match c.rev with
    | some w => w.phase != 0
    | none => false)

/-- A batch starts: the window is more than three quarters full or a granule waits, none is in flight, and none that has faulted
waits for TRET (R232). -/
def spillDue (s : State) (q j : Nat) : Bool :=
  let c := s.core q
  let x := s.cell q j
  c.task.isSome && !x.spillStop && x.batch.isNone && decide (0 < batchSize s q j) &&
    (decide (3 * c.arch.ring j < 4 * heldGranules s q j) || !x.waiting.isEmpty)

/-- The pages of n granules from the HBM address of granule x translate with right W. -/
def batchPages (s : State) (q j x : Nat) : Nat → State × Option (Nat × Nat)
  | 0 => (s, none)
  | n + 1 =>
    match translate s (.engine (quadDie q)) (s.core q).space ((s.core q).arch.hbmAddr j x) 2 with
    | (t, .error e) => (t, some e)
    | (t, .ok p) =>
      if t.accessStatus p.key p.pa 64 ≠ 0 then (t, some (7, t.accessStatus p.key p.pa 64)) else batchPages t q j (x + 1) n

/-- n granules from x on are written to the HBM area, poison with them. -/
def batchWrite (s : State) (q j x : Nat) : Nat → State
  | 0 => s
  | n + 1 =>
    let a := (s.core q).arch
    let pois := sget false (s.cell q j).spmPois (a.granuleAddr j x / 64)
    batchWrite (engWrite s (quadDie q) 1 (s.core q).space (a.hbmAddr j x) (bytesOf (windowRead s q j x) 64) pois).1 q j (x + 1) n

/-! ### The length of a hold (R233) -/

/-- A command's cycles n later. -/
def Cmd.later (k : Cmd) (n : Nat) : Cmd := { k with start := k.start + n, arrive := k.arrive + n }

/-- A cell's pending cycles n later. -/
def CellSt.later (c : CellSt) (n : Nat) : CellSt :=
  { c with
    qMat := c.qMat.map fun k => k.later n
    qVec := c.qVec.map fun k => k.later n
    qSf := c.qSf.map fun k => k.later n
    freeAt := c.freeAt.map fun p => (p.1, p.2 + n)
    sched := c.sched.map fun e => { e with due := e.due + n }
    wAct := c.wAct.map fun b => { b with readyAt := b.readyAt + n }
    wShad := c.wShad.map fun b => { b with readyAt := b.readyAt + n }
    qports := c.qports.map fun p => (p.1, { p.2 with
      from_ := p.2.from_ + n
      held := p.2.held.map fun h => (h.1 + n, h.2) }) }

/-- A pending result n cycles later, with the time base that a KEY will write. -/
def PendWrite.later (w : PendWrite) (n : Nat) : PendWrite :=
  { w with due := w.due + n, val := if w.dst = .tbase then w.val + BitVec.ofNat 1024 n else w.val }

/-- A time base and the pending results n cycles later. -/
def Arch.later (a : Arch) (n : Nat) : Arch := { a with tbase := a.tbase + n, pend := a.pend.map fun w => w.later n }

/-- A core's pending cycles n later, in the copies of its registers too. -/
def CoreSt.later (c : CoreSt) (n : Nat) : CoreSt :=
  { c with
    issueAt := c.issueAt + n
    arch := c.arch.later n
    snaps := c.snaps.map fun (p : Nat × Arch × Option RevWalk) => (p.1, p.2.1.later n, p.2.2) }

/-- The waiting granules of a cell are written by the rule of their record. -/
def writeWaiting (s : State) (q j : Nat) : State :=
  let ws := (s.cell q j).waiting
  ws.foldl (fun t w => writeGranules t q j w.bundle w.queue w.pos [w.val]) (s.modCell q j fun c => { c with waiting := [], parked := false })

/-- A hold ends: every pending cycle of the quad moves later by its length, what arrived from other dies takes effect at its
shifted cycle, and the slip is recorded (R233). -/
def endHold (s : State) (q : Nat) (h : Hold) : State :=
  let n := s.pcc - h.since
  let s1 := [0, 1, 2, 3].foldl (fun t j => t.modCell q j fun c => c.later n) s
  let s2 := s1.modCore q fun c => { c.later n with hold := none }
  let shift (due : Nat) (quad : Nat) : Nat := if quad = q ∧ due < s.pcc then due + n else due
  let s3 := { s2 with
    arrivals := s2.arrivals.map fun a => { a with due := shift a.due a.quad }
    laneMsgs := s2.laneMsgs.map fun m => { m with due := shift m.due m.quad } }
  let slot := match (s.core q).task with | some t => t.slot | none => 0
  writeSlip s3 h.when_ 2 q slot h.frame n

/-! ### A batch -/

/-- The youngest bundle of a quad with a reservation: its number and index; where a cancellation has taken it back, the bundle
that issues next. -/
def youngestReserved (c : CoreSt) : Nat × Nat :=
  match c.snaps.find? fun p => c.lastRes == some p.1 with
  | some p => (p.1, p.2.1.pc)
  | none => (c.bid, c.arch.pc)

/-- SPAN with sub-cause 9 against that bundle: a hold ends, what the cancelled bundles left waiting is discarded, and what older
bundles left waits on without a hold; the batch is tried again after TRET (R232). DEDUCED, log 43. -/
def spillFault (s : State) (q j kind : Nat) : State :=
  let b := youngestReserved (s.core q)
  let s0 := match (s.core q).hold with
    | some h => endHold s q h
    | none => s
  let s1 := cancelFrom s0 q b.1
  let s2 := [0, 1, 2, 3].foldl (fun t i => t.modCell q i fun c =>
    let ws := c.waiting.filter fun w => decide (w.pos < (s1.core q).arch.depth i)
    { c with waiting := ws, parked := !ws.isEmpty, spillStop := c.spillStop || i == j }) s1
  let t : Trap :=
    { cause := 10, slot := 4, origin := 0, cell := 0, chan := 0, ce := false, gstep := false,
      tval := spanTval 9 4 j (s.core q).arch.spanId kind, tpc := b.2, seen := s.pcc }
  if (s2.core q).frontier < b.1 then s2.modCore q fun c => { c with trapReq := some t } else takeTrap s2 q t

/-- The batch of a cell is written, or faults. -/
def spillBatch (s : State) (q j : Nat) : State :=
  let x := s.cell q j
  let n := batchSize s q j
  if !(spillDue s q j) then s
  else if (s.core q).arch.hbmSize j < x.spilled + n then spillFault s q j 0
  else
    match batchPages s q j x.spilled n with
    | (t, some e) => spillFault t q j e.1
    | (t, none) =>
      (batchWrite t q j x.spilled n).modCell q j fun c => { c with batch := some { lo := x.spilled, n := n, done := true } }

/-- R232: a batch of written granules goes to the HBM area. -/
def execSpillBatch (s : State) : Host.Outcome State Fault Refusal := .next (spillBatch s s.arg.a s.arg.b)

/-- R232: every write of the batch has been performed; H rises, the granules are free, and granules that wait without a hold are
written. -/
def execSpillComplete (s : State) : Host.Outcome State Fault Refusal :=
  let q := s.arg.a
  let j := s.arg.b
  let t := s.modCell q j fun c =>
    match c.batch with
    | some b => { c with spilled := b.lo + b.n, batch := none }
    | none => c
  .next (if (t.cell q j).parked && (t.core q).hold.isNone then writeWaiting t q j else t)

/-! ### Run-ahead and demand reads (R242) -/

/-- Granules from H − 1 downward are read back into the window, one after the other, as far as they can be read. -/
def readBack (s : State) (q j : Nat) : Nat → State × Option (Nat × Nat × Nat)
  | 0 => (s, none)
  | n + 1 =>
    let h := (s.cell q j).spilled
    if h = 0 then (s, none)
    else
      match hbmRead s q j (h - 1) with
      | (t, .error e) => (t, some (h - 1, e.1, e.2))
      | (t, .ok v) => readBack ((putGranule t q j (h - 1) v).modCell q j fun c => { c with spilled := h - 1 }) q j n

/-- Granules a run-ahead read may bring: at most a quarter of the window, and no more than is free and spilled. -/
def aheadSize (s : State) (q j : Nat) : Nat :=
  let a := (s.core q).arch
  let h := (s.cell q j).spilled
  min (min ((a.ring j + 3) / 4) h) (a.ring j - (a.depth j - h))

/-- The run-ahead unit of a cell reads: a walk is in progress, less than a quarter of the window is held, and no read that would
fault has stopped it. -/
def aheadDue (s : State) (q j : Nat) : Bool :=
  let c := s.core q
  c.rev.isSome && c.arch.revActive && (s.cell q j).batch.isNone && !((s.cell q j).aheadStop) && decide (0 < aheadSize s q j) &&
    decide (4 * heldGranules s q j < c.arch.ring j)

/-- A batch of run-ahead reads; one that would fault stops the unit until the walk demands a granule (R242). -/
def runAhead (s : State) (q j : Nat) : State :=
  if !(aheadDue s q j) then s
  else
    let r := readBack s q j (aheadSize s q j)
    r.1.modCell q j fun c => { c with aheadStop := r.2.isSome }

/-- R242. -/
def execRunAheadRead (s : State) : Host.Outcome State Fault Refusal := .next (runAhead s s.arg.a s.arg.b)

/-! ### The residual-window hold (R233) -/

/-- A hold that could never end: some granule from H up to the one that holds the waiting position is not written. -/
def holdHopeless (s : State) (q j : Nat) : Bool :=
  let c := s.cell q j
  match c.waiting.head? with
  | some w =>
    let x := w.pos - (s.core q).arch.ring j
    c.reserved.any fun r => decide (c.spilled < r.1 + r.2 ∧ r.1 ≤ x)
  | none => false

/-- A granule waits: the quad is not yet held, or a hold that another cell began in the same cycle could never end for this one. -/
def holdDue (s : State) (q j : Nat) : Bool :=
  let x := s.cell q j
  !x.waiting.isEmpty && !x.parked && (match (s.core q).hold with
    | none => true
    | some h => h.since == x.waitFrom && holdHopeless s q j)

/-- The bundle and the queue of the command whose granule a cell waits to write (R155). -/
def waitingRecord (s : State) (q j : Nat) : Nat × Nat :=
  match (s.cell q j).waiting.head? with
  | some w => (w.bundle, w.queue)
  | none => ((s.core q).arch.pc, 0)

/-- R233: the quad is held from the cycle on in which the granule began to wait; where the window can never drain, the cell raises
TIMING instead, against the command whose granule waits, and what waited is not written. The fault names no slot (DEDUCED, log 35). -/
def execResidualHold (s : State) : Host.Outcome State Fault Refusal :=
  let q := s.arg.a
  let j := s.arg.b
  .next (if !(holdDue s q j) then s
    else if holdHopeless s q j then
      timingFault ((s.modCell q j fun c => { c with waiting := [] }).modCore q fun c => { c with hold := none }) q
        (waitingRecord s q j).1 7 1 11 j (waitingRecord s q j).2 0
    else s.modCore q fun c => { c with hold := some { since := (s.cell q j).waitFrom, cell := j, when_ := s.ptpNs, frame := s.frame.toNat } })

/-- A hold can end: the first waiting granule of each cell has a free position. -/
def holdEndDue (s : State) (q : Nat) : Bool :=
  (s.core q).hold.isSome && [0, 1, 2, 3].all fun j =>
    match (s.cell q j).waiting.head? with
    | some w => decide (w.pos < (s.cell q j).spilled + (s.core q).arch.ring j)
    | none => true

/-- R233: the hold ends and the waiting granules are written by the rule of their record. -/
def execResidualHoldEnd (s : State) : Host.Outcome State Fault Refusal :=
  let q := s.arg.a
  .next (match (s.core q).hold with
    | none => s
    | some h =>
      if holdEndDue s q then [0, 1, 2, 3].foldl (fun t j => writeWaiting t q j) (endHold s q h) else s)

end Sys2Proof.Machine
end

