-- ==== Sys2Proof/Machine/Span.lean ====
section
/-! DEFINITION. Span boundaries and the reverse walk (R222 to R227, R236 to R243, R246, R423 to R425). -/

namespace Sys2Proof.Machine

/-! ### Descriptors and sr.rvs -/

/-- sr.rvs from its fields (R234). -/
def rvsWord (bundle : Nat) (active replay inspan : Bool) (desc first : Nat) : BitVec 39 :=
  BitVec.ofNat 39 (bundle % 2 ^ 11 + (if active then 2 ^ 11 else 0) + (if replay then 2 ^ 12 else 0)
    + (if inspan then 2 ^ 13 else 0) + 2 ^ 16 * (desc % 2 ^ 12) + 2 ^ 28 * (first % 2 ^ 11))

/-- sr.rvs with another current bundle. -/
def Arch.rvsAt (a : Arch) (bundle : Nat) : Arch :=
  { a with rvs := (a.rvs &&& ~~~(0x7FF : BitVec 39)) ||| BitVec.ofNat 39 (bundle % 2 ^ 11) }

/-- A tile-gradient area overlaps len bytes at an address; no bytes overlap nothing. -/
def areaMeets (d : BitVec 1024) (t at_ len : Nat) : Bool :=
  decide (0 < len ∧ descTileAddr d t < at_ + len ∧ at_ < descTileAddr d t + 0x80000)

/-- A well-formed descriptor under the residual windows of a core (R224). -/
def descOk (a : Arch) (d : BitVec 1024) : Bool :=
  let ns := [0, 1, 2, 3]
  let ts := (List.range 8).filter fun t => descTileGrad d t
  decide (nfield d 17 15 = 0) && decide (nfield d 100 4 = 0) && decide (nfield d 112 16 = 0) && decide (nfield d 384 640 = 0)
    && ns.all (fun n => !(d.getLsbD (64 + 4 * n + 2)))
    && (List.range 8).all (fun t => decide (nfield d (128 + 32 * t + 22) 10 = 0))
    && ns.all (fun n => match descGmap d n with
      | some m => (descGmap d m).isNone && !(d.getLsbD (96 + m)) && ns.all fun k => k == n || descGmap d k != some m
      | none => true)
    && ts.all (fun t => decide (descTileAddr d t % 1024 = 0) && decide (descTileAddr d t + 0x80000 ≤ spmSize)
        && ts.all (fun u => u == t || !(areaMeets d t (descTileAddr d u) 0x80000))
        && ns.all (fun j => !(areaMeets d t (1024 * a.winBase j) (1024 * a.winSize j))))

/-- A window that passes the end of scratchpad (R234). -/
def windowsOk (a : Arch) : Bool := [0, 1, 2, 3].all fun j => decide (a.winBase j + a.winSize j ≤ 4096)

/-- The boundary sources of a descriptor in record order: tiles 0 to 7, accumulators 8 to 11 (R240). -/
def boundarySrcs (d : BitVec 1024) : List Nat := (List.range 12).filter fun k => d.getLsbD (88 + k)

/-! ### SPAN and SPEND (R423, R424) -/

/-- The guard of an instruction as the predicates stand. -/
def Arch.live (a : Arch) (i : Instr) : Bool := let g := guardReg i; a.guardTrue g.1 g.2

/-- The opening record, and the boundary records under the recompute flag, reserved in one cell; what the bundle's other slots have
pushed before lies below it (R230). DEDUCED, log 43. -/
def reserveOpening (s : State) (q j : Nat) (d : BitVec 1024) : Except Nat State :=
  match reserve s q j 1 none with
  | .error n => .error n
  | .ok t =>
    let u := t.modArch q fun a => { a with pushedFirst := sset 0 a.pushedFirst j (sget 0 a.pushed j) }
    if descRecompute d then reserve u q j (1024 * (boundarySrcs d).length) (some (descBudget d)) else .ok u

/-- The opening or closing record of a cell is written at issue + 24, the earliest cycle in which a command of its bundle reads
an operand (R231, R423, R424). -/
def recordSched (c : CoreSt) (pcc lead x : Nat) (g : BitVec 512) : Sched :=
  { due := pcc + lead, prio := 0, bid := c.bid, bundle := c.arch.pc, erc := false, eff := .granules 3 x [g] }

/-- The boundary records of a cell from granule x on: one granule per cycle from issue + 24, under sr.erc with the check of early
reads (R172). -/
def boundarySched (c : CoreSt) (pcc lead x : Nat) (d : BitVec 1024) : List Sched :=
  if descRecompute d then
    (boundarySrcs d).zipIdx.map fun p =>
      { due := pcc + lead + 1024 * p.2, prio := 0, bid := c.bid, bundle := c.arch.pc, erc := c.arch.erc,
        eff := .boundary p.1 0 (x + 1024 * p.2) }
  else []

/-- The format words queued for cell j before the current bundle. -/
def CoreSt.wordsBefore (c : CoreSt) (j : Nat) : List Word :=
  match c.snaps.find? fun p => p.1 == c.bid with
  | some p => p.2.1.fmts j
  | none => c.arch.fmts j

/-- The opening record and what follows it on the cells of a list. -/
def openCells (s : State) (q : Nat) (d : BitVec 1024) : List Nat → State × Option (Nat × Nat)
  | [] => (s, none)
  | j :: rest =>
    let x := (s.core q).arch.depth j
    match reserveOpening s q j d with
    | .error n => (s, some (n, j))
    | .ok t =>
      let g : BitVec 512 := BitVec.ofNat 512 (nfield d 0 17)
      let u := t.modCell q j fun c =>
        { c with
          opened := sset 0 c.opened x c.spilled
          words := sset [] c.words x ((s.core q).wordsBefore j)
          sched := c.sched ++ recordSched (s.core q) s.pcc (s.lead q) x g :: boundarySched (s.core q) s.pcc (s.lead q) (x + 1) d }
      openCells u q d rest

/-- In replay SPAN reads nothing again: the recorded seeds, shapes and formats of its younger bundles lie above its boundary
records. -/
def replaySpan (s : State) (q : Nat) : State :=
  s.modCore q fun c =>
    { c with rev := c.rev.map fun w =>
        { w with seedAt := [0, 1, 2, 3].foldl (fun m j =>
            sset 0 m j (sget 0 w.opening j + 1 + 1024 * (boundarySrcs c.arch.spanDesc).length)) w.seedAt } }

/-- R423: a bad address or descriptor raises SPAN 7; a span or walk in progress SPAN 4. -/
def execSpan (f : ER) (s : State) : Host.Outcome State Fault Refusal :=
  let i : Instr := .span f
  .next (issueSlot s i false (liveGuard s i || (s.core s.cur).arch.walking) fun t =>
    let q := t.cur
    let c := t.core q
    let at0 := (c.arch.rx f.xa.toNat).toNat
    let d := c.arch.ldmLine at0
    if c.arch.walking then nextSlot (replaySpan t q) q
    else if c.arch.inSpan || c.arch.revActive then spanFault t q 4 0
    else if ldmAddrOk (c.arch.rx f.xa.toNat) 128 = false ∨ descOk c.arch d = false ∨ windowsOk c.arch = false then
      spanFault t q 7 0
    else
      match openCells t q d [0, 1, 2, 3] with
      | (_, some e) => spanFault t q e.1 e.2
      | (u, none) =>
        nextSlot (u.modArch q fun a =>
          { a with rvs := rvsWord 0 false false true (at0 / 64) c.arch.pc, spanDesc := d }) q)

/-- The closing record on the cells of a list. -/
def closeCells (s : State) (q : Nat) : List Nat → State × Option (Nat × Nat)
  | [] => (s, none)
  | j :: rest =>
    let a := (s.core q).arch
    match reserve s q j 1 none with
    | .error n => (s, some (n, j))
    | .ok t =>
      let g : BitVec 512 := BitVec.ofNat 512 (a.spanId + 2 ^ 16 * ((sget 0 a.pushed j - sget 0 a.pushedFirst j) % 2 ^ 40))
      closeCells (t.modCell q j fun c => { c with sched := c.sched ++ [recordSched (s.core q) s.pcc (s.lead q) (a.depth j) g] }) q rest

/-- Every port the span binds is bound in reverse at the end of its walk (R241); a replay, whose PBINDs bind the ports forwards, comes
first. DEDUCED, log 41. -/
def bindReverse (s : State) (q first spend : Nat) : State :=
  let c := s.core q
  (List.range ((spend + 2048 - first) % 2048 + 1)).foldl (fun t k =>
    match decodeSlot .e (bundleSlot .e (c.bundleAt (first + k))) with
    | .pbind f =>
      if c.arch.live (.pbind f) then
        let set := sget 0 c.arch.gens (nfield f.fn 3 4)
        let p := { QPort.unbound with bound := true, set := set, reverse := !(setReverse set), from_ := s.pcc, next := setLength set }
        (cellsOf f.cm).foldl (fun t j => t.modCell q j fun x =>
          { x with qports := sset QPort.unbound x.qports (nfield f.fn 0 3) p }) t
      else t
    | _ => t) s

/-- The replay phase is over: the walk back begins at REV's bundle. -/
def endReplay (s : State) (q : Nat) (w : RevWalk) : State :=
  (nextSlot ((bindReverse s q w.first w.spend).modCore q fun c =>
      { c with taken := some w.revBundle, rev := some { w with phase := 1 },
               arch := { c.arch with rvs := c.arch.rvs &&& ~~~(0x1000 : BitVec 39) } }) q).modCore q fun c => { c with slot := 4 }

/-- R424: without an open span SPEND raises SPAN 14; in replay it ends the forward run. -/
def execSpend (f : EI) (s : State) : Host.Outcome State Fault Refusal :=
  .next (issueSlot s (.spend f) false true fun t =>
    let q := t.cur
    let c := t.core q
    match c.arch.walking, c.rev with
    | true, some w => endReplay t q w
    | _, _ =>
      if !(c.arch.inSpan) then spanFault t q 14 0
      else
        match closeCells t q [0, 1, 2, 3] with
        | (_, some e) => spanFault t q e.1 e.2
        | (u, none) =>
          nextSlot (u.modArch q fun a =>
            { a with rvs := a.rvs &&& ~~~(0x2000 : BitVec 39), pushed := [], pushedFirst := [], spanPorts := [], spanLoops := [],
                     spanWrites := [] }) q)

/-! ### The forward run (R236) -/

/-- The forward run before one of its bundles: the bundle, the loop counters, and per cell and port the generator number plus one
and the entries taken since the port was bound. -/
structure FwdState where
  pc : Nat
  lc : Sparse LoopCtr
  ports : Sparse (Nat × Nat)
  deriving DecidableEq, Repr

/-- The slots of the bundle a forward run is at. -/
def FwdState.slot (f : FwdState) (c : CoreSt) (k : SlotKind) : Instr := decodeSlot k (bundleSlot k (c.bundleAt f.pc))

/-- The command of a slot takes its port entries in the cells it selects; one of slot T or E whose guard is false takes none (R301). -/
def takePorts (a : Arch) (m : Sparse (Nat × Nat)) (k : SlotKind) (i : Instr) : Sparse (Nat × Nat) :=
  match cmdMask i with
  | none => m
  | some cm => if k != .v && !(a.live i) then m else (cellsOf cm).foldl (fun m j => (portPops i).foldl (fun m p =>
      let v := sget (0, 0) m (portKey j p)
      sset (0, 0) m (portKey j p) (v.1, v.2 + 1)) m) m

/-- A PBIND binds its port anew. -/
def bindPorts (a : Arch) (m : Sparse (Nat × Nat)) (i : Instr) : Sparse (Nat × Nat) :=
  match i with
  | .pbind f => if a.live i then
      (cellsOf f.cm).foldl (fun m j => sset (0, 0) m (portKey j (nfield f.fn 0 3)) (nfield f.fn 3 4 + 1, 0)) m else m
  | .pbindOff f => if a.live i then
      (cellsOf f.cm).foldl (fun m j => sset (0, 0) m (portKey j (nfield f.fn 0 3)) (0, 0)) m else m
  | _ => m

/-- One bundle of the forward run: loops open and close, ports are read and bound. -/
def fwdStep (c : CoreSt) (f : FwdState) : FwdState :=
  let c1 := { c with arch := { c.arch with pc := f.pc, lc := f.lc }, taken := none }
  let c2 := match f.slot c .a with
    | .loop g => if c.arch.live (.loop g) then openLoop c1 (g.d.toNat % 4) g.imm.toNat g.a.toNat none else c1
    | .loopx g => if c.arch.live (.loopx g) then
        openLoop c1 (g.d.toNat % 4) ((c.arch.rx g.a.toNat).toNat % 2 ^ 32) (g.imm.toNat % 2048) none else c1
    | _ => c1
  let nx := match c2.taken with
    | some t => (t, c2.arch.lc)
    | none => loopNext c2.arch.lc f.pc [0, 1, 2, 3]
  let p := [SlotKind.t, .v, .e].foldl (fun m k => takePorts c.arch m k (f.slot c k)) f.ports
  { pc := nx.1, lc := nx.2, ports := bindPorts c.arch p (f.slot c .e) }

/-- The forward run after n bundles. DEDUCED, log 41. -/
def fwdRun (c : CoreSt) (first : Nat) : Nat → FwdState
  | 0 => { pc := first, lc := [], ports := [] }
  | n + 1 => fwdStep c (fwdRun c first n)

/-- Bundles of the forward run up to the one that holds SPEND, within a bound. -/
def fwdCount (c : CoreSt) (spend : Nat) : Nat → FwdState → Nat
  | 0, _ => 0
  | n + 1, f => if f.pc = spend then 1 else 1 + fwdCount c spend n (fwdStep c f)

/-- More bundles than any span runs: four nested loops of 2^32 turns over 2,048 bundles. -/
def fwdBound : Nat := 2 ^ 170

/-- The row a port delivers as its n-th entry, from the scratchpad as it stands (R240, R241). -/
def portRowAt (s : State) (q j : Nat) (b : Nat × Nat) (n : Nat) : Row :=
  let set := sget 0 (s.core q).arch.gens (b.1 - 1)
  let p : QPort := { QPort.unbound with bound := true, set := set, reverse := setReverse set }
  if b.1 = 0 then 0 else rowOfBytes ((s.cell q j).readLaid (setLay set) (p.entryAddr n) 1024)

/-- The entry number each source of an instruction reads on a cell, with the port's binding; none for a register source (R297). -/
def sourceEntries (m : Sparse (Nat × Nat)) (j : Nat) : Sparse Nat → List (BitVec 9) → List (Option ((Nat × Nat) × Nat))
  | _, [] => []
  | taken, c :: r =>
    match srcCode c with
    | some (.pop p) =>
      let b := sget (0, 0) m (portKey j p)
      some (b, b.2 + sget 0 taken p) :: sourceEntries m j (sset 0 taken p (sget 0 taken p + 1)) r
    | some (.peek p) =>
      let b := sget (0, 0) m (portKey j p)
      some (b, b.2 + sget 0 taken p) :: sourceEntries m j taken r
    | _ => none :: sourceEntries m j taken r

/-! ### Records of a reverse bundle (R230, R237) -/

/-- What one command of a reverse bundle pops in a cell: its shape or format record, its records and their first granule. -/
structure SlotRec where
  cell : Nat
  slot : Nat
  instr : Instr
  tm : BitVec 32
  fmt : Word
  ops : Nat
  base : Nat
  deriving DecidableEq, Repr

/-- A cell's stack as the pops go: the top, the top of the records read in place, their log, the commands so far. -/
structure CellPlan where
  top : Nat
  keepTop : Nat
  log : List Nat
  recs : List SlotRec
  deriving DecidableEq, Repr

/-- The base granule and the slot of each record a plan pops. -/
def CellPlan.slots (p : CellPlan) : List (Nat × Nat) := p.recs.map fun r => (r.base, r.slot)

/-- A granule that must come first, or that cannot be read, with the slot that pops it. -/
inductive PlanFault where
  /-- the pops of a cell pass the capacity of its window (R237) -/
  | tooMany (cell : Nat)
  | demand (cell x : Nat) (slots : List (Nat × Nat))
  | unread (cell slot x kind status : Nat)
  deriving DecidableEq, Repr

/-- The instruction pushed a shape or format record whatever its kind (R230). -/
def hasShape : Instr → Bool
  | .vtma _ | .vtmm _ | .vtmf _ | .mma _ => true
  | _ => false

/-- The records of a command, its shape or format record given. -/
def planOps (c1 : CoreSt) (q : Nat) (recompute : Bool) (marked : Bool) (tm : BitVec 32) (fmt : Word) (i : Instr) : Nat :=
  match i with
  | .drain _ => if marked && !recompute then 8 else 0
  | _ =>
    match recordsOf c1 q c1.arch.spanDesc tm fmt i recompute with
    | .ok n => n
    | .error _ => 0

/-- The plan of a cell after one more command; c1 stands at the reverse bundle. A look ahead reads a shape or format record in place,
where else it must first be held; pops past the capacity of the window end the plan. -/
def planCmd (s : State) (q j k : Nat) (look : Bool) (w : RevWalk) (c1 : CoreSt) (i : Instr) (p : CellPlan) :
    State × Except PlanFault CellPlan :=
  let past (top : Nat) : Bool := decide (c1.arch.ring j < c1.arch.depth j - top)
  let kept := if w.recompute then (p.log.head?).getD 0 else 0
  let at_ := if w.recompute then p.keepTop - 1 else p.top - 1
  let finish (t : State) (g : BitVec 512) : State × Except PlanFault CellPlan :=
    let tm : BitVec 32 := g.setWidth 32
    let fmt : Word := g.setWidth 64
    let ops := planOps c1 q w.recompute ((s.cell q j).seedMarks.contains at_) tm fmt i
    let base := p.top - recGranules i ops
    if past base then (t, .error (.tooMany j)) else
    (t, .ok { top := base, keepTop := p.keepTop - kept, log := p.log.drop 1,
              recs := p.recs ++ [{ cell := j, slot := k, instr := i, tm := tm, fmt := fmt, ops := ops, base := base }] })
  if !(hasShape i) then finish s 0
  else if !w.recompute && past at_ then (s, .error (.tooMany j))
  else if w.recompute || look then
    match granuleRead s q j at_ with
    | (t, .ok g) => finish t g
    | (t, .error e) => (t, .error (.unread j k at_ e.1 e.2))
  else if granuleHeld s q j at_ then finish s (windowRead s q j at_)
  else (s, .error (.demand j at_ (p.slots ++ [(at_, k)])))

/-- The plan of a cell after a slot of the reverse bundle: SPEND pops the closing record and SPAN the opening one; with
recomputation both stay to the end. -/
def planSlot (q j : Nat) (look : Bool) (w : RevWalk) (c1 : CoreSt) (acc : State × Except PlanFault CellPlan) (k : Nat) :
    State × Except PlanFault CellPlan :=
  match acc with
  | (s, .error e) => (s, .error e)
  | (s, .ok p) =>
    let i := c1.slotInstr (slotAt k)
    match i with
    | .spend _ => if w.recompute then (s, .ok p) else (s, .ok { p with top := p.top - 1 })
    | .span _ => if w.recompute then (s, .ok { p with keepTop := sget 0 w.opening j })
        else (s, .ok { p with top := p.top - 1 })
    | _ =>
      match cmdMask i with
      | some cm => if cm.getLsbD j then planCmd s q j k look w c1 i p else (s, .ok p)
      | none => (s, .ok p)

/-- The plan of a cell for slots E, T and V. -/
def planCell (s : State) (q : Nat) (look : Bool) (w : RevWalk) (c1 : CoreSt) (j : Nat) : State × Except PlanFault CellPlan :=
  [4, 3, 2].foldl (planSlot q j look w c1)
    (s, .ok { top := c1.arch.depth j, keepTop := sget 0 w.seedAt j, log := sget [] w.keepLog j, recs := [] })

/-- The plans of the cells of a list. -/
def planCells (s : State) (q : Nat) (w : RevWalk) (c1 : CoreSt) : List Nat → State × Except PlanFault (List CellPlan)
  | [] => (s, .ok [])
  | j :: r =>
    match planCell s q false w c1 j with
    | (t, .error e) => (t, .error e)
    | (t, .ok p) =>
      match planCells t q w c1 r with
      | (u, .error e) => (u, .error e)
      | (u, .ok ps) => (u, .ok (p :: ps))

/-- The first cell whose window the pops of a reverse bundle pass, found before anything is done (R237). -/
def tooManyPops (s : State) (q : Nat) (w : RevWalk) (c1 : CoreSt) : Option Nat :=
  [0, 1, 2, 3].find? fun j =>
    match (planCell s q true w c1 j).2 with
    | .error (.tooMany _) => true
    | .ok p => decide (c1.arch.ring j < c1.arch.depth j - p.top)
    | _ => false

/-! ### Scalar inverses (R237 step 1) -/

/-- Register d before a slot wrote it. -/
def undoSlot (a : Arch) (i : Instr) : Arch :=
  let set (f : BitVec 6) (v : Word) : Arch := if f = 0 then a else { a with x := sset 0 a.x f.toNat v }
  let x (f : BitVec 6) : Word := a.rx f.toNat
  match i with
  | .add f => set f.d (x f.d - x f.b)
  | .sub f => set f.d (x f.d + x f.b)
  | .xorx f => set f.d (x f.d ^^^ x f.b)
  | .rot f => set f.d ((x f.d).rotateRight ((x f.b).toNat % 64))
  | .addi f => set f.d (x f.d - f.imm.signExtend 64)
  | .xori f => set f.d (x f.d ^^^ f.imm.signExtend 64)
  | .roti f => set f.d ((x f.d).rotateRight ((f.imm.signExtend 64).toNat % 64))
  | _ => a

/-- An instruction reads the register another one writes. -/
def readsDest (i k : Instr) : Bool :=
  match destReg k with
  | some r => (operandReads i).contains r
  | none => false

/-- The registers before slots A and B wrote them; the slot whose operand the other one wrote is undone last. Where each wrote the
other's operand no inverse gives them, and they take free values (DESIGN CHOICE, log 17). -/
def undoBundle (a : Arch) (fresh : Nat) (sa sb : Instr) : Arch :=
  if readsDest sa sb && readsDest sb sa then
    let put (a : Arch) (i : Instr) (n : Nat) : Arch :=
      match destReg i with
      | some (.x d) => { a with x := sset 0 a.x d (Config.freeWord n) }
      | _ => a
    put (put a sa fresh) sb (fresh + 1)
  else if readsDest sa sb then undoSlot (undoSlot a sb) sa
  else undoSlot (undoSlot a sa) sb

/-- The scalar registers of core q before slots A and B of a bundle wrote them. -/
def undoScalars (s : State) (q : Nat) (sa sb : Instr) : State :=
  let t := s.modArch q fun a => undoBundle a s.fresh sa sb
  if readsDest sa sb && readsDest sb sa then { t with fresh := t.fresh + 2 } else t

/-- The scalar registers before the first n bundles of a forward run, which replay starts from (R236, R240). -/
def undoRun (c : CoreSt) (q first : Nat) : Nat → State → State
  | 0, s => s
  | n + 1, s =>
    let f := fwdRun c first n
    undoRun c q first n (undoScalars s q (f.slot c .a) (f.slot c .b))

/-! ### Pair lanes in reverse (R246) -/

/-- The peer's physical quad and pair number. -/
def CoreSt.peer (c : CoreSt) (n : Nat) : Nat × Nat :=
  (c.physQuad (nfield (c.pairEntry n) 0 8), nfield (c.pairEntry n) 16 3)

/-- Rows sent on a lane of pair n by quad q from this cycle on (R429). DEDUCED, log 42. -/
def sendRows (s : State) (q n : Nat) (back : Bool) (rows : List Row) : State :=
  let p := (s.core q).peer n
  let lat := s.lat (quadDie q) (quadDie p.1)
  { s with laneMsgs := s.laneMsgs ++ rows.zipIdx.map fun r =>
      { due := s.pcc + 10 + lat + 4 * r.2, quad := p.1, lane := laneKey p.2 back, row := some r.1,
        crosses := quadDie q != quadDie p.1 } }

/-- A credit for each of m rows popped from a lane of pair n by quad q (R429). -/
def returnCredits (s : State) (q n : Nat) (back : Bool) (m : Nat) : State :=
  let p := (s.core q).peer n
  let lat := s.lat (quadDie q) (quadDie p.1)
  { s with laneMsgs := s.laneMsgs ++ (List.range m).map fun _ =>
      { due := s.pcc + lat, quad := p.1, lane := laneKey p.2 back, row := none, crosses := quadDie q != quadDie p.1 } }

/-- The first m rows of a lane are taken. -/
def popRows (s : State) (q n : Nat) (back : Bool) (m : Nat) : State × List Row :=
  let l := sget [] (s.core q).lanes (laneKey n back)
  (returnCredits (s.modCore q fun c => { c with lanes := sset [] c.lanes (laneKey n back) (l.drop m) }) q n back m,
   (l.take m).map fun r => r.2)

/-! ### The effect of a reverse bundle -/

/-- n rows of residuals from granule x on. -/
def residualRows (s : State) (q j x n : Nat) : List Row :=
  (List.range n).map fun k => rowOfGranules ((List.range 16).map fun i => windowRead s q j (x + 16 * k + i))

/-- Operands a and b of a command: its records, or the port's entries read again. -/
def reverseOperands (s : State) (q : Nat) (r : SlotRec) (es : List (Option ((Nat × Nat) × Nat))) : List Row × List Row :=
  let na := match r.instr with
    | .mma _ => 64
    | .vtmf _ => 3
    | _ => 1
  let nb := match r.instr with
    | .mma _ => 64
    | _ => 1
  let fromPort (k n : Nat) : List Row :=
    match es[k]? with
    | some (some (b, e)) => (List.range n).map fun i => portRowAt s q r.cell b (e + i)
    | _ => []
  let a := if hasRec r.ops 1 then residualRows s q r.cell r.base na else fromPort 0 na
  let b := if hasRec r.ops 2 then residualRows s q r.cell (r.base + (if hasRec r.ops 1 then 16 * na else 0)) nb
    else fromPort 1 nb
  (a, b)

/-- The mask record of a command. -/
def reverseMask (s : State) (q : Nat) (r : SlotRec) : BitVec 512 :=
  if hasRec r.ops 4 then
    windowRead s q r.cell (r.base + (if hasRec r.ops 1 then 16 else 0) + (if hasRec r.ops 2 then 16 else 0))
  else 0

/-- A command of slot T or V applies its adjoint on its cell, by the guard as the predicates stand. -/
def applyRec (d : BitVec 1024) (q : Nat) (f : FwdState) (s : State) (r : SlotRec) : State :=
  let a := (s.core q).arch
  if !(hasRec (adjointNeeds d r.tm r.fmt r.instr) 128) then s
  else
    let ports := if r.slot = 3 then f.ports
      else if r.slot = 2 then takePorts a f.ports .t (f.slot (s.core q) .t)
      else takePorts a (takePorts a f.ports .t (f.slot (s.core q) .t)) .v (f.slot (s.core q) .v)
    let o := reverseOperands s q r (sourceEntries ports r.cell [] (sourceCodes r.instr))
    let g := guardReg r.instr
    if r.slot = 2 then
      s.modCell q r.cell fun c =>
        applyVec d r.instr (TmShape.of r.tm) (a.guardBits g.1 g.2) o.1 ((o.2.head?).getD 0) (reverseMask s q r) c
    else if r.slot = 3 then
      let xs : Word := match r.instr with
        | .mma t => a.rx t.xs.toNat
        | _ => 0
      if a.live r.instr then s.modCell q r.cell fun c => applyTile d r.instr r.fmt xs o.1 o.2 c else s
    else
      match r.instr with
      | .sfop t => s.modCell q r.cell fun c => applySfop d t (((residualRows s q r.cell r.base 1).head?).getD 0) c
      | _ => s

/-- XFER in row mode within the quad: the gradients of the destination rows are read and zeroed, then added to those of the
source rows (R441). -/
def reverseXfer (s : State) (q : Nat) (d : BitVec 1024) (f : ER) : State :=
  let c := s.core q
  let x1 := c.arch.rx f.xa.toNat
  let x2 := c.arch.rx f.xb.toNat
  let i : Instr := .xferRow f
  let own := xferOwn c q x2
  match c.arch.live i && own, gradReg d (xferSrc i x1), gradReg d (xferDst i x2) with
  | true, some _, some gd =>
    let to_ (j : Nat) : Nat := (j + xferOffset x2) % 4
    let gs := (cellsOf f.cm).map fun j => (j, (s.cell q (to_ j)).f32Lanes gd)
    let s1 := (cellsOf f.cm).foldl (fun t j => t.modCell q (to_ j) fun c => { c with acc := sset 0 c.acc gd 0 }) s
    gs.foldl (fun t p => t.modCell q p.1 fun c => addGrad d c (xferSrc i x1) (p.2.map some)) s1
  | _, _, _ => s

/-- PSEND and PRECV with an adjoint (R246). -/
def reversePair (s : State) (q : Nat) (d : BitVec 1024) (i : Instr) : State :=
  match i with
  | .psend f =>
    let js := cellsOf f.cm
    let r := popRows s q (nfield f.fn 0 3) true js.length
    (js.zip r.2).foldl (fun t p => t.modCell q p.1 fun c =>
      match srcReg f.a with
      | some v => addGrad d c v ((rowLanes p.2 32).map some)
      | none => c) r.1
  | .precv f =>
    let js := cellsOf f.cm
    let n := nfield f.fn 0 3
    let grad (c : CellSt) : Row :=
      match (dstReg f.d).bind (gradReg d) with
      | some gv => sget 0 c.acc gv
      | none => 0
    let s1 := sendRows s q n true (js.map fun j => grad (s.cell q j))
    let s2 := s1.modArch q fun a =>
      { a with credits := sset 0 a.credits (laneKey n true) (sget 0 a.credits (laneKey n true) + js.length) }
    js.foldl (fun t j => t.modCell q j fun c =>
      match (dstReg f.d).bind (gradReg d) with
      | some gv => { c with acc := sset 0 c.acc gv 0 }
      | none => c) s2
  | _ => s

/-- Port p of the cells of a list is unbound and its counts are zero. -/
def dropPort (s : State) (q p : Nat) (js : List Nat) : State :=
  (js.foldl (fun t j => t.modCell q j fun c => { c with qports := sset QPort.unbound c.qports p QPort.unbound }) s).modArch q
    fun a => setPortCount a p 0 0 js

/-- PSEND and PRECV have an adjoint: no .raw, and the pair is in the descriptor's pmask (R441). -/
def pairAdjoint (d : BitVec 1024) (fn : BitVec 8) : Bool := !(fn.getLsbD 4) && descPair d (nfield fn 0 3)

/-- Slot E of a reverse bundle beyond records; a skipped bundle only unbinds its port. -/
def reverseEngine (s : State) (q : Nat) (d : BitVec 1024) (skip : Bool) (i : Instr) : State :=
  match i with
  | .pbind f => if (s.core q).arch.live i then dropPort s q (nfield f.fn 0 3) (cellsOf f.cm) else s
  | .xferRow f => if skip then s else reverseXfer s q d f
  | .psend f | .precv f => if !skip && pairAdjoint d f.fn then reversePair s q d i else s
  | _ => s

/-- The loop counters take the values of the mirrored forward iteration (R236). -/
def mirrorLoops (a : Arch) (f : FwdState) : Arch :=
  { a with lc := [0, 1, 2, 3].foldl (fun m n =>
      let l := sget LoopCtr.zero f.lc n
      if l = LoopCtr.zero then m else sset LoopCtr.zero m n l) a.lc }

/-- The pops of a reverse bundle take effect. -/
def commitPops (s : State) (q : Nat) (ps : List CellPlan) : State :=
  let s1 := ps.zipIdx.foldl (fun t p =>
    (t.modArch q fun a => { a with rsTop := sset 0 a.rsTop p.2 (BitVec.ofNat 40 p.1.top) }).modCell q p.2 fun c =>
      { c with pin := none, seedMarks := c.seedMarks.filter fun g => decide (g < p.1.top) }) s
  s1.modCore q fun c => { c with rev := c.rev.map fun w =>
    { w with
      pos := w.pos - 1
      seedAt := ps.zipIdx.foldl (fun m p => sset 0 m p.2 p.1.keepTop) w.seedAt
      keepLog := ps.zipIdx.foldl (fun m p => sset [] m p.2 p.1.log) w.keepLog } }

/-! ### The end of the walk -/

/-- H as it stood before SPAN, once D stands at d0: granules above it come back into the window (R236). -/
def restoreSpilled (s : State) (q j d0 h0 : Nat) : State × Option (Nat × Nat × Nat) :=
  let h := min (s.cell q j).spilled d0
  let s1 := s.modCell q j fun c => { c with spilled := if h ≤ h0 then min h0 d0 else h }
  if h ≤ h0 ∨ (s.core q).arch.ring j < d0 - h0 then (s1, none) else readBack s1 q j (h - h0)

/-- D and H of every cell as before SPAN, or the granule that cannot be read. -/
def restoreStacks (s : State) (q : Nat) (w : RevWalk) (ps : List CellPlan) : List Nat → State × Option (Nat × Nat × Nat × Nat)
  | [] => (s, none)
  | j :: r =>
    let d0 := match ps[j]? with
      | some p => if w.recompute then p.keepTop else p.top
      | none => 0
    let s0 := s.modArch q fun a => { a with rsTop := sset 0 a.rsTop j (BitVec.ofNat 40 d0) }
    match restoreSpilled s0 q j d0 (sget 0 (s.cell q j).opened (sget 0 w.opening j)) with
    | (t, some e) => (t, some (j, e))
    | (t, none) =>
      restoreStacks (t.modCell q j fun c => { c with seedMarks := c.seedMarks.filter fun g => decide (g < d0) }) q w ps r

/-- The walk is over: issue goes on after REV's bundle, after an interlocked stall (R425). -/
def endWalk (s : State) (q : Nat) (w : RevWalk) : State :=
  s.modCore q fun c =>
    let c1 := { c with
      rev := none
      taken := w.taken
      idleAdd := w.idle
      keyBase := w.key
      ending := w.ending
      stalled := true
      arch := { c.arch with rvs := c.arch.rvs &&& ~~~(0x1800 : BitVec 39), pc := w.revBundle } }
    endBundle c1 s.pcc

/-! ### One reverse bundle (R237) -/

/-- The forward state before the bundle that is walked back next. -/
def RevWalk.forward (w : RevWalk) (c : CoreSt) : FwdState := fwdRun c w.first (w.pos - 1)

/-- The effects of the reverse bundle on a state whose granules are all held. -/
def applyReverse (s : State) (q : Nat) (w : RevWalk) (f : FwdState) (ps : List CellPlan) : State :=
  let c := s.core q
  let d := c.arch.spanDesc
  let skip := headerSkip (c.bundleAt f.pc)
  let s2 := (undoScalars s q (f.slot c .a) (f.slot c .b)).modArch q fun a => mirrorLoops a f
  let s3 := reverseEngine s2 q d skip (f.slot c .e)
  let recs (k : Nat) : List SlotRec := ps.flatMap fun p => p.recs.filter fun r => r.slot == k
  let s4 := if skip then s3 else (recs 4 ++ recs 3 ++ recs 2).foldl (applyRec d q f) s3
  let s5 := commitPops s4 q ps
  if w.pos ≤ 1 then
    match restoreStacks s5 q w ps [0, 1, 2, 3] with
    | (_, some e) => granuleTrap s q e.1 e.2.1 e.2.2.1 e.2.2.2
    | (t, none) => endWalk t q w
  else s5

/-- A reverse bundle demands granules of a cell from x on: they stay held until it commits (R237, R242). -/
def demandFrom (s : State) (q j x : Nat) (l : List (Nat × Nat)) : State :=
  s.modCell q j fun c =>
    let from_ := match c.pin with
      | some p => (min p.1 x, p.2)
      | none => (x, c.spilled)
    { c with demand := some (x, l), pin := some from_ }

/-- One reverse bundle: its records are found, demanded where they are not held, and popped (R237, R242). -/
def reverseBundle (s : State) (q : Nat) (w : RevWalk) : State :=
  let f := w.forward (s.core q)
  let s0 := s.modArch q fun a => a.rvsAt f.pc
  let c := s0.core q
  let c1 := { c with arch := { c.arch with pc := f.pc } }
  match tooManyPops s0 q w c1 with
  | some j => spanFault s0 q 18 j
  | none =>
    match planCells s0 q w c1 [0, 1, 2, 3] with
    | (t, .error (.tooMany j)) => spanFault t q 18 j
    | (t, .error (.demand j x l)) => demandFrom t q j x l
    | (t, .error (.unread j n x k st)) => granuleTrap (t.modCore q fun c => { c with slot := n }) q j x k st
    | (t, .ok ps) =>
      match ps.zipIdx.find? fun p => decide (p.1.top < c.arch.depth p.2) && decide (p.1.top < (t.cell q p.2).spilled) with
      | some p => demandFrom t q p.2 p.1.top p.1.slots
      | none => applyReverse t q w f ps

/-! ### The start of REV (R240, R425) -/

/-- A scan back from bundle e for SPAN, over at most n bundles. -/
def scanSpan (c : CoreSt) (e : Nat) : Nat → Nat → Option Nat
  | 0, _ => none
  | n + 1, k =>
    match decodeSlot .e (bundleSlot .e (c.bundleAt (e + 2048 - k))) with
    | .span _ => some ((e + 2048 - k) % 2048)
    | _ => scanSpan c e n (k + 1)

/-- What the top record of a cell says: the opening record's granule, or what is wrong (R425 check 4). -/
inductive TopRecord where
  | opening (x : Nat)
  | mismatch
  | above
  | unread (x kind status : Nat)
  deriving DecidableEq, Repr

/-- The top record of cell j against a descriptor. -/
def topRecord (s : State) (q j : Nat) (d : BitVec 1024) : State × TopRecord :=
  let depth := (s.core q).arch.depth j
  if depth < (s.cell q j).spilled then (s, .above)
  else if depth = 0 then (s, .mismatch)
  else
    match granuleRead s q j (depth - 1) with
    | (t, .error e) => (t, .unread (depth - 1) e.1 e.2)
    | (t, .ok g) =>
      let n := nfield g 16 40
      if nfield g 0 16 = nfield d 0 16 ∧ nfield g 56 456 = 0 ∧ n + 2 ≤ depth then (t, .opening (depth - 2 - n)) else (t, .mismatch)

/-- The opening granules of the cells of a list, or the first cell whose top record fails. -/
def topRecords (s : State) (q : Nat) (d : BitVec 1024) : List Nat → State × Except (Nat × TopRecord) (Sparse Nat)
  | [] => (s, .ok [])
  | j :: r =>
    match topRecord s q j d with
    | (t, .opening x) =>
      match topRecords t q d r with
      | (u, .ok m) => (u, .ok (sset 0 m j x))
      | (u, .error e) => (u, .error e)
    | (t, e) => (t, .error (j, e))

/-- One boundary tile or accumulator restored from 1,024 granules and marked full (R240). -/
def restoreSource (c : CellSt) (src : Nat) (gs : List (BitVec 512)) : CellSt :=
  let rows := (List.range 64).map fun k => rowOfGranules ((gs.drop (16 * k)).take 16)
  rows.zipIdx.foldl (fun c r =>
    if src < 8 then { c with tiles := sset 0 c.tiles (64 * src + r.2) r.1 }
    else { c with acc := sset 0 c.acc (64 * (src - 8) + r.2) r.1 }) { c with full := c.full ||| (1 <<< src) }

/-- The boundary records of a cell read in place from granule x on. -/
def restoreBoundary (s : State) (q j : Nat) : Nat → List Nat → State × Option (Nat × Nat × Nat × Nat)
  | _, [] => (s, none)
  | x, src :: r =>
    match granulesRead s q j 1024 x with
    | (t, .error e) => (t, some (j, e))
    | (t, .ok gs) => restoreBoundary (t.modCell q j fun c => restoreSource c src gs) q j (x + 1024) r

/-- The boundary of every cell of a list. -/
def restoreCells (s : State) (q : Nat) (d : BitVec 1024) (op : Sparse Nat) : List Nat → State × Option (Nat × Nat × Nat × Nat)
  | [] => (s, none)
  | j :: r =>
    match restoreBoundary s q j (sget 0 op j + 1) (boundarySrcs d) with
    | (t, some e) => (t, some e)
    | (t, none) => restoreCells t q d op r

/-- Granules that slot k of the bundle with SPAN recorded below the opening record of a cell, found from granule x down. -/
def keptBelow (s : State) (q j : Nat) (c : CoreSt) (d : BitVec 1024) (first : Nat) (x k : Nat) : Nat :=
  let i := decodeSlot (slotAt k) (bundleSlot (slotAt k) (c.bundleAt first))
  match cmdMask i with
  | some cm =>
    if cm.getLsbD j then
      match i with
      | .drain _ => if (s.cell q j).seedMarks.contains (x - 1) then x - 1 else x
      | _ => x - (replayKeep (adjointNeeds d 0 0 i)).length
    else x
  | none => x

/-- The walk is accepted: REV's bundle has executed its other slots and commits; the recompute flag asks for a replay first, from the
scalar registers as they were before SPAN. -/
def startWalk (s : State) (q at0 : Nat) (d : BitVec 1024) (spend first : Nat) (op : Sparse Nat) : State :=
  let c := s.core q
  let rc := descRecompute d
  let kept := [0, 1, 2, 3].foldl (fun m j =>
    sset 0 m j ([3, 2].foldl (keptBelow s q j c d first) (sget 0 op j))) ([] : Sparse Nat)
  let a := { c.arch with rvs := rvsWord (if rc then first else spend) true rc false (at0 / 64) first, spanDesc := d }
  let w : RevWalk :=
    { revBundle := c.arch.pc, spend := spend, first := first, recompute := rc, phase := 2,
      pos := fwdCount c spend fwdBound { pc := first, lc := [], ports := [] }, opening := op, seedAt := kept,
      fmts := [0, 1, 2, 3].foldl (fun m j => sset [] m j (sget [] (s.cell q j).words (sget 0 op j))) [],
      keepLog := [], taken := c.taken, idle := c.idleAdd, key := c.keyBase, ending := c.ending }
  let s1 := [0, 1, 2, 3].foldl (fun t j => t.modCell q j fun x => { x with aheadStop := false }) s
  let t := s1.setCore q
    { c with
      arch := a
      rev := some w
      snaps := c.snaps.filter fun p => decide (p.1 < c.bid)
      bid := c.bid + 1
      slot := 4
      taken := none
      idleAdd := 0
      keyBase := none
      ending := false
      issueAt := max c.issueAt (s.pcc + 1) }
  if rc then undoRun c q first w.pos t else t

/-- R425: the checks in their order, then the walk. -/
def beginRev (f : EI) (s : State) : State :=
  let q := s.cur
  let c := s.core q
  let xa := c.arch.rx f.xa.toNat
  let d := c.arch.ldmLine xa.toNat
  let spend := f.imm.toNat % 2048
  let s1 := s.modArch q fun a => { a with spanDesc := d }
  if c.arch.inSpan || c.arch.revActive then spanFault s q 4 0
  else if ldmAddrOk xa 128 = false ∨ descOk c.arch d = false then spanFault s1 q 7 0
  else
    match decodeSlot .e (bundleSlot .e (c.bundleAt spend)) with
    | .spend _ =>
      match scanSpan c spend 2047 1 with
      | none => spanFault s1 q 12 0
      | some first =>
        match topRecords s1 q d [0, 1, 2, 3] with
        | (t, .error (j, .unread x k st)) => granuleTrap t q j x k st
        | (t, .error (j, .above)) => spanFault t q 9 j
        | (t, .error (j, _)) => spanFault t q 8 j
        | (t, .ok op) => startWalk t q xa.toNat d spend first op
    | _ => spanFault s1 q 12 0

/-- Once the commands of the other slots of REV's bundle are done, the walk goes on: without recomputation the ports are bound in
reverse and the walk back begins; else the boundary is restored and the replay begins at SPAN's bundle, and a granule that cannot be
read becomes the trap of that bundle (R240, R241, R243, R425). -/
def beginReplay (s : State) (q : Nat) (w : RevWalk) : State :=
  if !w.recompute then (bindReverse s q w.first w.spend).modCore q fun c => { c with rev := some { w with phase := 1 } }
  else match restoreCells s q (s.core q).arch.spanDesc w.opening [0, 1, 2, 3] with
  | (t, some e) => granuleTrap t q e.1 e.2.1 e.2.2.1 e.2.2.2
  | (t, none) => t.modCore q fun c => { c with slot := 0, rev := some { w with phase := 0 }, arch := { c.arch with pc := w.first } }

/-- R425: REV starts the walk, or, while the walk goes on, restores its boundary or walks its next bundle back. -/
def execRev (f : EI) (s : State) : Host.Outcome State Fault Refusal :=
  let q := s.cur
  let c := s.core q
  .next (match c.arch.walking, c.rev with
    | true, some w => if w.phase = 1 then reverseBundle s q w else if w.phase = 2 then beginReplay s q w else nextSlot s q
    | _, _ => issueSlot s (.rev f) false true (beginRev f))

/-! ### When REV can act -/

/-- Nothing of a cell is under way. -/
def CellSt.quiet (c : CellSt) : Bool :=
  c.qMat.isEmpty && c.qVec.isEmpty && c.qSf.isEmpty && c.sched.isEmpty && c.passes.isEmpty && c.demand.isNone

/-- A cell without the queued commands of bundle b and younger ones. -/
def CellSt.before (c : CellSt) (b : Nat) : CellSt :=
  { c with
    qMat := c.qMat.filter fun k => decide (k.bid < b)
    qVec := c.qVec.filter fun k => decide (k.bid < b)
    qSf := c.qSf.filter fun k => decide (k.bid < b) }

/-- REV at slot E waits: cells of the quad are at work, a load of the core has no answer yet, or the reverse bundle waits for a
row or a credit of its pair (R246, R429). -/
def revWaits (s : State) (q : Nat) : Bool :=
  let c := s.core q
  let busy := [0, 1, 2, 3].any fun j => !((s.cell q j).quiet)
  let older := [0, 1, 2, 3].any fun j => !(((s.cell q j).before c.bid).quiet)
  match c.arch.walking, c.rev with
  | true, some w =>
    busy || (w.phase == 1 &&
      (let f := w.forward c
       match f.slot c .e with
       | .psend g => pairAdjoint c.arch.spanDesc g.fn && !(headerSkip (c.bundleAt f.pc)) &&
           decide ((sget [] c.lanes (laneKey (nfield g.fn 0 3) true)).length < (cellsOf g.cm).length)
       | .precv g => pairAdjoint c.arch.spanDesc g.fn && !(headerSkip (c.bundleAt f.pc)) &&
           decide (16 < sget 0 c.arch.credits (laneKey (nfield g.fn 0 3) true) + (cellsOf g.cm).length)
       | _ => false))
  | _, _ => older || c.lsq.any MemOp.blocks || c.waita.isSome

end Sys2Proof.Machine
end

