-- ==== Sys2Proof/Machine/Effects.lean ====
section
/-! DEFINITION. Faults of a cell, early reads, the heads of operand ports, and what each scheduled effect of a started command
does in its cycle (R163, R168, R172, R275, R404 to R414). -/

namespace Sys2Proof.Machine

/-! ### Cell faults -/

/-- The slot that fed a queue: matrix T, vector V, SF E (R272). -/
def queueSlot (queue : Nat) : Nat := if queue = 0 then 3 else if queue = 1 then 2 else 4

/-- TIMING raised by a cell for a command of a queue (R155). DEDUCED, log 35. -/
def cellTiming (s : State) (q j queue bundle sub index : Nat) : State :=
  timingFault s q bundle (queueSlot queue) 1 sub j queue index

/-- A fault that a command raises at its start: no unstarted command of the quad remains, and the trap is deferred (R275). -/
def cellFault (s : State) (q j cause : Nat) (tval : Word) : State :=
  let s1 := s.modCore q fun c =>
    { c with
      tstats := []
      deferred := c.deferred ++ [{ cause := cause, slot := 7, origin := 1, cell := j, chan := 0, ce := false, gstep := false,
                                   tval := tval, tpc := 0, seen := s.pcc }] }
  [0, 1, 2, 3].foldl (fun t k => t.modCell q k fun c => { c with qMat := [], qVec := [], qSf := [] }) s1

/-- POISON of a cell command at a scratchpad address (R272). -/
def poisonFault (s : State) (q j bundle addr : Nat) : State :=
  cellFault s q j 12 (BitVec.ofNat 64 (addr + 2 ^ 52 * (bundle % 2 ^ 11)))

/-- sr.tval of LAYOUT: address, page tag, layout read (R272). -/
def layoutTval (addr tag lay : Nat) : Nat := addr % 2 ^ 22 + 2 ^ 22 * tag + 2 ^ 25 * lay

/-- What a port entry carries of its row's faults: 0 none, 1 plus four times a poisoned address, 2 plus four times a LAYOUT
value. -/
def entryFault (c : CellSt) (lchk : Bool) (lay at_ : Nat) : Nat :=
  match c.poisonLaid lay at_ 1024 with
  | some a => 1 + 4 * a
  | none =>
    match lchk, c.wrongTag lay at_ 1024 with
    | true, some p => 2 + 4 * layoutTval at_ (sget 0 c.tags p) lay
    | _, _ => 0

/-- The fault of a popped entry. -/
def popFault (s : State) (q j bundle code : Nat) : State :=
  if code % 4 = 1 then poisonFault s q j bundle (code / 4) else cellFault s q j 11 (BitVec.ofNat 64 (code / 4))

/-! ### Ports -/

def CellSt.port (c : CellSt) (p : Nat) : QPort := sget QPort.unbound c.qports p
def CellSt.setPort (c : CellSt) (p : Nat) (v : QPort) : CellSt := { c with qports := sset QPort.unbound c.qports p v }

/-- The n-th entry a port holds, if it is delivered by this cycle: its row and fault (R163). -/
def CellSt.portHead (c : CellSt) (pcc p n : Nat) : Option (Row × Nat) :=
  match (c.port p).held[n]? with
  | some h => if h.1 ≤ pcc then some (h.2.1, h.2.2.toNat) else none
  | none => none

/-- A port without its first n entries. -/
def CellSt.popPort (c : CellSt) (p n : Nat) : CellSt := c.setPort p { c.port p with held := (c.port p).held.drop n }

/-- The rows a list of source codes reads in order, with their faults, and what each port gives up; or the port whose entry is not
delivered (R297). -/
def readSources (c : CellSt) (pcc : Nat) : List (BitVec 9) → Sparse Nat → Except Nat (List (Row × Nat) × Sparse Nat)
  | [], taken => .ok ([], taken)
  | code :: r, taken =>
    match srcCode code with
    | some (.pop p) =>
      match c.portHead pcc p (sget 0 taken p) with
      | none => .error p
      | some x => (readSources c pcc r (sset 0 taken p (sget 0 taken p + 1))).map fun y => (x :: y.1, y.2)
    | some (.peek p) =>
      match c.portHead pcc p (sget 0 taken p) with
      | none => .error p
      | some x => (readSources c pcc r taken).map fun y => (x :: y.1, y.2)
    | some (.reg v) => (readSources c pcc r taken).map fun y => ((sget 0 c.acc v, 0) :: y.1, y.2)
    | none => (readSources c pcc r taken).map fun y => ((0, 0) :: y.1, y.2)

/-- Ports after their pops. -/
def CellSt.popAll (c : CellSt) (taken : Sparse Nat) : CellSt := taken.foldl (fun c p => c.popPort p.1 p.2) c

/-- Whether what comes from another die waited in the elastic buffer is a free value; event 0x030 counts it (R16, R46). DESIGN CHOICE,
log 22. -/
def elasticWait (s : State) (die : Nat) (crosses : Bool) : State :=
  if crosses then countDie { s with fresh := s.fresh + 1 } die 0x030 ((Config.freeWord s.fresh).toNat % 2) else s

/-! ### Lanes of paired channels (R245, R429) -/

/-- The rows on their way on a lane of a quad, in the order sent. -/
def laneRows (s : State) (q lane : Nat) : List LaneMsg := s.laneMsgs.filter fun m => m.quad == q && m.lane == lane && m.row.isSome

/-- Rows of a lane that receives of the quad have still to pop. -/
def lanePops (s : State) (q lane : Nat) : Nat :=
  ([0, 1, 2, 3].map fun j => ((s.cell q j).sched.filter fun e => match e.eff with
    | .lanePop l _ _ _ => l == lane
    | _ => false).length).sum

/-- Rows of a lane that are delivered by a cycle: those buffered and the next ones that arrive by then, in the order sent. -/
def laneReady (s : State) (q lane by_ : Nat) : Nat :=
  (sget [] (s.core q).lanes lane).length + ((laneRows s q lane).takeWhile fun m => decide (m.due ≤ by_)).length

/-! ### Early reads (R172) -/

/-- The pass with an identifier. -/
def CellSt.pass (c : CellSt) (id : Nat) : Option Pass := c.passes.find? fun p => p.id == id

/-- The accumulator a pass writes, or a drain reads. -/
def Pass.acc (p : Pass) : Nat :=
  match p.cmd.instr with
  | .mma f | .mmas f => f.td.toNat - 8
  | .drain f => f.ta.toNat - 16
  | _ => 0

/-- The accumulator rows a sum writes: row xs[5:0], and the one after it for 512 columns (R412). -/
def Pass.sumRows (p : Pass) : List Nat :=
  match p.cmd.instr with
  | .trsum f => [64 * (f.td.toNat - 8) + nfield p.cmd.x1 0 6]
  | .tcsum f =>
    let r := 64 * (f.td.toNat - 8) + nfield p.cmd.x1 0 6
    if opBits (fmtAt p.fmt) = 4 then [r, r + 1] else [r]
  | _ => []

/-- An effect belongs to a pass. -/
def Sched.ofPass (e : Sched) (id : Nat) : Bool :=
  match e.eff with
  | .mmaAcc n _ _ | .mmaRead n _ => n == id
  | _ => false

/-- A started command will write row v of the cell after this cycle, those apart that a test passes over. -/
def CellSt.rowPending (c : CellSt) (pcc v : Nat) (skip : Sched → Bool) : Bool :=
  c.sched.any fun e => !(skip e) && (match e.eff with
    | .accRow r _ _ => decide (pcc < e.due) && r == v
    | .mmaAcc id i _ => decide (pcc < e.due) && (match c.pass id with
      | some p => 64 * p.acc + i == v
      | none => false)
    | .mmaRead id i => (match c.pass id with
      | some p => 64 * p.acc + i == v
      | none => false)
    | .sums id => decide (pcc < e.due) && (match c.pass id with
      | some p => p.sumRows.contains v
      | none => false)
    | .lanePop _ _ _ d => (match dstCode d with
      | some (.reg r) => r == v
      | _ => false)
    | _ => false)

/-- Physical scratchpad addresses of the enabled bytes of a run under a layout. -/
def laidBytes (lay addr : Nat) (bs : List (Option Byte)) : List Nat :=
  bs.zipIdx.filterMap fun p => if p.1.isSome then some (layAddr lay (addr + p.2)) else none

/-- Output row i of a drain writes a physical address: one of the bytes of a column whose guard is true. -/
def Pass.drains (p : Pass) (i a : Nat) : Bool :=
  let x := p.cmd.x1
  let at_ := nfield x 0 22 + i * nfield x 22 16
  let bs := (List.range (passN p.fmt)).flatMap fun n =>
    List.replicate (tyWidth (fmtOt p.fmt) / 8) (if p.cmd.guard.getLsbD n then some (0 : Byte) else none)
  (laidBytes (fmtLay p.fmt) at_ bs).contains a

/-- An output port's entry n with byte enables m writes a physical address. -/
def QPort.covers (p : QPort) (n : Nat) (m : BitVec 1024) (a : Nat) : Bool :=
  (laidBytes (setLay p.set) (p.entryAddr n) ((List.range 1024).map fun i => if m.getLsbD i then some 0 else none)).contains a

/-- The byte enables of the entries an output port will still write, in order: those it holds, then those of started commands by their
cycles. -/
def CellSt.portComing (c : CellSt) (p : Nat) : List (BitVec 1024) :=
  let rec put (x : Nat × BitVec 1024) : List (Nat × BitVec 1024) → List (Nat × BitVec 1024)
    | [] => [x]
    | y :: r => if x.1 < y.1 then x :: y :: r else y :: put x r
  let pushes := c.sched.filterMap fun e => match e.eff with
    | .pushPort n _ m => if n = p then some (e.due, m) else none
    | .lanePop _ _ _ d => (match dstCode d with
      | some (.push n) => if n = p then some (e.due + 2, BitVec.allOnes 1024) else none
      | _ => none)
    | _ => none
  (c.port p).held.map (fun h => h.2.2) ++ (pushes.foldl (fun l x => put x l) []).map fun x => x.2

/-- A started DRAIN or output port will write one of the physical addresses after this cycle. -/
def CellSt.spmPending (c : CellSt) (pcc : Nat) (at_ : List Nat) : Bool :=
  c.sched.any (fun e => match e.eff with
    | .spmBytes lay addr bs _ => decide (pcc < e.due) && (c.passes.any fun p => p.cmd.bid == e.bid) && (laidBytes lay addr bs).any at_.contains
    | .drainRead id i => (match c.pass id with
        | some p => at_.any (p.drains i)
        | none => false)
    | _ => false)
  || [6, 7].any fun p => (c.portComing p).zipIdx.any fun x => at_.any ((c.port p).covers ((c.port p).next + x.2) x.1)

/-- The quad and cell a beat of a transfer from a cell goes to. -/
def xferTarget (j : Nat) (k : Cmd) : Nat × Nat := (k.x3.toNat / 2 ^ 32, (j + xferOffset k.x2) % 4)

/-- A started XFER will read and send a beat that writes to a quad's cell, one of bundle own apart. -/
def xferPending (s : State) (q j : Nat) (own : Option Nat) (h : Cmd → Nat → Bool) : Bool :=
  s.cells.any fun p => p.2.sched.any fun e => match e.eff with
    | .xferRead k beat => xferTarget (p.1 % 4) k == (q, j) && own != some k.bid && h k beat
    | _ => false

/-- A transfer to a quad's cell will write a row or scratchpad bytes after this cycle. -/
def arrivalPending (s : State) (q j : Nat) (h : Effect → Bool) : Bool :=
  s.arrivals.any fun a => a.quad == q && a.cell == j && decide (s.pcc < a.due) && h a.eff

/-- Row v of a cell is read before a write of a started command or transfer reaches it (R172). -/
def rowEarly (s : State) (q j v : Nat) (skip : Sched → Bool := fun _ => false) (own : Option Nat := none) : Bool :=
  (s.cell q j).rowPending s.pcc v skip
    || (arrivalPending s q j fun e => match e with
      | .accRow r _ _ => r == v
      | _ => false)
    || xferPending s q j own fun k _ => xferRowMode k.instr && xferDst k.instr k.x2 == v

/-- Scratchpad bytes of a cell are read before a write of a started command or transfer reaches them (R172). -/
def spmEarly (s : State) (q j : Nat) (at_ : List Nat) (own : Option Nat := none) : Bool :=
  (s.cell q j).spmPending s.pcc at_
    || (arrivalPending s q j fun e => match e with
      | .spmRow r _ m => at_.any fun a => a / 1024 == r && m.getLsbD (a % 1024)
      | _ => false)
    || xferPending s q j own fun k beat => !(xferRowMode k.instr) &&
        at_.any fun a => decide (xferDst k.instr k.x2 + 256 * beat ≤ a ∧ a < xferDst k.instr k.x2 + 256 * beat + 256)

/-- Physical addresses of len bytes at a logical address under a layout. -/
def laidRange (lay addr len : Nat) : List Nat := (List.range len).map fun o => layAddr lay (addr + o)

/-! ### Scheduled effects -/

/-- Effects of a command, added to its cell: due cycle, priority within the cycle, effect. -/
def addSched (s : State) (q j : Nat) (k : Cmd) (es : List (Nat × Nat × Effect)) : State :=
  s.modCell q j fun c => { c with sched := c.sched ++ es.map fun e =>
    { due := e.1, prio := e.2.1, bid := k.bid, bundle := k.bundle, erc := k.erc, eff := e.2.2 } }

/-- An effect that reads at the end of its cycle, when every write of the cycle is done; granules are written in the cycle in which
their operand is read (R231). -/
def Effect.reads : Effect → Bool
  | .readTile _ _ _ _ | .readFill _ _ _ _ _ _ | .readScale _ _ _ _ _ | .drainRead _ _ | .xferRead _ _ | .boundary _ _ _
  | .granules _ _ _ | .loadLine _ _ _ _ | .recordLine _ _ _ | .storeRead _ _ _ _ | .storeScale _ _ _ | .sumRead _ _ _
  | .lanePop _ _ _ _ => true
  | _ => false

/-- An mmaRead of a port is a pop; of an accumulator it reads the row. -/
def Pass.fromPort (p : Pass) : Option Nat :=
  match p.cmd.instr with
  | .mma f | .mmas f => if 20 ≤ f.ta.toNat then some (f.ta.toNat - 20) else none
  | _ => none

/-- The effect reads at the end of its cycle, in a cell. -/
def CellSt.endRead (c : CellSt) (e : Effect) : Bool :=
  match e with
  | .mmaRead id _ => (match c.pass id with
    | some p => p.fromPort.isNone
    | none => true)
  | _ => e.reads

/-- Rows of a tile, renumbered from 0. -/
def CellSt.tileRows (c : CellSt) (t : Nat) : Sparse Row :=
  (c.tiles.filter fun p => decide (p.1 / 64 = t)).map fun p => (p.1 - 64 * t, p.2)

/-- Rows of a scale store, renumbered from 0. -/
def CellSt.scaleRows (c : CellSt) (t : Nat) : Sparse Row :=
  (c.scales.filter fun p => decide (p.1 / 4 = t)).map fun p => (p.1 - 4 * t, p.2)

/-- A pass's operand registers: row0 and h of A, code ta. -/
def Pass.row0 (p : Pass) : Nat := nfield p.cmd.x1 0 8
def Pass.half (p : Pass) : Nat := nfield p.cmd.x1 8 2
def Pass.ta (p : Pass) : Nat :=
  match p.cmd.instr with
  | .mma f | .mmas f => f.ta.toNat
  | _ => 0
def Pass.tb (p : Pass) : Nat :=
  match p.cmd.instr with
  | .mma f | .mmas f => f.tb.toNat
  | _ => 0

/-- Cycles from the read of an A row to the write of its accumulator row (R406). -/
def rowLag : Nat := 48

/-- The codes of the sums of a tile, as rows (R412). -/
def Pass.sumValues (p : Pass) : List Row :=
  let sums := match p.cmd.instr with
    | .trsum _ => rowSums p.fmt p.table
    | _ => colSums p.fmt p.table
  let codes := sums.map (codeOf 32)
  [rowOfLanes 32 (codes.take 256), rowOfLanes 32 (codes.drop 256)]

/-- Line k of B's tile with its 64 scale bytes, and of the index tile, as a weight buffer's load reads them; the bytes of scale that
come with a line are those at 64k (R405; DESIGN CHOICE, log 67). -/
def BData.load (d : BData) (c : CellSt) (k tile : Nat) (idx : Option Nat) : BData :=
  let part : BitVec 1024 := ((BitVec.allOnes 64).setWidth 1024) <<< (64 * (k % 16))
  { rows := sset 0 d.rows k (sget 0 c.tiles (64 * tile + k))
    scales := sset 0 d.scales (k / 16) (mergeRow (sget 0 d.scales (k / 16)) (sget 0 c.scales (4 * tile + k / 16)) part)
    idx := match idx with
      | some t => sset 0 d.idx k (sget 0 c.tiles (64 * t + k))
      | none => d.idx }

/-- The buffer of a load, and the pass that loads its own weights, take a line (R405, R406). -/
def CellSt.loadLine (c : CellSt) (id k tile : Nat) (idx : Option Nat) : CellSt :=
  let go (b : Option WeightBuf) : Option WeightBuf := b.map fun w =>
    if w.id = id then { w with data := w.data.load c k tile idx } else w
  { c with
    wAct := go c.wAct
    wShad := go c.wShad
    passes := c.passes.map fun p => if p.id = id then { p with b := p.b.load c k tile idx } else p }

/-- One beat of a transfer is read and sent (R419, R420): 256 bytes on the way to a cell of the destination quad. -/
def sendBeat (s : State) (q j : Nat) (k : Cmd) (beat : Nat) : State :=
  let c := s.cell q j
  let dq := (xferTarget j k).1
  let due := s.pcc + 6 + s.lat (quadDie q) (quadDie dq)
  let quarter (r : Row) (from_ to_ : Nat) : Row := ((r >>> (2048 * from_)) &&& (BitVec.allOnes 2048).setWidth 8192) <<< (2048 * to_)
  let mask (n : Nat) : BitVec 1024 := ((BitVec.allOnes 256).setWidth 1024) <<< (256 * n)
  let eff : Effect :=
    if xferRowMode k.instr then .accRow (xferDst k.instr k.x2) (quarter (sget 0 c.acc (xferSrc k.instr k.x1)) beat beat) (mask beat)
    else
      let src := xferSrc k.instr k.x1 + 256 * beat
      let dst := xferDst k.instr k.x2 + 256 * beat
      .spmRow (dst / 1024) (quarter (sget 0 c.spm (src / 1024)) (src % 1024 / 256) (dst % 1024 / 256)) (mask (dst % 1024 / 256))
  { s with arrivals := s.arrivals ++ [{ due := due, quad := dq, cell := (xferTarget j k).2, rank := 4 * q + j, eff := eff, crosses := quadDie q != quadDie dq }] }

/-- TIMING sub-cause 6 of a streaming read under sr.erc, with the accumulator concerned (R155); else the read. -/
def ercRead (s : State) (q j : Nat) (e : Sched) (queue index : Nat) (early : Bool) (k : State → State) : State :=
  if e.erc && early then cellTiming s q j queue e.bundle 6 index else k s

/-- The mask of a whole row. -/
def fullMask : BitVec 1024 := BitVec.allOnes 1024

/-- Effects added with the attributes of another one. -/
def follow (s : State) (q j : Nat) (e : Sched) (due prio : Nat) (eff : Effect) : State :=
  s.modCell q j fun c => { c with sched := c.sched ++ [{ e with due := due, prio := prio, eff := eff }] }

/-- Row i of a drain is read, converted and on its way to scratchpad (R410). -/
def drainStep (s : State) (q j : Nat) (e : Sched) (p : Pass) (i : Nat) : State :=
  let w := p.fmt
  let x := p.cmd.x1
  let word (n : Nat) : Nat := ((sget 0 p.table (n / 128)).toNat >>> (64 * (n % 128))) % 2 ^ 64
  let table (n : Nat) : Nat × Int := (word n % 2 ^ 32, signedOf 8 (word n / 2 ^ 32 % 256))
  let draw (n : Nat) : Nat := draw16 p.key p.ctr (512 * i + n)
  let r := drainRow w (sget 0 (s.cell q j).acc (64 * p.acc + i)) table draw p.cmd.guard
  let s1 := s.modCell q j fun c => { c with passes := c.passes.map fun y => if y.id = p.id then { y with found := y.found ||| r.2 } else y }
  follow s1 q j e (s.pcc + 12) 1 (.spmBytes (fmtLay w) (nfield x 0 22 + i * nfield x 22 16) r.1 true)

/-- The effect that delivers a result row to a destination code. -/
def destEffect (code : BitVec 9) (v : Row) (m : BitVec 1024) : Option Effect :=
  match dstCode code with
  | some (.reg r) => some (.accRow r v m)
  | some (.push p) => some (.pushPort p v m)
  | none => none

/-- A receive pops the row it waits for, which is written two cycles on, and a credit goes back to the sender (R429). -/
def takeLaneRow (s : State) (q j : Nat) (e : Sched) (lane peer peerLane : Nat) (d : BitVec 9) : State :=
  let l := sget [] (s.core q).lanes lane
  let r := ((l.head?).map Prod.snd).getD 0
  let s1 := s.modCore q fun c => { c with lanes := sset [] c.lanes lane (l.drop 1) }
  let credit : LaneMsg :=
    { due := s.pcc + s.lat (quadDie q) (quadDie peer), quad := peer, lane := peerLane, row := none, crosses := quadDie q != quadDie peer }
  let s2 := { s1 with laneMsgs := s1.laneMsgs ++ [credit] }
  match destEffect d r fullMask with
  | some eff => follow s2 q j e (s.pcc + 2) 2 eff
  | none => s2

/-- A read at the end of a cycle. -/
def applyRead (s : State) (q j : Nat) (e : Sched) : State :=
  let c := s.cell q j
  match e.eff with
  | .readTile t k page lay =>
    ercRead s q j e 0 0 (spmEarly s q j (laidRange lay (page + 1024 * k) 1024)) fun s =>
      follow s q j e (s.pcc + 4) 1 (.tileLine t k (rowOfBytes (c.readLaid lay (page + 1024 * k) 1024)))
  | .readFill t k page lay cell quad =>
    ercRead s q j e 0 0 (spmEarly s quad cell (laidRange lay (page + 1024 * k) 1024)) fun s =>
      follow s q j e (s.pcc + 4) 1 (.tileLine t k (rowOfBytes ((s.cell quad cell).readLaid lay (page + 1024 * k) 1024)))
  | .readScale t k addr cell quad =>
    ercRead s q j e 0 0 (spmEarly s quad cell (laidRange 0 (addr + 1024 * k) 1024)) fun s =>
      follow s q j e (s.pcc + 4) 1 (.scaleLine t k (rowOfBytes ((s.cell quad cell).spmBytes (addr + 1024 * k) 1024)))
  | .drainRead id i =>
    match c.pass id with
    | none => s
    | some p => ercRead s q j e 0 p.acc (rowEarly s q j (64 * p.acc + i)) fun s => drainStep s q j e p i
  | .mmaRead id i =>
    match c.pass id with
    | none => s
    | some p =>
      if p.ta < 16 then
        follow s q j e (s.pcc + rowLag) 1
          (.mmaAcc id i (packTileRow p.fmt p.ta p.row0 p.half i (c.tileRows (p.ta % 8)) (c.scaleRows (p.ta % 8))))
      else
        let v := 64 * (p.ta - 16) + i
        ercRead s q j e 0 (p.ta - 16) (rowEarly s q j v fun x => x.ofPass id) fun s =>
          let s1 := if hasRec p.cmd.resOps 1 then writeGranules s q j e.bundle 0 (p.cmd.resAt + 16 * i) (rowGranules (sget 0 c.acc v))
            else s
          follow s1 q j e (s.pcc + rowLag) 1 (.mmaAcc id i (sget 0 c.acc v))
  | .loadLine id k tile idx =>
    let s1 := s.modCell q j fun c => c.loadLine id k tile idx
    match c.pass id with
    | some p => if hasRec p.cmd.resOps 2 then
        writeGranules s1 q j e.bundle 0 (p.cmd.resAt + (if hasRec p.cmd.resOps 1 then 1024 else 0) + 16 * k)
          (rowGranules (sget 0 c.tiles (64 * tile + k)))
      else s1
    | none => s1
  | .recordLine t k pos => writeGranules s q j e.bundle 0 pos (rowGranules (sget 0 c.tiles (64 * t + k)))
  | .storeRead t k addr lay => follow s q j e (s.pcc + 4) 1 (.spmBytes lay addr ((rowBytes (sget 0 c.tiles (64 * t + k))).map some) true)
  | .storeScale t k addr => follow s q j e (s.pcc + 4) 1 (.spmBytes 0 addr ((rowBytes (sget 0 c.scales (4 * t + k))).map some) false)
  | .sumRead id k t => s.modCell q j fun c => { c with passes := c.passes.map fun p =>
      if p.id = id then { p with table := sset 0 p.table k (sget 0 c.tiles (64 * t + k)) } else p }
  | .lanePop lane peer peerLane d => takeLaneRow s q j e lane peer peerLane d
  | .xferRead k beat =>
    let early := if xferRowMode k.instr then rowEarly s q j (xferSrc k.instr k.x1) (own := some k.bid)
      else spmEarly s q j (laidRange 0 (xferSrc k.instr k.x1 + 256 * beat) 256) (some k.bid)
    ercRead s q j e 2 (if xferRowMode k.instr then xferSrc k.instr k.x1 / 64 else 0) early fun s => sendBeat s q j k beat
  | .boundary src k pos =>
    let v := 64 * (src - 8) + k / 16
    let r := if src < 8 then sget 0 c.tiles (64 * src + k / 16) else sget 0 c.acc v
    ercRead s q j e 3 (src - 8) (decide (8 ≤ src) && rowEarly s q j v) fun s =>
      let s1 := writeGranules s q j e.bundle 3 pos [r.extractLsb' (512 * (k % 16)) 512]
      if k + 1 < 1024 then follow s1 q j e (s.pcc + 1) 0 (.boundary src (k + 1) (pos + 1)) else s1
  | .granules queue pos vals => writeGranules s q j e.bundle queue pos vals
  | _ => s

/-- A semaphore signal; beyond 255 it raises TIMING sub-cause 9 (R157). -/
def signalSem (s : State) (q j : Nat) (sem queue bundle : Nat) : State :=
  let v := sget 0 (s.core q).sems sem
  if v = 255 then cellTiming s q j queue bundle 9 sem
  else s.modCore q fun c => { c with sems := sset 0 c.sems sem (v + 1) }

/-- Row i of a pass is accumulated (R407, R408). -/
def accumulate (s : State) (q j : Nat) (p : Pass) (i : Nat) (given : Row) : State :=
  s.modCell q j fun c =>
    let v := 64 * p.acc + i
    let r := passRow p.fmt p.tb p.b (sget 0 c.acc v) (aRow p.fmt given)
    { c with acc := sset 0 c.acc v r.1, flags := sset 0 c.flags p.acc (sget 0 c.flags p.acc ||| r.2) }

/-- The i-th pop of a pass that takes A from a port (R400, R403); an entry not delivered raises TIMING sub-cause 8, a faulty one
ends the pass. -/
def passPop (s : State) (q j : Nat) (e : Sched) (p : Pass) (n i : Nat) : State :=
  match (s.cell q j).portHead s.pcc n 0 with
  | none => cellTiming s q j 0 e.bundle 8 n
  | some (r, f) =>
    let s1 := s.modCell q j fun c => c.popPort n 1
    if f ≠ 0 then
      popFault (s1.modCell q j fun c => { c with passes := c.passes.filter fun y => y.id != p.id }) q j e.bundle f
    else follow s1 q j e (s.pcc + rowLag) 1 (.mmaAcc p.id i r)

/-- The SPM bytes of a masked run under a layout, with the page tags it sets (R398). -/
def putMasked (c : CellSt) (lay addr : Nat) (bs : List (Option Byte)) (tag : Bool) : CellSt :=
  let c1 := bs.zipIdx.foldl (fun c p => match p.1 with
    | some b => c.putSpmByte (layAddr lay (addr + p.2)) b
    | none => c) c
  let grans := (laidBytes lay addr bs).foldl (fun m a => sset 0 m (a / 64) (sget 0 m (a / 64) + 1)) ([] : Sparse Nat)
  let c2 := grans.foldl (fun c g => if g.2 = 64 then { c with spmPois := sset false c.spmPois g.1 false } else c) c1
  if tag then c2.tagPages lay addr bs else c2

/-- One write of a started command in its cycle; the old accumulator row of a pass is a read too, early where an older command still
has to write it (R172). DEDUCED, log 35. -/
def applyEffect (s : State) (q j : Nat) (e : Sched) : State :=
  let cell (f : CellSt → CellSt) : State := s.modCell q j f
  match e.eff with
  | .accRow r v m => cell fun c => { c with acc := sset 0 c.acc r (mergeRow (sget 0 c.acc r) v m) }
  | .tileLine t k v => cell fun c => { c with tiles := sset 0 c.tiles (64 * t + k) v }
  | .scaleLine t k v => cell fun c => { c with scales := sset 0 c.scales (4 * t + k) v }
  | .spmRow r v m => cell fun c =>
      putMasked c 0 (1024 * r) ((List.range 1024).map fun i => if m.getLsbD i then some (rowByte v i) else none) false
  | .spmBytes lay addr bs tag => cell fun c => putMasked c lay addr bs tag
  | .setFull i => cell fun c => { c with full := c.full ||| ((1 : BitVec 12) <<< i) }
  | .clearFull i => cell fun c => { c with full := c.full &&& ~~~((1 : BitVec 12) <<< i) }
  | .signal sem queue bundle => signalSem s q j sem queue bundle
  | .clearFlags n entry => cell fun c =>
      let c1 := { c with flags := sset 0 c.flags n 0 }
      if entry then
        { c1 with status := sset 0 c1.status n 0, sched := c1.sched.filter fun e => match e.eff with
          | .showStatus m _ => m != n
          | _ => true }
      else c1
  | .drainStatus id =>
    match (s.cell q j).pass id with
    | none => s
    | some p =>
      let v : BitVec 8 := (p.found ||| sget 0 (s.cell q j).flags p.acc).setWidth 8 ||| 16
      follow s q j e (s.pcc + 24) 0 (.showStatus p.acc v)
  | .elastic die => elasticWait s die true
  | .showStatus n v => cell fun c => { c with status := sset 0 c.status n v }
  | .sums id =>
    match (s.cell q j).pass id with
    | none => s
    | some p => cell fun c => { c with acc := (p.sumRows.zip p.sumValues).foldl (fun m r => sset 0 m r.1 r.2) c.acc }
  | .passEnd id => cell fun c => { c with passes := c.passes.filter fun p => p.id != id }
  | .shadowReady => s
  | .pushPort p v m => cell fun c => c.setPort p { c.port p with held := (c.port p).held ++ [(s.pcc, v, m)] }
  | .mmaAcc id i a =>
    match (s.cell q j).pass id with
    | none => s
    | some p =>
      ercRead s q j e 0 p.acc (rowEarly s q j (64 * p.acc + i) fun x => decide (p.cmd.bid ≤ x.bid)) fun s => accumulate s q j p i a
  | .mmaRead id i =>
    match (s.cell q j).pass id with
    | none => s
    | some p =>
      match p.fromPort with
      | some n => passPop s q j e p n i
      | none => s
  | _ => s

/-! ### A cycle's reads and writes -/

/-- Sched entries in the order of their priority, after their equals. -/
def insertSched (e : Sched) : List Sched → List Sched
  | [] => [e]
  | f :: r => if e.prio < f.prio then e :: f :: r else f :: insertSched e r

/-- Take the effects of a cell that a test picks and apply them in order of priority. -/
def runSched (s : State) (q j : Nat) (pick : Sched → Bool) (app : State → Nat → Nat → Sched → State) : State :=
  let l := (s.cell q j).sched
  let due := (l.filter pick).foldl (fun a e => insertSched e a) []
  let s1 := s.modCell q j fun c => { c with sched := c.sched.filter fun e => !(pick e) }
  due.foldl (fun t e => app t q j e) s1

/-- The reads of a cell at the end of the present cycle. -/
def cellReads (s : State) (q j : Nat) : State :=
  runSched s q j (fun e => decide (e.due ≤ s.pcc) && (s.cell q j).endRead e.eff) applyRead

/-- The writes of a cell that are due at the present cycle. -/
def cellWrites (s : State) (q j : Nat) : State :=
  runSched s q j (fun e => decide (e.due ≤ s.pcc) && !((s.cell q j).endRead e.eff)) applyEffect

end Sys2Proof.Machine
end

