-- ==== Sys2Proof/Machine/Start.lean ====
section
/-! DEFINITION. COMMAND_START: the conditions a queued command meets at its start cycle, and what it schedules (R146 to R158, R371
to R375, R391, R392, R402 to R415, R419 to R429). -/

namespace Sys2Proof.Machine

/-! ### Conditions (R153) -/

/-- The format word a tile command takes: in replay its own, else the cell's next; an empty queue, which only a cancelled FPUSH
leaves, gives a free value (DESIGN CHOICE, log 18). -/
def CellSt.wordOf (c : CellSt) (fresh : Nat) (k : Cmd) : Word :=
  match k.word with
  | some w => w
  | none => (c.fmtq.head?).getD (Config.freeWord fresh)

/-- The semaphore waited on and the one signalled. -/
def semWait : Instr → Option Nat
  | .tld f | .tst f | .tfill f | .tzero f | .wld f | .mma f | .mmas f | .azero f | .drain f | .fpush f | .tstat f | .tclr f
  | .trsum f | .tcsum f => if f.we = 1 then some f.sw.toNat else none
  | _ => none
def semSignal : Instr → Option Nat
  | .tld f | .tst f | .tfill f | .tzero f | .wld f | .mma f | .mmas f | .azero f | .drain f | .fpush f | .tstat f | .tclr f
  | .trsum f | .tcsum f => if f.se = 1 then some f.ss.toNat else none
  | _ => none

/-- The format bits that a weight buffer records. -/
def weightBits (w : Word) : Word := w &&& 0x00000000FFC032F0#64

/-- Where a pass takes its weights from (R406). -/
inductive Weights where
  | active | shadow | notReady | load
  deriving DecidableEq, Repr

/-- A buffer matches a pass (R405). -/
def WeightBuf.matches (b : WeightBuf) (tb idx : Nat) (w : Word) : Bool :=
  b.valid && b.tb == tb && (fmtSp w == 0 || b.idx == idx) && b.bits == weightBits w && b.wide == !(accNarrow w)

/-- The weights of a pass at its start. -/
def CellSt.weights (c : CellSt) (pcc tb idx : Nat) (w : Word) : Weights :=
  let hit (b : Option WeightBuf) : Bool := match b with
    | some b => b.matches tb idx w
    | none => false
  if hit c.wAct then .active
  else if hit c.wShad then
    (match c.wShad with
      | some b => if b.readyAt ≤ pcc then .shadow else .notReady
      | none => .load)
  else .load

/-- The index tile of a WLD or a pass. -/
def indexTile (i : Instr) (x : Word) : Nat :=
  match i with
  | .wld _ => nfield x 0 3
  | _ => nfield x 11 3

/-- The full/empty bits that must be full, in the order of the table (R402): tiles 0 to 7, accumulators 8 to 11. -/
def mustFull (c : CellSt) (pcc : Nat) (k : Cmd) (w : Word) : List Nat :=
  match k.instr with
  | .tst f | .trsum f | .tcsum f => [f.ta.toNat % 8]
  | .drain f => [8 + (f.ta.toNat - 16)]
  | .wld f => f.tb.toNat % 8 :: (if fmtSp w = 0 then [] else [indexTile k.instr k.x1])
  | .mma f | .mmas f =>
    let idx := indexTile k.instr k.x1
    f.td.toNat :: ((if f.ta.toNat < 16 then [f.ta.toNat % 8] else []) ++
      (if c.weights pcc f.tb.toNat idx w = .load then
        f.tb.toNat % 8 :: (if fmtSp w = 0 then [] else [idx]) else []))
  | _ => []

/-- The bits that must be empty. -/
def mustEmpty : Instr → List Nat
  | .tld f | .tfill f | .tzero f => [f.td.toNat]
  | _ => []

/-- The number a full/empty bit shows in sr.tval. -/
def bitIndex (b : Nat) : Nat := if b < 8 then b else b - 8

/-- RPOP's granules are in the window. -/
def rpopHeld (s : State) (q j : Nat) (k : Cmd) : Bool :=
  (List.range 16).all fun i => granuleHeld s q j (k.resAt + i)

/-- The place of a cell among those a mask selects. -/
def cellRank (cm : BitVec 4) (j : Nat) : Nat := ((cellsOf cm).filter fun i => decide (i < j)).length

/-- No lower cell that a send or a receive selects still waits to start it: rows go in ascending cell order (R429). -/
def lowerStarted (s : State) (q j : Nat) (k : Cmd) (cm : BitVec 4) : Bool :=
  (cellsOf cm).all fun m => decide (j ≤ m) || !((s.cell q m).qSf.any fun c => c.bid == k.bid)

/-- The row a receive takes as the i-th of its command will be there i cycles on, behind those that others pop before. -/
def recvReady (s : State) (q j : Nat) (k : Cmd) (cm : BitVec 4) (lane : Nat) : Bool :=
  lowerStarted s q j k cm && decide (lanePops s q lane < laneReady s q lane (s.pcc + cellRank cm j))

/-- The first condition of R153 that a command does not meet: its sub-cause and index. -/
def unmet (s : State) (q j : Nat) (k : Cmd) : Option (Nat × Nat) :=
  let c := s.cell q j
  let w := c.wordOf s.fresh k
  let full (b : Nat) : Bool := c.full.getLsbD b
  let semOk : Bool := match semWait k.instr with
    | some n => decide (0 < sget 0 (s.core q).sems n)
    | none => true
  let sem : Option (Nat × Nat) := if semOk then none else some (4, (semWait k.instr).getD 0)
  if !k.gtrue then sem
  else
    let weightTrap : Option (Nat × Nat) := match k.instr with
      | .mma f | .mmas f => if c.weights s.pcc f.tb.toNat (indexTile k.instr k.x1) w = .notReady then some (2, f.tb.toNat) else none
      | _ => none
    match (mustFull c s.pcc k w).find? fun b => !(full b) with
    | some b => some (2, bitIndex b)
    | none =>
      match weightTrap with
      | some t => some t
      | none =>
        match (mustEmpty k.instr).find? full with
        | some b => some (3, bitIndex b)
        | none =>
          match sem with
          | some t => some t
          | none =>
            match readSources c s.pcc (sourceCodes k.instr) [] with
            | .error p => some (8, p)
            | .ok _ =>
              match k.instr with
              | .rpop _ => if rpopHeld s q j k then none else some (2, 0)
              | .precv f => if recvReady s q j k f.cm (laneKey (nfield f.fn 0 3) false) then none else some (8, 0)
              | .precvG f => if recvReady s q j k f.cm (laneKey (nfield f.fn 0 3) true) then none else some (8, 0)
              | .psend f | .psendG f => if !k.lock || lowerStarted s q j k f.cm then none else some (8, 0)
              | _ => none

/-- An interlocked command also waits for an output port with four entries still to be written, and a rebinding for the port to
be empty (R164, R439); one with a false guard writes no port (R301). -/
def outputBusy (c : CellSt) (k : Cmd) : Bool :=
  k.gtrue && ((portPushes k.instr).any (fun p => decide (4 ≤ (c.port p).held.length)) ||
    (match k.instr with
      | .pbind f | .pbindOff f => let p := nfield f.fn 0 3
        decide (6 ≤ p) && !((c.port p).held.isEmpty)
      | _ => false))

/-! ### Occupancy (R402) -/

/-- Cycles a started command occupies its queue. -/
def occupancy (k : Cmd) (w : Word) (load : Bool) : Nat :=
  if !k.gtrue then 1
  else
    match k.instr with
    | .tld _ | .tst _ | .tfill _ => if fmtAscl w = 0 then 64 else 68
    | .mma _ | .mmas _ => if load then 128 else 64
    | .drain _ | .trsum _ | .tcsum _ => 64
    | .xfer _ | .xferRow _ => (k.x3.toNat % 2 ^ 32) / 256
    | .psend f | .psendG f => 4 * (cellsOf f.cm).length
    | .precv f | .precvG f => (cellsOf f.cm).length
    | _ => 1

/-! ### Records (R229 to R231) -/

/-- The 16 or more granules of a list of rows. -/
def rowsGranules (rs : List Row) : List (BitVec 512) := rs.flatMap rowGranules

/-- The granules of a command's records, operands given as rows. -/
def recordGranules (k : Cmd) (a b : List Row) (mask : BitVec 512) (seed fmt : Word) : List (BitVec 512) :=
  (if hasRec k.resOps 1 then rowsGranules a else []) ++ (if hasRec k.resOps 2 then rowsGranules b else [])
    ++ (if hasRec k.resOps 4 then [mask] else []) ++ (if hasRec k.resOps 8 then [seed.setWidth 512] else [])
    ++ (if hasRec k.resOps 16 then [k.tm.setWidth 512] else []) ++ (if hasRec k.resOps 32 then [fmt.setWidth 512] else [])

/-- A command writes its records at its start. -/
def writeRecords (s : State) (q j queue : Nat) (k : Cmd) (a b : List Row) (mask : BitVec 512) (seed fmt : Word) : State :=
  writeGranules s q j k.bundle queue k.resAt (recordGranules k a b mask seed fmt)

/-! ### Vector commands -/

/-- The lanes of a trio from register r on, as triples. -/
def CellSt.trio (c : CellSt) (r : Nat) : List Triple :=
  List.zipWith (fun a (p : Nat × Nat) => { S := a, c := p.1, m := p.2 }) (c.f32Lanes r) ((c.f32Lanes (r + 1)).zip (c.f32Lanes (r + 2)))

/-- The three rows of triples as effects on a trio. -/
def trioEffects (r : Nat) (ts : List Triple) (m : BitVec 1024) : List Effect :=
  [.accRow r (rowOfLanes 32 (ts.map fun t => t.S)) m, .accRow (r + 1) (rowOfLanes 32 (ts.map fun t => t.c)) m,
   .accRow (r + 2) (rowOfLanes 32 (ts.map fun t => t.m)) m]

/-- Sticky bits with a kind set in the lanes of a list (R392). DEDUCED, log 33. -/
def setSticky (m : Sparse (BitVec 4)) (ls : List (Nat × Nat)) : Sparse (BitVec 4) :=
  ls.foldl (fun m p => sset 0 m p.1 (sget 0 m p.1 ||| ((1 : BitVec 4) <<< p.2))) m

/-- The domain faults of enabled lanes: lane and kind. -/
def domainLanes (en : List Bool) (ds : List DomKind) : List (Nat × Nat) :=
  (en.zip ds).zipIdx.filterMap fun p => match p.1 with
    | (true, some k) => some (p.2, k)
    | _ => none

/-- What VTMA, VTMM and VTMF do: the rows they write, the domain faults, the lanes found empty, the lanes whose sticky bits are
cleared (R391, R392). -/
def tmCompute (s : State) (q j : Nat) (k : Cmd) (a : Row) : List Effect × List (Nat × Nat) × List Nat × List Nat :=
  let c := s.cell q j
  let sh := TmShape.of k.tm
  let tab := sget [] s.tables sh.pair
  let en := (List.range 256).map fun l => k.guard.getLsbD l
  let m := laneMask 4 en
  match k.instr with
  | .vtma f =>
    let rs := List.zipWith (fun t x => tmAdd sh tab t x) (c.trio f.d.toNat) (rowLanes a 32)
    (trioEffects f.d.toNat (rs.map fun r => r.1) m, domainLanes en (rs.map fun r => r.2), [], [])
  | .vtmm f =>
    let rs := List.zipWith (fun t u => tmMergeChecked sh tab t u) (c.trio f.d.toNat) (c.trio f.a.toNat)
    (trioEffects f.d.toNat (rs.map fun r => r.1) m, domainLanes en (rs.map fun r => r.2), [], [])
  | .vtmf f =>
    let op := f.b.toNat % 4
    if op = 0 then
      let rs := (c.trio f.a.toNat).map fun t => tmExit sh tab t
      let empty := (en.zip rs).zipIdx.filterMap fun p => if p.1.1 && p.1.2.2 then some p.2 else none
      ((destEffect f.d (rowOfLanes 32 (rs.map fun r => r.1)) m).toList, [], empty, [])
    else
      let row := rowOfLanes 32 ((List.range 256).map fun l => (sget 0 c.sticky l).toNat)
      ((destEffect f.d row m).toList, [], [],
       if op = 2 then en.zipIdx.filterMap fun p => if p.1 then some p.2 else none else [])
  | _ => ([], [], [], [])

/-- The rows a vector command reads beside its sources, for the early-read check (R372). -/
def destReads : Instr → List Nat
  | .vfma _ f | .vfnma _ f | .vsel f | .vins f => [f.d.toNat]
  | .vtma f => [f.d.toNat, f.d.toNat + 1, f.d.toNat + 2]
  | .vtmm f => [f.d.toNat, f.d.toNat + 1, f.d.toNat + 2, f.a.toNat + 1, f.a.toNat + 2]
  | .vtmf f => [f.a.toNat + 1, f.a.toNat + 2]
  | _ => []

/-- The accumulator of the first register source that is read before its write. -/
def earlySources (s : State) (q j : Nat) (codes : List (BitVec 9)) (extra : List Nat) : Option Nat :=
  ((codes.filterMap srcReg ++ extra).find? fun v => rowEarly s q j v).map fun v => v / 64

/-- The early-read check of a command of a queue under sr.erc: TIMING with the accumulator concerned (R155, R172), or the rest. -/
def earlyCheck (s : State) (q j queue : Nat) (k : Cmd) (early : Option Nat) (rest : State) : State :=
  match k.erc, early with
  | true, some n => cellTiming s q j queue k.bundle 6 n
  | _, _ => rest

/-- A vector command starts. -/
def startVector (s : State) (q j : Nat) (k : Cmd) : State :=
  let c := s.cell q j
  match readSources c s.pcc (sourceCodes k.instr) [] with
  | .error p => cellTiming s q j 1 k.bundle 8 p
  | .ok (rows, taken) =>
    earlyCheck s q j 1 k (earlySources s q j (sourceCodes k.instr) (destReads k.instr)) <|
      match rows.find? fun r => r.2 ≠ 0 with
      | some r => popFault s q j k.bundle r.2
      | none =>
        let a := ((rows[0]?).map fun r => r.1).getD 0
        let b := ((rows[1]?).map fun r => r.1).getD 0
        let K := c.rngK
        let C := k.seed.getD c.rngC
        let draws := (drawType k.instr).isSome
        let s1 := s.modCell q j fun c =>
          let c1 := c.popAll taken
          if draws && k.seed.isNone then { c1 with rngC := c1.rngC + 1 } else c1
        let due := s.pcc + vecLatency k.instr
        match k.instr with
        | .vtma f | .vtmm f | .vtmf f =>
          let r := tmCompute s q j k a
          if (TmShape.of k.tm).dtrap && !r.2.1.isEmpty then
            cellFault s q j 13 (BitVec.ofNat 64 (((r.2.1.head?).map fun p => p.2).getD 0))
          else
            let trio : List Row := [sget 0 c.acc f.a.toNat, sget 0 c.acc (f.a.toNat + 1), sget 0 c.acc (f.a.toNat + 2)]
            let ra := match k.instr with
              | .vtmf _ => trio
              | _ => [a]
            let s2 := s1.modCell q j fun c =>
              let m := setSticky (setSticky c.sticky r.2.1) (r.2.2.1.map fun l => (l, 3))
              { c with sticky := r.2.2.2.foldl (fun m l => sset 0 m l 0) m }
            addSched (writeRecords s2 q j 1 k ra [] 0 0 0) q j k (r.1.map fun e => (due, 2, e))
        | .vcxs f =>
          let x := exchangeRows f k.guard a b
          addSched s1 q j k [(due, 2, .accRow f.a.toNat x.1 x.2.2), (due, 2, .accRow f.b.toNat x.2.1 x.2.2)]
        | i =>
          let code := (destCode i).getD 511
          let d := match srcReg code with
            | some v => sget 0 c.acc v
            | none => 0
          let r := vecRow i K C k.guard a b d
          let s2 := writeRecords s1 q j 1 k [a] [b] (vecMask i a b d) C 0
          addSched s2 q j k ((destEffect code r.1 r.2).toList.map fun e => (due, 2, e))

/-! ### Tile commands -/

/-- The format word leaves the cell's queue. -/
def popWord (c : CellSt) (k : Cmd) : CellSt :=
  if popsWord k.instr && k.word.isNone then { c with fmtq := c.fmtq.drop 1 } else c

/-- A filling command makes the weight buffers loaded from its tile useless (R405). -/
def spoilWeights (c : CellSt) (t : Nat) : CellSt :=
  let go (b : Option WeightBuf) : Option WeightBuf := b.map fun w =>
    if w.tb % 8 = t ∨ (w.sparse ∧ w.idx = t) then { w with valid := false } else w
  { c with wAct := go c.wAct, wShad := go c.wShad }

/-- The source quad and cell of a TFILL (R404). -/
def fillSource (q : Nat) (x : Word) : Nat × Nat := (4 * (q / 4) + nfield x 22 4 / 4, nfield x 22 4 % 4)

/-- What a tile command's scratchpad reads meet at its start: the poisoned address, or a LAYOUT value (R403); of a TST that stores scales
the 4 KiB they go to are checked. DEDUCED, log 33. -/
def tileReadFault (s : State) (q j : Nat) (k : Cmd) (w : Word) : Option (Bool × Nat) :=
  let page := nfield k.x1 0 22
  let go (c : CellSt) : Option (Bool × Nat) :=
    let p1 := c.poisonIn page 65536
    let p2 := if fmtAscl w = 0 then none else c.poisonIn (page + 65536) 4096
    match p1, p2 with
    | some a, _ => some (true, a)
    | none, some a => some (true, a)
    | none, none =>
      match k.lchk, c.wrongTag (fmtLay w) page 65536 with
      | true, some p => some (false, layoutTval (65536 * p) (sget 0 c.tags p) (fmtLay w))
      | _, _ => none
  match k.instr with
  | .tld _ => go (s.cell q j)
  | .tfill _ => go (s.cell (fillSource q k.x1).1 (fillSource q k.x1).2)
  | .tst _ => if fmtAscl w = 0 then none else ((s.cell q j).poisonIn (page + 65536) 4096).map fun a => (true, a)
  | .drain _ =>
    if fmtRq w then ((s.cell q j).poisonIn (64 * nfield k.x1 39 16) (8 * passN w)).map fun a => (true, a) else none
  | _ => none

/-- A command's signal at a cycle. -/
def signalAt (k : Cmd) (due queue : Nat) : List (Nat × Nat × Effect) :=
  match semSignal k.instr with
  | some n => [(due, 0, .signal n queue k.bundle)]
  | none => []

/-- TLD and TFILL: reads from cycle r on, rows four cycles later (R404). -/
def fillEffects (k : Cmd) (w : Word) (pcc lead : Nat) (t : Nat) (line : Nat → Effect) (scale : Nat → Effect) :
    List (Nat × Nat × Effect) :=
  let done := pcc + lead + 68 + (if fmtAscl w = 0 then 0 else 4)
  (List.range 64).map (fun i => (pcc + lead + i, 0, line i))
    ++ (if fmtAscl w = 0 then [] else (List.range 4).map fun i => (pcc + lead + 64 + i, 0, scale i))
    ++ [(done, 0, .setFull t)] ++ signalAt k done 0

/-- TST: line i is read at its cycle and written four cycles later, then the lines of the scale store (R404). -/
def storeEffects (k : Cmd) (w : Word) (pcc t : Nat) : List (Nat × Nat × Effect) :=
  let page := nfield k.x1 0 22
  let more := if fmtAscl w = 0 then 0 else 4
  (List.range 64).map (fun i => (pcc + i, 0, .storeRead t i (page + 1024 * i) (fmtLay w)))
    ++ (List.range more).map (fun i => (pcc + 64 + i, 0, .storeScale t i (page + 65536 + 1024 * i)))
    ++ (if k.x1.getLsbD 22 then [(pcc + 64 + more, 0, .clearFull t)] else [])
    ++ signalAt k (pcc + 68 + more) 0

/-- A weight buffer whose load begins at a cycle: its record, with nothing read yet. -/
def loadBuffer (tb idx : Nat) (w : Word) (pcc : Nat) : WeightBuf :=
  { id := pcc, data := BData.empty, tb := tb, idx := idx, bits := weightBits w, wide := !(accNarrow w), sparse := fmtSp w != 0,
    valid := true, readyAt := pcc + 64 }

/-- The reads of a load that begins at a cycle: 1 KiB of B's tile, and of the index tile, each cycle (R405, R406). -/
def loadEffects (tb idx : Nat) (w : Word) (pcc : Nat) : List (Nat × Nat × Effect) :=
  (List.range 64).map fun i => (pcc + i, 0, .loadLine pcc i (tb % 8) (if fmtSp w = 0 then none else some idx))

/-- The weight buffers after a pass has chosen (R406). -/
def takeWeights (c : CellSt) (choice : Weights) (tb idx : Nat) (w : Word) (pcc : Nat) : CellSt :=
  match choice with
  | .shadow => { c with wAct := c.wShad, wShad := c.wAct }
  | .load => { c with wAct := some (loadBuffer tb idx w pcc) }
  | _ => c

/-- What the active buffer holds. -/
def CellSt.activeData (c : CellSt) : BData :=
  match c.wAct with
  | some b => b.data
  | none => BData.empty

/-- What a command of several cycles holds from its start (R404 to R412). -/
def passOf (c : CellSt) (k : Cmd) (w : Word) (pcc : Nat) (b : BData) (table : Sparse Row) (ctr : Word) : Pass :=
  { id := pcc, cmd := k, fmt := w, b := b, table := table, key := c.rngK, ctr := ctr, found := 0 }

/-- The rows of a tile in order. -/
def CellSt.tileList (c : CellSt) (t : Nat) : List Row := (List.range 64).map fun i => sget 0 c.tiles (64 * t + i)

/-- The A source of a pass as recorded: a tile's rows or an accumulator's. -/
def CellSt.sourceList (c : CellSt) (ta : Nat) : List Row :=
  if ta < 16 then c.tileList (ta % 8) else (List.range 64).map fun i => sget 0 c.acc (64 * (ta - 16) + i)

/-- The granules a pass records (R231, R415): a tile A line by line from cycle a0 on, as it reads it; an accumulator's rows as they are
read; B line by line from the start on, as its buffer's load read it, a load of its own recording each line it reads; the format word
at the start. -/
def passRecords (k : Cmd) (w : Word) (pcc a0 ta : Nat) (data : Option BData) : List (Nat × Nat × Effect) :=
  let na := if hasRec k.resOps 1 then 1024 else 0
  let nb := if hasRec k.resOps 2 then 1024 else 0
  (if na ≠ 0 ∧ ta < 16 then (List.range 64).map fun i => (a0 + i, 0, .recordLine (ta % 8) i (k.resAt + 16 * i)) else [])
    ++ (match data with
      | some d => if nb ≠ 0 then (List.range 64).map fun i =>
          (pcc + i, 0, .granules 0 (k.resAt + na + 16 * i) (rowGranules (sget 0 d.rows i))) else []
      | none => [])
    ++ (if hasRec k.resOps 32 then [(pcc, 0, .granules 0 (k.resAt + na + nb) [w.setWidth 512])] else [])

/-- A pass starts (R406 to R408). -/
def startPass (s : State) (q j : Nat) (k : Cmd) (w : Word) (td ta tb : Nat) : State :=
  let c := s.cell q j
  let idx := indexTile k.instr k.x1
  let choice := c.weights s.pcc tb idx w
  let off := if choice = .load then 64 else 0
  let taken := takeWeights c choice tb idx w s.pcc
  let data := taken.activeData
  let p := passOf c k w s.pcc data [] 0
  let s1 := s.modCell q j fun _ => { taken with passes := taken.passes ++ [p] }
  let last := s.pcc + rowLag + off + 64
  let es := (List.range 64).map (fun i => (s.pcc + off + i, 9, .mmaRead p.id i))
    ++ (if choice = .load then loadEffects tb idx w s.pcc else [])
    ++ passRecords k w s.pcc (s.pcc + off) ta (if choice = .load then none else some data)
    ++ (if ta < 16 ∧ k.x1.getLsbD 10 then [(s.pcc + off + 64, 0, .clearFull (ta % 8))] else [])
    ++ signalAt k last 0 ++ [(last, 0, .passEnd p.id)]
  let _ := td
  match p.fromPort, off with
  | some n, 0 =>
    let e : Sched := { due := s.pcc, prio := 9, bid := k.bid, bundle := k.bundle, erc := k.erc, eff := .mmaRead p.id 0 }
    passPop (addSched s1 q j k (es.filter fun x => match x.2.2 with
      | .mmaRead _ i => i != 0
      | _ => true)) q j e p n 0
  | _, _ => addSched s1 q j k es

/-- DRAIN starts (R410). -/
def startDrain (s : State) (q j : Nat) (k : Cmd) (w : Word) (n : Nat) : State :=
  let c := s.cell q j
  let sto := fmtOrm w == 5
  let ctr := k.seed.getD c.rngC
  let at_ := 64 * nfield k.x1 39 16
  let table : Sparse Row := if fmtRq w then
      (List.range 4).foldl (fun m i => sset 0 m i (rowOfBytes (c.spmBytes (at_ + 1024 * i) 1024))) [] else []
  let p := passOf c k w s.pcc BData.empty table ctr
  let s1 := s.modCell q j fun c =>
    { c with passes := c.passes ++ [p], rngC := if sto && k.seed.isNone then c.rngC + 1 else c.rngC }
  let es := (List.range 64).map (fun i => (s.pcc + i, 0, Effect.drainRead p.id i))
    ++ [(s.pcc + 75, 0, .drainStatus p.id), (s.pcc + 76, 0, .passEnd p.id)]
    ++ (if k.x1.getLsbD 38 then [(s.pcc + 64, 0, .clearFull (8 + n))] else []) ++ signalAt k (s.pcc + 76) 0
  addSched (writeRecords s1 q j 0 k [] [] 0 ctr 0) q j k es

/-- TSTAT reads a cell's entry; with the last selected cell the predicate is on its way (R411). -/
def startTstat (s : State) (q j : Nat) (k : Cmd) (n : Nat) : State :=
  let hit := decide ((sget 0 (s.cell q j).status n).toNat % 32 &&& nfield k.x1 5 5 ≠ 0)
  match (s.core q).tstats.find? fun t => t.1 == k.bid with
  | none => s
  | some t =>
    let bit := t.2.2 || hit
    let rest := (s.core q).tstats.filter fun t => t.1 != k.bid
    if t.2.1 ≤ 1 then
      let pd := nfield k.x1 0 5
      let s1 := s.modCore q fun c => { c with tstats := rest }
      if pd = 0 then s1
      else
        let w : PendWrite :=
          { due := s.pcc + 24, rank := 8, bid := k.bid, dst := .p pd (BitVec.allOnes 512), val := wide (predOf bit) }
        let put (a : Arch) : Arch := { a with pend := a.pend ++ [w] }
        s1.modCore q fun c =>
          { c with
            arch := put c.arch
            snaps := c.snaps.map fun (p : Nat × Arch × Option RevWalk) => if k.bid < p.1 then (p.1, put p.2.1, p.2.2) else p }
    else s.modCore q fun c => { c with tstats := rest ++ [(k.bid, t.2.1 - 1, bit)] }

/-- TRSUM and TCSUM of tile t: it is read line by line from the start on, and the sums are written at start + 68 (R412). -/
def startSum (s : State) (q j : Nat) (k : Cmd) (w : Word) (t : Nat) : State :=
  let c := s.cell q j
  let p := passOf c k w s.pcc BData.empty [] 0
  addSched (s.modCell q j fun c => { c with passes := c.passes ++ [p] }) q j k
    ((List.range 64).map (fun i => (s.pcc + i, 0, .sumRead p.id i t))
      ++ [(s.pcc + 68, 1, .sums p.id), (s.pcc + 69, 0, .passEnd p.id)] ++ signalAt k (s.pcc + 69) 0)

/-- A tile command with a true guard starts: what its word w asks for. -/
def startTile (s : State) (q j : Nat) (k : Cmd) (w : Word) : State :=
  let pcc := s.pcc
  let page := nfield k.x1 0 22
  let spoil (t : Nat) : State := s.modCell q j fun c => spoilWeights c t
  match k.instr with
  | .tld f =>
    let t := f.td.toNat
    addSched (spoil t) q j k (fillEffects k w pcc 0 t (fun i => .readTile t i page (fmtLay w))
      (fun i => .readScale t i (page + 65536) j q))
  | .tfill f =>
    let t := f.td.toNat
    let src := fillSource q k.x1
    addSched (spoil t) q j k (fillEffects k w pcc 8 t (fun i => .readFill t i page (fmtLay w) src.2 src.1)
      (fun i => .readScale t i (page + 65536) src.2 src.1))
  | .tzero f =>
    let t := f.td.toNat
    addSched (spoil t) q j k ((List.range 64).map (fun i => (pcc + 1, 1, Effect.tileLine t i 0))
      ++ (List.range 4).map (fun i => (pcc + 1, 1, Effect.scaleLine t i 0)) ++ [(pcc + 2, 0, .setFull t)] ++ signalAt k (pcc + 2) 0)
  | .tst f => addSched s q j k (storeEffects k w pcc (f.ta.toNat % 8))
  | .wld f =>
    let idx := indexTile k.instr k.x1
    let rel := if k.x1.getLsbD 3 then
        (pcc + 64, 0, Effect.clearFull (f.tb.toNat % 8)) :: (if fmtSp w = 0 then [] else [(pcc + 64, 0, Effect.clearFull idx)]) else []
    addSched (s.modCell q j fun c => { c with wShad := some (loadBuffer f.tb.toNat idx w pcc) }) q j k
      (loadEffects f.tb.toNat idx w pcc ++ rel ++ signalAt k (pcc + 64) 0)
  | .mma f | .mmas f => startPass s q j k w f.td.toNat f.ta.toNat f.tb.toNat
  | .azero f =>
    let n := f.td.toNat - 8
    addSched s q j k ((List.range 64).map (fun i => (pcc + 1, 1, Effect.accRow (64 * n + i) 0 fullMask))
      ++ [(pcc + 1, 0, .clearFlags n false), (pcc + 2, 0, .setFull f.td.toNat)] ++ signalAt k (pcc + 2) 0)
  | .tclr f =>
    let b := f.td.toNat
    addSched s q j k ((pcc + 1, 0, Effect.clearFull b) ::
      ((if 8 ≤ b then [(pcc + 1, 0, Effect.clearFlags (b - 8) true)] else []) ++ signalAt k (pcc + 1) 0))
  | .drain f => startDrain s q j k w (f.ta.toNat - 16)
  | .fpush _ => addSched (s.modCell q j fun c => { c with fmtq := c.fmtq ++ [k.x1] }) q j k (signalAt k (pcc + 1) 0)
  | .tstat f => addSched (startTstat s q j k (f.ta.toNat - 16)) q j k (signalAt k (pcc + 1) 0)
  | .trsum f | .tcsum f => startSum s q j k w f.ta.toNat
  | _ => s

/-- A matrix command starts: the wait takes its count, the word is popped, and a quashed command only signals and writes its
records (R301, R157). -/
def startMatrix (s : State) (q j : Nat) (k : Cmd) : State :=
  let c := s.cell q j
  let w := c.wordOf s.fresh k
  let used := popsWord k.instr && k.word.isNone && c.fmtq.isEmpty
  let early := match k.instr with
    | .drain _ => k.erc && fmtRq w && spmEarly s q j (laidRange 0 (64 * nfield k.x1 39 16) (8 * passN w))
    | _ => false
  match (if k.gtrue then tileReadFault s q j k w else none) with
  | some (true, a) => poisonFault s q j k.bundle a
  | some (false, v) => cellFault s q j 11 (BitVec.ofNat 64 v)
  | none =>
    if early then cellTiming s q j 0 k.bundle 6 0
    else
      let s1 := match semWait k.instr with
        | some n => s.modCore q fun c => { c with sems := sset 0 c.sems n (sget 0 c.sems n - 1) }
        | none => s
      let s2 := if used then { s1 with fresh := s1.fresh + 1 } else s1
      let s3 := s2.modCell q j fun c => popWord c k
      if k.gtrue then startTile s3 q j k w
      else
        let recs := match k.instr with
          | .mma f => writeRecords s3 q j 0 k (c.sourceList f.ta.toNat) (c.tileList (f.tb.toNat % 8)) 0 0 w
          | _ => s3
        addSched recs q j k (signalAt k (s.pcc + 1) 0)

/-! ### Commands of the SF queue -/

/-- A code of a floating type as an f32 code; exact. -/
def toF32 (f : Fmt) (a : Nat) : Nat := (Fmt.f32.ofVal .rne false (f.decode a) 0).1

/-- SFOP's table functions: the value or the slope, rounded once to the type (R270, R421); where a bound or knot is not finite, what
the table itself gives. -/
def sfTable (t : List Byte) (inverse deriv : Bool) (f : Fmt) (a : Nat) : Nat :=
  match f.decode a with
  | .nan n fr mw => f.quiet n fr mw
  | _ =>
    let x := toF32 f a
    let r := tabRange t inverse
    let slope (j : Nat) : Rat := rat32 (tabKnot t inverse (j + 1)) - rat32 (tabKnot t inverse j)
    let finite (j : Nat) : Bool := finite32 (tabKnot t inverse j) && finite32 (tabKnot t inverse (j + 1))
    let exact (j : Nat) (v : Rat) : Option Rat := if finite j then some v else none
    let v : Option Rat := match tabSegment t inverse x, deriv with
      | .at_ u j, false => exact j (rat32 (tabKnot t inverse j) + (u - j) * slope j)
      | .at_ _ j, true => exact j (slope j * 1024 / (rat32 r.2 - rat32 r.1))
      | .beyond, true => exact 1023 (slope 1023 * 1024 / (rat32 r.2 - rat32 r.1))
      | _, _ => none
    match v with
    | some v => (f.round .rne false (decide (v < 0)) (if v < 0 then -v else v) 0).1
    | none => (f.ofVal .rne false (Fmt.f32.decode (if deriv then tabSlope t inverse x else tabEval t inverse x)) 0).1

/-- SFOP's result row (R421). -/
def sfRow (s : State) (f : EV) (x : Word) (a : Row) : Row :=
  let fn := nfield f.fn 0 4
  let d := f.fn.getLsbD 6
  let ty := sfopType f
  let t := sget [] s.tables (nfield x 0 3)
  rowOfLanes (tyWidth ty) ((rowLanes a (tyWidth ty)).map fun v =>
    if fn < 8 then sfValue fn d (tyFmt ty) v else sfTable t (fn == 9) d (tyFmt ty) v)

/-- SFOP starts: its row crosses to the special-function die and its result comes back (R170, R421). -/
def startSfop (s : State) (q j : Nat) (k : Cmd) (f : EV) : State :=
  let c := s.cell q j
  match readSources c s.pcc [f.a] [] with
  | .error p => cellTiming s q j 2 k.bundle 8 p
  | .ok (rows, taken) =>
    let r := (rows.head?).getD (0, 0)
    earlyCheck s q j 2 k (earlySources s q j [f.a] []) <|
    if r.2 ≠ 0 then popFault s q j k.bundle r.2
    else
      let y := sfRow s f k.x1 r.1
      let due := s.pcc + 2 * s.lat (quadDie q) 9 + 40
      let s1 := writeRecords (s.modCell q j fun c => c.popAll taken) q j 2 k [r.1] [] 0 0 0
      addSched s1 q j k ((destEffect f.d y fullMask).toList.map (fun e => (due, 2, e))
        ++ [(s.pcc + s.lat (quadDie q) 9, 0, .elastic 9), (due, 0, .elastic (quadDie q))]
        ++ (if hasRec k.resOps 64 then [(due, 0, .granules 2 k.resAt (rowGranules y))] else []))

/-- A send takes its row at its start; row i of the command is delivered 4i cycles after the first (R429). -/
def startSend (s : State) (q j : Nat) (k : Cmd) (f : EV) (back : Bool) : State :=
  let c := s.cell q j
  match readSources c s.pcc [f.a] [] with
  | .error p => cellTiming s q j 2 k.bundle 8 p
  | .ok (rows, taken) =>
    let r := (rows.head?).getD (0, 0)
    earlyCheck s q j 2 k (earlySources s q j [f.a] []) <|
    if r.2 ≠ 0 then popFault s q j k.bundle r.2
    else
      let peer := k.x1.toNat % 256
      let due := s.pcc + 10 + s.lat (quadDie q) (quadDie peer) + 4 * cellRank f.cm j
      let s1 := s.modCell q j fun c => c.popAll taken
      { s1 with laneMsgs := s1.laneMsgs ++
          [{ due := due, quad := peer, lane := laneKey (k.x1.toNat / 256) back, row := some r.1, crosses := quadDie q != quadDie peer }] }

/-- A receive starts: it pops its row i cycles on for the i-th cell (R429). -/
def startRecv (s : State) (q j : Nat) (k : Cmd) (f : EV) (back : Bool) : State :=
  addSched s q j k [(s.pcc + cellRank f.cm j, 0,
    .lanePop (laneKey (nfield f.fn 0 3) back) (k.x1.toNat % 256) (laneKey (k.x1.toNat / 256) back) f.d)]

/-- An RPUSH starts. -/
def startRpush (s : State) (q j : Nat) (k : Cmd) (f : EV) : State :=
  match readSources (s.cell q j) s.pcc [f.a] [] with
  | .error p => cellTiming s q j 2 k.bundle 8 p
  | .ok (rows, taken) =>
    let r := (rows.head?).getD (0, 0)
    earlyCheck s q j 2 k (earlySources s q j [f.a] []) <|
    if r.2 ≠ 0 then popFault s q j k.bundle r.2
    else writeGranules (s.modCell q j fun c => c.popAll taken) q j k.bundle 2 k.resAt (rowGranules r.1)

/-- A command of the SF queue with a true guard starts. -/
def startEngine (s : State) (q j : Nat) (k : Cmd) : State :=
  let pcc := s.pcc
  match k.instr with
  | .xfer _ | .xferRow _ =>
    let len := k.x3.toNat % 2 ^ 32
    let pois := if xferRowMode k.instr then none else (s.cell q j).poisonIn (xferSrc k.instr k.x1) len
    match pois with
    | some a => poisonFault s q j k.bundle a
    | none => addSched s q j k ((List.range (len / 256)).map fun b => (pcc + b, 0, .xferRead k b))
  | .sfop f => startSfop s q j k f
  | .rpush f => startRpush s q j k f
  | .rpop f =>
    let r := rowOfGranules ((List.range 16).map fun i => windowRead s q j (k.resAt + i))
    addSched s q j k ((destEffect f.d r fullMask).toList.map fun e => (pcc + 3, 2, e))
  | .rseed _ => s.modCell q j fun c => { c with rngK := k.x1, rngC := k.x2 }
  | .psend f => startSend s q j k f false
  | .psendG f => startSend s q j k f true
  | .precv f => startRecv s q j k f false
  | .precvG f => startRecv s q j k f true
  | .pbind _ =>
    s.modCell q j fun c => c.setPort k.x1.toNat
      { bound := true, set := k.set, reverse := setReverse k.set, bundle := k.bundle, erc := k.erc, lchk := k.lchk, from_ := pcc,
        next := 0, held := [] }
  | .pbindOff _ => s.modCell q j fun c => c.setPort k.x1.toNat QPort.unbound
  | .phase _ =>
    s.modCell q j fun c => c.setPort k.x1.toNat { c.port k.x1.toNat with held := [], next := k.x2.toNat }
  | _ => s

/-! ### The start -/

/-- The queue without its head. -/
def CellSt.dropHead (c : CellSt) (queue : Nat) : CellSt :=
  match queue with
  | 0 => { c with qMat := c.qMat.drop 1 }
  | 1 => { c with qVec := c.qVec.drop 1 }
  | _ => { c with qSf := c.qSf.drop 1 }

/-- A pass will load its own weights. -/
def selfLoads (c : CellSt) (pcc : Nat) (k : Cmd) (w : Word) : Bool :=
  match k.instr with
  | .mma f | .mmas f => decide (c.weights pcc f.tb.toNat (indexTile k.instr k.x1) w = .load)
  | _ => false

/-- The head command of a queue, which came from the control die, leaves it and starts. -/
def beginCommand (s : State) (q j queue : Nat) (k : Cmd) : State :=
  let c := s.cell q j
  let w := c.wordOf s.fresh k
  let until_ := s.pcc + occupancy k w (selfLoads c s.pcc k w)
  let s0 := elasticWait s (quadDie q) true
  let s1 := s0.modCell q j fun c => { c.dropHead queue with freeAt := sset 0 c.freeAt queue until_ }
  match queue with
  | 0 => startMatrix s1 q j k
  | 1 => startVector s1 q j k
  | _ => if k.gtrue then startEngine s1 q j k else s1

/-- What a queue has to do at this cycle: nothing, the start of its head, or TIMING with a sub-cause and index for a command of a
bundle. -/
inductive QueueTurn where
  | idle
  | start (k : Cmd)
  | demand (k : Cmd)
  | timing (k : Cmd) (sub index : Nat)
  deriving DecidableEq, Repr

/-- A command's bundle has committed. -/
def committedCmd (c : CoreSt) (k : Cmd) : Bool := decide (k.bid < c.frontier)

/-- The turn of a queue (R148, R149, R153, R154): a timed command is due at its start cycle, late when it is not the head, has not
arrived or committed, or the queue is occupied; an interlocked head starts when every condition holds. -/
def queueTurn (s : State) (q j queue : Nat) : QueueTurn :=
  let c := s.core q
  let x := s.cell q j
  let l := x.queueOf queue
  if c.run = .halted ∨ c.hold.isSome then .idle
  else
    match l.find? fun k => !k.lock && decide (k.start ≤ s.pcc) with
    | some k =>
      if l.head? ≠ some k ∨ k.start ≠ s.pcc ∨ s.pcc < k.arrive ∨ committedCmd c k = false ∨ s.pcc < sget 0 x.freeAt queue then .timing k 1 0
      else
        match unmet s q j k with
        | some e => .timing k e.1 e.2
        | none => .start k
    | none =>
      match l with
      | k :: _ =>
        if !k.lock || decide (s.pcc < k.arrive) || !(committedCmd c k) || decide (s.pcc < sget 0 x.freeAt queue) || outputBusy x k then .idle
        else
          match unmet s q j k with
          | none => .start k
          | some _ =>
            match k.instr with
            | .rpop _ => if x.demand.isNone && !(rpopHeld s q j k) && decide (k.resAt < x.spilled) then .demand k else .idle
            | _ => .idle
      | [] => .idle

/-- R153: the head command of a queue starts, or raises TIMING; an RPOP whose granules are spilled has the cell read them back
(R426). -/
def commandStart (s : State) (q j queue : Nat) : State :=
  match queueTurn s q j queue with
  | .idle => s
  | .start k => beginCommand s q j queue k
  | .demand k => s.modCell q j fun c => { c with demand := some (k.resAt, []) }
  | .timing k sub index => cellTiming s q j queue k.bundle sub index

/-- R153. -/
def execCommandStart (s : State) : Host.Outcome State Fault Refusal := .next (commandStart s s.arg.a s.arg.b s.arg.c)

end Sys2Proof.Machine
end

