-- ==== Sys2Proof/Machine/Ports.lean ====
section
/-! DEFINITION. What reaches a quad or leaves it beside its commands: rows of operand ports, timed transfers from other quads,
rows and credits of paired channels, and granules read back on demand (R161 to R164, R242, R245, R420, R426, R429). -/

namespace Sys2Proof.Machine

/-! ### Operand ports (R161 to R164, R437) -/

/-- An input port's generator can read its next row: it has started, its walk is not finished, it has a free slot, and its one
row of this cycle is not used. -/
def portReadDue (s : State) (q j p : Nat) : Bool :=
  let x := (s.cell q j).port p
  decide (p < 6) && x.bound && decide (x.from_ ≤ s.pcc) && decide (x.next < setLength x.set) && decide (x.held.length < 4) &&
    (s.core q).hold.isNone

/-- R162: the row is read and delivered four cycles on. -/
def portRowRead (s : State) (q j p : Nat) : State :=
  if !(portReadDue s q j p) then s
  else
    let c := s.cell q j
    let x := c.port p
    let at_ := x.entryAddr x.next
    let lay := setLay x.set
    let row := rowOfBytes (c.readLaid lay at_ 1024)
    let y := { x with
      next := x.next + 1
      from_ := s.pcc + 1
      held := x.held ++ [(s.pcc + 4, row, BitVec.ofNat 1024 (entryFault c x.lchk lay at_))] }
    if x.erc && spmEarly s q j (laidRange lay at_ 1024) then cellTiming s q j 2 x.bundle 6 p
    else s.setCell q j (c.setPort p y)

/-- R162. -/
def execPortRowRead (s : State) : Host.Outcome State Fault Refusal := .next (portRowRead s s.arg.a s.arg.b s.arg.c)

/-- The head of an output port was pushed before this cycle and the port's one row of this cycle is not used. -/
def portWriteDue (s : State) (q j p : Nat) : Bool :=
  let x := (s.cell q j).port p
  (p == 6 || p == 7) && x.bound && decide (x.from_ ≤ s.pcc) && (s.core q).hold.isNone &&
    (match x.held with
      | h :: _ => decide (h.1 < s.pcc)
      | [] => false)

/-- R164: the enabled bytes of the head reach scratchpad at the port's next entry. -/
def portEntryWrite (s : State) (q j p : Nat) : State :=
  if !(portWriteDue s q j p) then s
  else
    let c := s.cell q j
    let x := c.port p
    match x.held with
    | h :: rest =>
      let bs := (List.range 1024).map fun i => if h.2.2.getLsbD i then some (rowByte h.2.1 i) else none
      let c1 := putMasked c (setLay x.set) (x.entryAddr x.next) bs true
      s.setCell q j (c1.setPort p { x with next := x.next + 1, from_ := s.pcc + 1, held := rest })
    | [] => s

/-- R164. -/
def execPortEntryWrite (s : State) : Host.Outcome State Fault Refusal := .next (portEntryWrite s s.arg.a s.arg.b s.arg.c)

/-! ### Arrivals from other quads (R16, R233, R420) -/

/-- What has arrived for a quad by this cycle, transfers and rows together. -/
def inbound (s : State) (q : Nat) : Nat :=
  (s.arrivals.filter fun a => a.quad == q && decide (a.due ≤ s.pcc)).length
    + (s.laneMsgs.filter fun m => m.quad == q && decide (m.due ≤ s.pcc)).length

/-- Entries of the inbound queue of a held quad (R233). -/
def inboundRoom : Nat := 64

/-- TIMING with sub-cause 10 against the bundle a quad is at, for a transfer to a cell; a lane's row names none. -/
def overflowFault (s : State) (q cell : Nat) : State := timingFault s q (s.core q).arch.pc 7 1 10 cell 0 0

/-- The cell that what arrived last for a held quad goes to: a transfer's, or 0 for a row of a lane. -/
def lastCell (s : State) (q : Nat) : Nat :=
  let l := s.arrivals.filter fun a => a.quad == q && decide (a.due ≤ s.pcc)
  match l.foldl (fun (m : Option Arrival) a => match m with
      | some b => if b.due ≤ a.due then some a else some b
      | none => some a) none with
  | some a => if s.laneMsgs.any fun m => m.quad == q && decide (m.due ≤ s.pcc ∧ a.due < m.due) then 0 else a.cell
  | none => 0

/-- The arrival of a quad that acts first: by cycle, then by source quad and cell. -/
def firstArrival (l : List Arrival) (q pcc : Nat) : Option Arrival :=
  (l.filter fun a => a.quad == q && decide (a.due ≤ pcc)).foldl (fun m a =>
    match m with
    | none => some a
    | some b => if a.due < b.due ∨ (a.due = b.due ∧ a.rank < b.rank) then some a else some b) none

/-- A quad has an arrival to take: always while it is not held; while it is, only one that finds the inbound queue full. -/
def arrivalDue (s : State) (q : Nat) : Bool :=
  if (s.core q).hold.isSome then decide (inboundRoom < inbound s q)
  else (firstArrival s.arrivals q s.pcc).isSome

/-- R420: the first arrival of a quad takes effect at its cycle. R233: a 65th one for a held quad raises TIMING. -/
def timedArrival (s : State) (q : Nat) : State :=
  if !(arrivalDue s q) then s
  else if (s.core q).hold.isSome then overflowFault (s.modCore q fun c => { c with hold := none }) q (lastCell s q)
  else
    match firstArrival s.arrivals q s.pcc with
    | some a =>
      applyEffect (elasticWait { s with arrivals := s.arrivals.erase a } (quadDie q) a.crosses) q a.cell
        { due := a.due, prio := 3, bid := 0, bundle := 0, erc := false, eff := a.eff }
    | none => s

/-- R16, R420. -/
def execTimedArrival (s : State) : Host.Outcome State Fault Refusal := .next (timedArrival s s.arg.a)

/-! ### Paired channels (R245, R429) -/

/-- A row of a quad's lanes that is delivered by now, or a credit that has come back. A row sent later does not overtake one of its
lane (R245). -/
def laneDue (s : State) (q : Nat) (credit : Bool) : Option LaneMsg :=
  if (s.core q).hold.isSome then none
  else s.laneMsgs.find? fun m => m.quad == q && decide (m.due ≤ s.pcc) && m.row.isNone == credit
    && (credit || (laneRows s q m.lane).head? == some m)

/-- R245: a row reaches its lane's buffer; a 17th buffered row raises TIMING with sub-cause 10. -/
def pairRowDeliver (s : State) (q : Nat) : State :=
  match laneDue s q false with
  | none => s
  | some m =>
    let s1 := { s with laneMsgs := s.laneMsgs.erase m }
    let s2 := elasticWait s1 (quadDie q) m.crosses
    let l := sget [] (s.core q).lanes m.lane
    if 16 ≤ l.length then overflowFault s2 q 0
    else s2.modCore q fun c => { c with lanes := sset [] c.lanes m.lane (l ++ [(m.due, m.row.getD 0)]) }

/-- R245. -/
def execPairRowDeliver (s : State) : Host.Outcome State Fault Refusal := .next (pairRowDeliver s s.arg.a)

/-- R429: one credit of a lane comes back to its sender. -/
def pairCreditReturn (s : State) (q : Nat) : State :=
  match laneDue s q true with
  | none => s
  | some m =>
    let back (a : Arch) : Arch := { a with credits := sset 0 a.credits m.lane (sget 0 a.credits m.lane - 1) }
    (elasticWait { s with laneMsgs := s.laneMsgs.erase m } (quadDie q) m.crosses).modCore q fun c =>
      { c with arch := back c.arch, snaps := c.snaps.map fun (p : Nat × Arch × Option RevWalk) => (p.1, back p.2.1, p.2.2) }

/-- R429. -/
def execPairCreditReturn (s : State) : Host.Outcome State Fault Refusal := .next (pairCreditReturn s s.arg.a)

/-! ### Demand reads (R242, R426) -/

/-- A readback for an RPOP that fails is the command's fault at its start: it writes nothing and the depth is as before it
(R426). -/
def rpopFault (s : State) (q j x kind status : Nat) : State :=
  let va := (s.core q).arch.hbmAddr j x
  let head := (s.cell q j).qSf.head?
  let s1 := match head with
    | some k =>
      let back (a : Arch) : Arch := { a with rsTop := sset 0 a.rsTop j (BitVec.ofNat 40 (k.resAt + 16)) }
      s.modCore q fun c =>
        { c with arch := back c.arch, snaps := c.snaps.map fun (p : Nat × Arch × Option RevWalk) => if k.bid < p.1 then (p.1, back p.2.1, p.2.2) else p }
    | none => s
  if kind = 8 then cellFault s1 q j 12 (poisonTval va (status == 1))
  else cellFault s1 q j (kindCause kind) (kindTval va kind status)

/-- A demand read returns once no batch of the cell is in flight. -/
def demandDue (s : State) (q j : Nat) : Bool := (s.cell q j).demand.isSome && (s.cell q j).batch.isNone

/-- The granules a stalled bundle or an RPOP demands come back, or the read becomes its trap, at the slot whose record
holds the granule, with H as at the bundle's start (R242, R243); the run-ahead unit of a demanded granule goes on. -/
def demandReadReturn (s : State) (q j : Nat) : State :=
  match (if demandDue s q j then (s.cell q j).demand else none) with
  | none => s
  | some x =>
    let t := s.modCell q j fun c => { c with demand := none, aheadStop := false }
    match readBack t q j ((t.cell q j).spilled - x.1) with
    | (u, none) => u
    | (u, some e) =>
      if (s.core q).rev.isSome then
        let n := ((x.2.find? fun b => decide (b.1 ≤ e.1)).map Prod.snd).getD 4
        granuleTrap (u.modCore q fun c => { c with slot := n }) q j e.1 e.2.1 e.2.2
      else rpopFault u q j e.1 e.2.1 e.2.2

/-- R242, R426. -/
def execDemandReadReturn (s : State) : Host.Outcome State Fault Refusal := .next (demandReadReturn s s.arg.a s.arg.b)

end Sys2Proof.Machine
end

