-- ==== Sys2Proof/Machine/Stack.lean ====
section
/-! DEFINITION. The stack engine: ingress, channel queues and their drain machine, the operations it performs, batched
acknowledgements, the reduction engine and uncorrectable errors (R68 to R90, R98 to R100). -/

namespace Sys2Proof.Machine

/-! ### Granule operations and channels (R76, R77) -/

/-- The channel of a stack-local address. -/
def chanOf (a : Nat) : Nat := ((a / 2 ^ 8 % 64) ^^^ (a / 2 ^ 14 % 64)) / 2

/-- A channel of stack k. -/
def StackSt.chan (x : StackSt) (n : Nat) : ChanSt := sget ChanSt.idle x.chans n
def StackSt.setChan (x : StackSt) (n : Nat) (v : ChanSt) : StackSt := { x with chans := sset ChanSt.idle x.chans n v }

/-- The enabled bytes of a request as a list over its range. -/
def Req.enables (r : Req) : List Bool :=
  if r.op = 2 then (List.range r.len).map fun i => (r.ben[i]?).getD false else List.replicate r.len true

/-- The granule operations of a request: granule number and byte mask. -/
def Req.granules (r : Req) : List (Nat × BitVec 64) :=
  let en := r.enables
  let first := r.addr / 64
  (List.range ((r.addr % 64 + r.len + 63) / 64)).map fun i =>
    let base := 64 * (first + i)
    (first + i, BitVec.ofNat 64 (((List.range 64).filter fun j => decide (r.addr ≤ base + j) &&
      (en[base + j - r.addr]?).getD false).foldl (fun m j => m + 2 ^ j) 0))

/-- A request goes to the read queues, or to the write queues (R77, R79). -/
def Req.readsDram (r : Req) : Bool := r.op == 0 || r.op == 3 || r.op == 4

/-- The status of a request to stack k (R68, R73, R75). Of several conditions status 1 goes first, then 2, 4 and 3, and a REDUCE's
block is tested for 6 before 3 (DESIGN CHOICE, log 65: R75 gives no order). -/
def reqStatus (s : State) (r : Req) : Nat :=
  if 7 < r.op then 1
  else if inAperture r.pa ∧ r.op ≠ 0 then 1
  else if (r.op = 3 ∨ r.op = 4) ∧ r.flt = true ∧ 3 ≤ r.afn ∧ r.afn ≤ 5 then 1
  else if r.op = 4 ∧ 6 ≤ r.afn then 1
  else if r.op = 5 ∨ r.op = 6 then 0
  else if r.addr % 32 ≠ 0 ∨ 4096 < r.addr % 4096 + r.len then 2
  else s.accessStatus r.key r.pa r.len

/-- The channel operations a request is split into: none for what never touches the DRAM itself. -/
def queuedGranules (s : State) (r : Req) : List (Nat × BitVec 64) :=
  if r.op = 5 ∨ r.op = 6 ∨ reqStatus s r ≠ 0 ∨ inAperture r.pa then [] else r.granules

/-- The channel whose grant a request takes: one grant, of the channel of its first granule, a REDUCE's of channel 0 (DESIGN CHOICE,
log 65: R82 speaks of each channel's grants and of no request that lies in several). -/
def Req.chan (r : Req) : Nat := if r.op = 5 then 0 else chanOf r.addr

/-! ### Ingress (R82) -/

/-- The ingress FIFO of a class. -/
def StackSt.fifo (x : StackSt) (c : Nat) : List Req := sget [] x.ingress c

/-- A request arrives at stack k: it joins the FIFO of its class, and its wait at the head starts when nothing stands before it. -/
def arriveReq (s : State) (k : Nat) (r : Req) : State :=
  s.modStack k fun x => { x with ingress := sset [] x.ingress (r.qos % 4) (x.fifo (r.qos % 4) ++ [{ r with since := s.baseCycle }]) }

/-- Every channel queue has room for the operations of a request. -/
def hasRoom (s : State) (x : StackSt) (r : Req) : Bool :=
  let gs := queuedGranules s r
  (List.range 32).all fun n =>
    let need := (gs.filter fun g => chanOf (64 * g.1) == n).length
    need = 0 || decide ((if r.readsDram then (x.chan n).rq else (x.chan n).wq).length + need ≤ 64)

/-- The request a class offers channel n: the head of its FIFO, if it is this channel's and fits. -/
def offered (s : State) (x : StackSt) (n c : Nat) : Option Req :=
  match x.fifo c with
  | r :: _ => if r.chan = n && hasRoom s x r then some r else none
  | [] => none

/-- The class a grant of the round belongs to: 8 of class 0, 4 of class 1, 2 of class 2, 1 of class 3. -/
def roundClass (n : Nat) : Nat := if n < 8 then 0 else if n < 12 then 1 else if n < 14 then 2 else 3

/-- The class that takes the next grant of channel n in the round. -/
def grantClass (s : State) (x : StackSt) (n : Nat) : Option Nat :=
  let c0 := roundClass ((x.chan n).round % 15)
  ([0, 1, 2, 3].map fun i => (c0 + i) % 4).find? fun c => (offered s x n c).isSome

/-- The class whose head has waited 2,048 base-die cycles, the oldest first. -/
def agedClass (s : State) (x : StackSt) (n : Nat) : Option Nat :=
  let late := [0, 1, 2, 3].filterMap fun c =>
    match offered s x n c with
    | some r => if 2048 ≤ s.baseCycle - r.since then some (c, r.since) else none
    | none => none
  (late.foldl (fun (m : Option (Nat × Nat)) p =>
    match m with
    | none => some p
    | some b => if p.2 < b.2 then some p else some b) none).map Prod.fst

/-- A read that arrives ends a DRAIN entered when idle; it starts the starvation timer of another one (R81). -/
def ChanSt.afterRead (c : ChanSt) (now : Nat) (wasEmpty : Bool) : ChanSt :=
  if c.draining then
    if !c.byWatermark && decide (c.wq.length < 48) then { c with draining := false, starved := 0 }
    else if wasEmpty then { c with drainedAt := now } else c
  else c

/-- One granule operation enters its channel's queue. -/
def enterQueue (now : Nat) (r : Req) (x : StackSt) (g : Nat × BitVec 64) : StackSt :=
  let n := chanOf (64 * g.1)
  let c := x.chan n
  let op : GranOp := { gran := g.1, mask := g.2, req := r.id }
  if r.readsDram then x.setChan n ({ c with rq := c.rq ++ [op] }.afterRead now c.rq.isEmpty)
  else x.setChan n { c with wq := c.wq ++ [op] }

/-- Class c's head is granted: it takes its number of arrival and its operations enter the queues (R76 to R78). -/
def grant (s : State) (k c : Nat) : State :=
  match (s.stack k).fifo c with
  | [] => s
  | r0 :: rest =>
    let r := { r0 with id := (s.stack k).nextReq }
    let gs := queuedGranules s r
    s.modStack k fun x =>
      let rest1 := match rest with
        | h :: t => { h with since := s.baseCycle } :: t
        | [] => []
      let x1 := { x with ingress := sset [] x.ingress c rest1, accepted := x.accepted ++ [r], nextReq := x.nextReq + 1 }
      gs.foldl (enterQueue s.baseCycle r) x1

/-- A channel grants by the round. -/
def grantDue (s : State) (k n : Nat) : Bool :=
  (agedClass s (s.stack k) n).isNone && (grantClass s (s.stack k) n).isSome

/-- R82. -/
def ingressGrant (s : State) (k n : Nat) : State :=
  if !(grantDue s k n) then s
  else
    match grantClass s (s.stack k) n with
    | none => s
    | some c => (grant s k c).modStack k fun x => x.setChan n { x.chan n with round := ((x.chan n).round + 1) % 15 }

/-- R82: an aged request takes the next grant ahead of the round. -/
def ingressAging (s : State) (k n : Nat) : State :=
  match agedClass s (s.stack k) n with
  | none => s
  | some c => grant s k c

/-- R82. -/
def execIngressGrant (s : State) : Host.Outcome State Fault Refusal := .next (ingressGrant s s.arg.a s.arg.b)

/-- R82. -/
def execIngressAging (s : State) : Host.Outcome State Fault Refusal := .next (ingressAging s s.arg.a s.arg.b)

/-! ### The channel queues (R79 to R81) -/

/-- The pending writes a granule read meets: earlier in arrival, of its granule, with an enabled byte in common. -/
def overlapping (c : ChanSt) (r : GranOp) : List GranOp :=
  c.wq.filter fun w => w.gran == r.gran && decide (w.req < r.req) && w.mask &&& r.mask != 0

/-- Every requested byte is enabled in some pending write. -/
def answeredByQueue (c : ChanSt) (r : GranOp) : Bool :=
  (overlapping c r).foldl (fun m w => m ||| w.mask) 0 &&& r.mask == r.mask && r.mask != 0

/-- The queue after a read is resolved: with a partial overlap the granule's writes up to the last overlapping one are drained
(R79, R80). -/
def promote (c : ChanSt) (r : GranOp) : List GranOp :=
  let ov := overlapping c r
  if ov.isEmpty || answeredByQueue c r then c.wq
  else
    let last := ov.foldl (fun m w => max m w.req) 0
    c.wq.filter fun w => !(w.gran == r.gran && decide (w.req ≤ last))

/-- A RED whose granule R79 has resolved is performed now (R85). -/
def RedDone.resolved (r : RedDone) (now req : Nat) : RedDone := if r.req = some req then { r with req := none, when_ := now } else r

/-- A granule read of a request is done; the reply leaves with the last one, and a RED is performed (R76, R85). -/
def readDone (s : State) (k req : Nat) : State :=
  let ws := (s.stack k).waiting.map fun w => if w.req = req then { w with left := w.left - 1 } else w
  let done := (ws.filter fun w => w.left == 0).map fun w => w.reply
  let s1 := s.modStack k fun x =>
    { x with waiting := ws.filter (fun w => w.left != 0), redPend := x.redPend.map fun r => r.resolved s.baseCycle req }
  { s1 with replies := s1.replies ++ done }

/-- A channel in READ resolves the head of its read queue (R79, R81). -/
def resolveDue (s : State) (k n : Nat) : Bool :=
  let c := (s.stack k).chan n
  !c.draining && !c.rq.isEmpty

def granuleReadResolve (s : State) (k n : Nat) : State :=
  if !(resolveDue s k n) then s
  else
    let c := (s.stack k).chan n
    match c.rq with
    | [] => s
    | r :: rest =>
      let c1 := { c with wq := promote c r, rq := rest, starved := if rest.isEmpty then 0 else c.starved - 1 }
      readDone (s.modStack k fun x => x.setChan n c1) k r.req

/-- R79. -/
def execGranuleReadResolve (s : State) : Host.Outcome State Fault Refusal := .next (granuleReadResolve s s.arg.a s.arg.b)

/-- A pending write can drain: it is the first of its granule, and no earlier-arriving read or atomic of an overlapping byte is
unperformed (R80). -/
def drainable (c : ChanSt) (w : GranOp) : Bool :=
  (c.wq.find? fun v => v.gran == w.gran) == some w && !(c.rq.any fun r => r.gran == w.gran && decide (r.req < w.req) && r.mask &&& w.mask != 0)

/-- The drain machine of a channel has something to do: enter DRAIN, or drain a write, or leave; in DRAIN it waits while no write may
drain. -/
def drainDue (s : State) (k n : Nat) : Bool :=
  let c := (s.stack k).chan n
  if c.draining then decide (c.wq.length ≤ 16) || c.wq.any (drainable c)
  else c.starved == 0 && (decide (48 ≤ c.wq.length) || (c.rq.isEmpty && !c.wq.isEmpty))

/-- R81: READ enters DRAIN at 48 writes or when idle; DRAIN writes the first write that may drain and leaves at 16 writes. -/
def writeDrain (s : State) (k n : Nat) : State :=
  if !(drainDue s k n) then s
  else
    let c := (s.stack k).chan n
    let c1 :=
      if c.draining then
        let wq := match c.wq.find? (drainable c) with
          | some w => c.wq.erase w
          | none => c.wq
        { c with wq := wq, draining := decide (16 < wq.length) }
      else { c with draining := true, byWatermark := decide (48 ≤ c.wq.length), drainedAt := s.baseCycle }
    s.modStack k fun x => x.setChan n c1

/-- R81. -/
def execWriteDrain (s : State) : Host.Outcome State Fault Refusal := .next (writeDrain s s.arg.a s.arg.b)

/-- The starvation timer of a channel has reached 512 base-die cycles. -/
def starvationDue (s : State) (k n : Nat) : Bool :=
  let c := (s.stack k).chan n
  c.draining && !c.rq.isEmpty && decide (512 ≤ s.baseCycle - c.drainedAt)

/-- R81: the channel goes to READ and serves up to 8 reads before it may drain again. -/
def starvationTimeout (s : State) (k n : Nat) : State :=
  if !(starvationDue s k n) then s
  else s.modStack k fun x => x.setChan n { x.chan n with draining := false, starved := 8 }

/-- R81. -/
def execStarvationTimeout (s : State) : Host.Outcome State Fault Refusal := .next (starvationTimeout s s.arg.a s.arg.b)

/-! ### Operations (R72, R75, R78, R84) -/

/-- The oldest request accepted and not performed, if it is of an op. -/
def headReq (s : State) (k op : Nat) : Option Req :=
  match (s.stack k).accepted with
  | r :: _ => if r.op = op then some r else none
  | [] => none

/-- A reply to a request (R74); a read's brings the clock of its home (R189). -/
def replyTo (s : State) (k : Nat) (r : Req) (status pmask : Nat) (data : List Byte) : Reply :=
  { op := r.op, status := status, die := r.die, agent := r.agent, tag := r.tag, gen := r.gen, stack := k, rcount := 0,
    rfail := 0, pmask := pmask, data := data, clock := if r.op = 0 ∨ r.op = 3 then s.homeClock (k / 2 + 1) else [],
    home := k / 2 + 1, applied := (s.die (k / 2 + 1)).applied, pa := r.pa, fill := r.fill }

/-- The granule reads of a request that its channels have not resolved (R76, R79). -/
def unresolved (s : State) (k : Nat) (r : Req) : Nat :=
  (List.range 32).foldl (fun n c => n + (((s.stack k).chan c).rq.filter fun g => g.req == r.id).length) 0

/-- The head request has been performed: its reply leaves at once, or with its last granule read (R76). -/
def answer (s : State) (k : Nat) (r : Req) (reply : Reply) : State :=
  let s1 := s.modStack k fun x => { x with accepted := x.accepted.drop 1 }
  let left := unresolved s k r
  if left = 0 then { s1 with replies := s1.replies ++ [reply] }
  else s1.modStack k fun x => { x with waiting := x.waiting ++ [{ req := r.id, left := left, reply := reply }] }

/-- A request with a status has no effect (R75). -/
def refuseReq (s : State) (k : Nat) (r : Req) (status : Nat) : State := answer s k r (replyTo s k r status 0 [])

/-- A cached line with the bytes that home holds now in a run of bytes that are not dirty, and home's marks of poison in the granules of
the run; a granule with dirty bytes keeps its own mark beside home's (R98, R190). -/
def RdcLine.refresh (l : RdcLine) (s : State) (off len : Nat) : RdcLine :=
  let r := s.physRead l.place.key l.place.home l.place.pa 128
  if r.1 ≠ 0 then l
  else
    let bs := (List.range len).map fun i => if l.dirty.getLsbD (off + i) then none else r.2.1[off + i]?
    let mark (m : BitVec 2) (g : Nat) : BitVec 2 :=
      let b : BitVec 2 := (1 : BitVec 2) <<< g
      if 64 * g + 64 ≤ off ∨ off + len ≤ 64 * g then m
      else if l.dirty &&& granuleMask g = 0 then (m &&& ~~~b) ||| (BitVec.ofNat 2 r.2.2 &&& b)
      else m ||| (BitVec.ofNat 2 r.2.2 &&& b)
    { l.store off bs false false with pois := [0, 1].foldl mark l.pois }

/-- R190: once home has performed an access of a stream core, the copy that the control die holds of the bytes is no older.
DEDUCED, log 31. -/
def refreshCopies (s : State) (r : Req) : State :=
  if r.die ≠ 0 ∨ inAperture r.pa ∨ 128 < r.pa % 128 + r.len then s
  else
    let n := r.pa / 128
    let s1 := cancelFills s 0 n
    match rdcFind (s1.die 0).rdc n with
    | some l => s1.modDie 0 fun x => { x with rdc := sinsert (serase x.rdc n) n (l.refresh s1 (r.pa % 128) r.len) }
    | none => s1

/-- R72: RD. -/
def stackRd (s : State) (k : Nat) : State :=
  match headReq s k 0 with
  | none => s
  | some r =>
    let st := reqStatus s r
    if st ≠ 0 then refuseReq s k r st
    else if inAperture r.pa then
      let x := apertureServe s (apertureAt r.pa).1 (apertureAt r.pa).2 r.len
      answer x.1 k r (replyTo x.1 k r x.2.1 x.2.2.2 x.2.2.1)
    else
      let x := s.physRead r.key r.home r.pa r.len
      let s1 := refreshCopies s r
      answer s1 k r (replyTo s1 k r x.1 x.2.2 x.2.1)

/-- A write of enabled bytes as a request. -/
def performWrite (s : State) (k : Nat) (r : Req) (bs : List (Option Byte)) : State :=
  let st := reqStatus s r
  if st ≠ 0 then refuseReq s k r st
  else
    let w := physWrite s r.key r.home r.pa bs r.pois r.clock
    let s1 := refreshCopies w.2 r
    answer s1 k r (replyTo s1 k r w.1 0 [])

/-- R72: WR. -/
def stackWr (s : State) (k : Nat) : State :=
  match headReq s k 1 with
  | none => s
  | some r => performWrite s k r ((List.range r.len).map fun i => some ((r.data[i]?).getD 0))

/-- R72: WRM. -/
def stackWrm (s : State) (k : Nat) : State :=
  match headReq s k 2 with
  | none => s
  | some r => performWrite s k r (r.enables.zipIdx.map fun p => if p.1 then some ((r.data[p.2]?).getD 0) else none)

/-- R72: ZFILL. -/
def stackZfill (s : State) (k : Nat) : State :=
  match headReq s k 7 with
  | none => s
  | some r => performWrite s k r (List.replicate r.len (some 0))

/-- The new value of an element (R84). -/
def atomNew (flt : Bool) (afn old op cmp : Nat) : Nat :=
  match afn with
  | 0 => if flt then f32Add old op else (old + op) % 2 ^ 32
  | 1 => if flt then Fmt.f32.minMax false old op else if signedOf 32 op < signedOf 32 old then op else old
  | 2 => if flt then Fmt.f32.minMax true old op else if signedOf 32 old < signedOf 32 op then op else old
  | 3 => old &&& op
  | 4 => old ||| op
  | 5 => old ^^^ op
  | 6 => op
  | _ => if old = cmp then op else old

/-- Element i of a list of bytes. -/
def elem32 (bs : List Byte) (i : Nat) : Nat := natOfBytes ((bs.drop (4 * i)).take 4)

/-- An atomic's effect on its elements: enabled elements of granules that are not poisoned are replaced (R84, R99). -/
def atomBytes (s : State) (r : Req) (old : List Byte) : List (Option Byte) :=
  let cas := decide (r.afn = 7)
  (List.range (r.len / 4)).flatMap fun i =>
    let dead := s.poisonedAt r.home (r.pa + 4 * i)
    if (r.len = 32 && !(r.emask.getLsbD i)) || dead then List.replicate 4 none
    else
      let op := elem32 r.data (if cas then r.len / 4 + i else i)
      (bytesOf (BitVec.ofNat 32 (atomNew r.flt r.afn (elem32 old i) op (elem32 r.data i))) 4).map some

/-- The state after an atomic or reduction, the old bytes, the poison mask. -/
def performAtom (s : State) (r : Req) : State × List Byte × Nat :=
  let x := s.physRead r.key r.home r.pa r.len
  let bs := atomBytes s r x.2.1
  let s1 := if bs.any Option.isSome then (physWrite s r.key r.home r.pa bs false r.clock).2 else s
  (refreshCopies s1 r, x.2.1, x.2.2)

/-- R84: ATOM returns the old values. -/
def stackAtom (s : State) (k : Nat) : State :=
  match headReq s k 3 with
  | none => s
  | some r =>
    let st := reqStatus s r
    if st ≠ 0 then refuseReq s k r st
    else
      let x := performAtom s r
      answer x.1 k r (replyTo x.1 k r 0 x.2.2 x.2.1)

/-- R85: a RED is applied without return; once its granule is resolved it is counted for its batch, in rfail when its target is poisoned (R99). One refused with a
status is answered by a reply of its own, outside the batch, with rcount 1 (DESIGN CHOICE, log 65). -/
def stackRed (s : State) (k : Nat) : State :=
  match headReq s k 4 with
  | none => s
  | some r =>
    let st := reqStatus s r
    if st ≠ 0 then answer s k r { replyTo s k r st 0 [] with rcount := 1 }
    else
      let x := performAtom s r
      let done : RedDone :=
        { die := r.die, agent := r.agent, tag := r.tag, when_ := s.baseCycle, failed := decide (x.2.2 ≠ 0), flush := r.flush,
          home := k / 2 + 1, gen := r.gen, req := if unresolved s k r = 0 then none else some r.id }
      x.1.modStack k fun y => { y with accepted := y.accepted.drop 1, redPend := y.redPend ++ [done] }

/-- R72. -/
def execStackRd (s : State) : Host.Outcome State Fault Refusal := .next (stackRd s s.arg.a)
/-- R72. -/
def execStackWr (s : State) : Host.Outcome State Fault Refusal := .next (stackWr s s.arg.a)
/-- R72. -/
def execStackWrm (s : State) : Host.Outcome State Fault Refusal := .next (stackWrm s s.arg.a)
/-- R72. -/
def execStackZfill (s : State) : Host.Outcome State Fault Refusal := .next (stackZfill s s.arg.a)
/-- R84. -/
def execStackAtom (s : State) : Host.Outcome State Fault Refusal := .next (stackAtom s s.arg.a)
/-- R85. -/
def execStackRed (s : State) : Host.Outcome State Fault Refusal := .next (stackRed s s.arg.a)

/-! ### Batched acknowledgements (R85) -/

/-- REDs a batch acknowledges at most. -/
def redBatch : Nat := 32

/-- The REDs of core q that stack k has performed and not acknowledged. -/
def redsOf (s : State) (k q : Nat) : List RedDone := (s.stack k).redPend.filter fun r => r.die == 0 && r.agent == q && r.req.isNone

/-- The batch reply for the oldest unacknowledged REDs of core q, with the tag and generation of the youngest of them (R74). -/
def ackBatch (s : State) (k q : Nat) : State :=
  let b := (redsOf s k q).take redBatch
  match b.getLast? with
  | none => s
  | some last =>
    let reply : Reply :=
      { op := 4, status := 0, die := 0, agent := q, tag := last.tag, gen := last.gen, stack := k, rcount := b.length,
        rfail := (b.filter fun r => r.failed).length, pmask := 0, data := [], clock := [], home := k / 2 + 1,
        applied := (s.die (k / 2 + 1)).applied, pa := 0, fill := false }
    let s1 := s.modStack k fun x => { x with redPend := b.foldl (fun l r => l.erase r) x.redPend }
    { s1 with replies := s1.replies ++ [reply] }

/-- A batch is full or one of its REDs asked for the flush. -/
def batchDue (s : State) (k q : Nat) : Bool :=
  decide (redBatch ≤ (redsOf s k q).length) || (redsOf s k q).any fun r => r.flush

/-- 64 base-die cycles have passed since the RED performed longest ago was performed. -/
def ackDue (s : State) (k q : Nat) : Bool := (redsOf s k q).any fun r => decide (64 ≤ s.baseCycle - r.when_)

/-- R85. -/
def execRedBatchAck (s : State) : Host.Outcome State Fault Refusal :=
  .next (if batchDue s s.arg.a s.arg.b then ackBatch s s.arg.a s.arg.b else s)

/-- R85. -/
def execRedAckTimeout (s : State) : Host.Outcome State Fault Refusal :=
  .next (if ackDue s s.arg.a s.arg.b then ackBatch s s.arg.a s.arg.b else s)

/-! ### The reduction engine (R87 to R90) -/

def redSrc (b : BitVec 512) : Nat := nfield b 0 52
def redStride (b : BitVec 512) : Nat := nfield b 64 64
def redDst (b : BitVec 512) : Nat := nfield b 128 52
def redLength (b : BitVec 512) : Nat := nfield b 192 32
def redEtype (b : BitVec 512) : Nat := nfield b 224 8
def redCount (b : BitVec 512) : Nat := nfield b 232 8
def redSat (b : BitVec 512) : Bool := b.getLsbD 240
def redFlagged (b : BitVec 512) : Bool := b.getLsbD 241
def redFlag (b : BitVec 512) : Word := b.extractLsb' 256 64

/-- Every field of a parameter block is in its range, every reserved one zero, every range HBM, and the destination overlaps no
source but one it equals (R88). -/
def reduceOk (b : BitVec 512) : Bool :=
  let len := redLength b
  let flag := (redFlag b).toNat % 2 ^ 52
  decide (nfield b 59 5 = 0 ∧ nfield b 187 5 = 0 ∧ nfield b 315 5 = 0 ∧ nfield b 242 6 = 0 ∧ nfield b 248 8 = 0
      ∧ nfield b 384 128 = 0)
    && decide (redStride b % 64 = 0 ∧ len % 64 = 0 ∧ 64 ≤ len ∧ len ≤ 2 ^ 30 ∧ redEtype b ≤ 3 ∧ 2 ≤ redCount b ∧ redCount b ≤ 16)
    && decide (redDst b + len ≤ 2 ^ 40)
    && decide (flag % 8 = 0) && (!(redFlagged b) || decide (flag + 8 ≤ 2 ^ 40))
    && (List.range (redCount b)).all fun i =>
      let a := redSrc b + i * redStride b
      decide (a + len ≤ 2 ^ 40) && (decide (a = redDst b) || decide (a + len ≤ redDst b) || decide (redDst b + len ≤ a))

/-- The key slots a reduction uses are valid (R45). -/
def reduceKeys (s : State) (b : BitVec 512) : Bool :=
  (s.keyOf (nfield b 52 7)).isSome && (s.keyOf (nfield b 180 7)).isSome &&
    (!(redFlagged b) || (s.keyOf (nfield b 308 7)).isSome)

/-- The status of a parameter block, and the reduction it starts. -/
def acceptReduce (s : State) (k : Nat) (b : BitVec 512) : Nat × State :=
  if !(reduceOk b) then (6, s)
  else if !(reduceKeys s b) then (3, s)
  else (0, s.modStack k fun x => { x with reduce := x.reduce ++ [{ block := b, done := 0 }] })

/-- R88: a REDUCE among the accepted requests, or one that an agent outside the model sends with the event: its block in the
bytes, its generation in b, its die, agent and tag in c, d and e. -/
def stackReduce (s : State) (k : Nat) : State :=
  match headReq s k 5 with
  | some r =>
    let x := acceptReduce s k (bitsOfBytes 512 r.data)
    answer x.2 k r (replyTo x.2 k r x.1 0 [])
  | none =>
    if s.arg.bytes.length ≠ 64 then s
    else
      let x := acceptReduce s k (bitsOfBytes 512 s.arg.bytes)
      let reply : Reply :=
        { op := 5, status := x.1, die := s.arg.c, agent := s.arg.d, tag := s.arg.e, gen := s.arg.b % 16, stack := k, rcount := 0, rfail := 0,
          pmask := 0, data := [], clock := [], home := k / 2 + 1, applied := 0, pa := 0, fill := false }
      { x.2 with replies := x.2.replies ++ [reply] }

/-- R88. -/
def execStackReduce (s : State) : Host.Outcome State Fault Refusal := .next (stackReduce s s.arg.a)

/-- The element format of a reduction, none for i32. -/
def redFmt : Nat → Option Fmt
  | 0 => some .f32
  | 1 => some .bf16
  | 2 => some .f16
  | _ => none

/-- One element of a reduction (R89). -/
def reduceElem (etype : Nat) (sat : Bool) (vs : List Nat) : Nat :=
  match redFmt etype with
  | some f =>
    if etype = 0 then treeSum (fun _ a b => f32Add a b) 5 0 vs
    else
      let w := vs.map fun v => (Fmt.f32.ofVal .rne false (f.decode v) 0).1
      (f.ofVal .rne false (Fmt.f32.decode (treeSum (fun _ a b => f32Add a b) 5 0 w)) 0).1
  | none =>
    treeSum (fun _ a b =>
      let e := signedOf 32 a + signedOf 32 b
      codeOf 32 (if sat then clampInt (-(2 ^ 31)) (2 ^ 31 - 1) e else e)) 5 0 vs

/-- The sum of one run of bytes of every source. -/
def reduceBytes (etype : Nat) (sat : Bool) (srcs : List (List Byte)) (n : Nat) : List Byte :=
  let w := if etype = 1 ∨ etype = 2 then 2 else 4
  (List.range (n / w)).flatMap fun i =>
    bytesOf (BitVec.ofNat 32 (reduceElem etype sat (srcs.map fun bs => natOfBytes ((bs.drop (w * i)).take w)))) w

/-- The 64-byte pieces of a chunk, written one by one; a poisoned source granule poisons what it feeds. -/
def writePieces (s : State) (d key : Nat) : Nat → List (List Byte × Bool) → State
  | _, [] => s
  | a, p :: r => writePieces (engPhysWrite s d key a p.1 p.2).2 d key (a + 64) r

/-- R90: one chunk of the oldest reduction: every source is read before the chunk is written; after the last one the flag is
written with release. -/
def reduceChunk (s : State) (k : Nat) : State :=
  match (s.stack k).reduce with
  | [] => s
  | x :: rest =>
    let b := x.block
    let n := min 4096 (redLength b - x.done)
    let srcs := (List.range (redCount b)).map fun i => redSrc b + i * redStride b + x.done
    let key := nfield b 52 7
    let data := srcs.map fun a => (s.physRead key 0 a n).2.1
    let sum := reduceBytes (redEtype b) (redSat b) data n
    let pieces := (List.range (n / 64)).map fun i =>
      ((sum.drop (64 * i)).take 64, srcs.any fun a => s.anyPoison (a + 64 * i) 64)
    let s1 := writePieces s (k / 2 + 1) (nfield b 180 7) (redDst b + x.done) pieces
    if x.done + n < redLength b then
      s1.modStack k fun y => { y with reduce := { x with done := x.done + n } :: rest }
    else
      let s2 := s1.modStack k fun y => { y with reduce := rest }
      if redFlagged b then (writeFlag s2 (k / 2 + 1) (redFlag b) (b.extractLsb' 320 64)).2 else s2

/-- R90. -/
def execReduceChunk (s : State) : Host.Outcome State Fault Refusal := .next (reduceChunk s s.arg.a)

/-! ### Uncorrectable errors (R98, R100) -/

/-- R100: the granule at a stack-local address is poisoned, with a record when its 128-byte line held no poisoned granule; of far memory
(a physical address from 2^40 on) the error is found by the next fetch. The line's physical address is that under which its granule was
last written, or that of home mode 00 where nothing was. DEDUCED, log 69. -/
def eccError (s : State) (k addr : Nat) : State :=
  if 2 ^ 40 ≤ addr then { s with farBad := sset false s.farBad (addr % 2 ^ 52 / 64) true }
  else
    let g := (k * 2 ^ 36 + addr % 2 ^ 36) / 64
    let pa := match sget none s.keyTag g with
      | some t => 64 * t.2
      | none => 64 * g
    let line := g / 2 * 2
    let clean := !(sget false s.poison line) && !(sget false s.poison (line + 1))
    let s1 := { s with poison := sset false s.poison g true }
    if clean then writeStackLog s1 k 1 (pa / 128 * 128) (2 ^ (g % 2)) else s1

/-- R100. -/
def execEccError (s : State) : Host.Outcome State Fault Refusal := .next (eccError s s.arg.a s.arg.b)

end Sys2Proof.Machine
end

