-- ==== Sys2Proof/Machine/Copy.lean ====
section
/-! DEFINITION. The block-transfer engine: chunks, gathers, compressed sources, the replay queue and completion words
(R124, R278 to R280, R368 to R370, R470). -/

namespace Sys2Proof.Machine

/-! ### Decrements (R124) -/

/-- A stray decrement is counted. -/
def strayDecrement (s : State) : State := { s with stray := min (s.stray + 1) 0xFFFFFFFF }

/-- A dependence decrement of a slot: a waiting entry's count falls; a free slot may still be captured in this cycle, before its
decrements (R123); any other decrement is stray. -/
def depDecrement (s : State) (slot : Nat) : State :=
  let e := s.entry slot
  if e.st = .waiting ∧ 0 < e.count then s.modEntry slot fun e => { e with count := e.count - 1 }
  else if e.st = .free then { s with decs := s.decs ++ [slot] }
  else strayDecrement s

/-! ### Who issued a command -/

/-- The report of the first entry to park on an empty queue: a deferred trap of origin 2 at the issuing core while it still runs that
task, MSI-X vector 0 otherwise (R280). -/
def parkReport (s : State) (quad ident cause chan : Nat) (ce gstep : Bool) (tval : Word) : State :=
  let c := s.core quad
  if c.task.isSome && c.ident == ident && c.run != .halted && c.run != .ended then
    let t : Trap :=
      { cause := cause, slot := 7, origin := 2, cell := 0, chan := chan, ce := ce, gstep := gstep, tval := tval, tpc := 0,
        seen := s.pcc }
    s.modCore quad fun c => { c with deferred := c.deferred ++ [t] }
  else s.irq 0

/-! ### Channels -/

/-- Entries a replay queue holds (R278). -/
def parkRoom : Nat := 64

/-- Commands a channel's queue holds (R368). -/
def channelRoom : Nat := 32

def State.channel (s : State) (d ch : Nat) : Channel := sget Channel.empty (s.die d).channels ch
def State.setChannel (s : State) (d ch : Nat) (c : Channel) : State :=
  s.modDie d fun x => { x with channels := sset Channel.empty x.channels ch c }

/-- A captured command joins its channel's queue (R368). -/
def captureGo (s : State) (d ch quad asid : Nat) (data : Word) (image : BitVec 512) : State :=
  let c := s.channel d ch
  let a := goAddrs image data
  let cmd : BteCmd :=
    { id := c.nextId, tmpl := image, src := a.1, dst := a.2.1, idx := a.2.2, quad := quad, asid := asid,
      task := (s.core quad).ident, row := 0, off := 0, idxRow := none, walked := false, open_ := 0, dropped := false,
      ready := s.pcc + 24 }
  s.setChannel d ch { c with queue := c.queue ++ [cmd], nextId := c.nextId + 1 }

/-- A command of a channel by its number, wherever it stands. -/
def Channel.find (c : Channel) (id : Nat) : Option BteCmd := (c.queue ++ c.done).find? fun k => k.id == id

/-- A change of one command of a channel. -/
def Channel.mod (c : Channel) (id : Nat) (f : BteCmd → BteCmd) : Channel :=
  { c with
    queue := c.queue.map fun k => if k.id = id then f k else k
    done := c.done.map fun k => if k.id = id then f k else k }

/-! ### Chunks (R278, R369) -/

/-- The source address of a row: by its number, or by its index in a gather. -/
def BteCmd.rowSrc (k : BteCmd) : Int := k.src + (match k.idxRow with | some i => i | none => k.row) * tmplSstride k.tmpl
def BteCmd.rowDst (k : BteCmd) (row : Nat) : Int := k.dst + row * tmplDstride k.tmpl

/-- The next chunk of a command: up to 4 KiB, crossing no 4 KiB boundary of source or destination. -/
def BteCmd.chunk (k : BteCmd) : Chunk :=
  let sp := tmplSpace (tmplSrc k.tmpl)
  let wrap (v : Int) (space : Nat) : Nat := if space = 1 then (v % 2 ^ 22).toNat else (v % 2 ^ 48).toNat
  let src := wrap (k.rowSrc + k.off) sp
  let dst := wrap (k.rowDst k.row + k.off) (tmplSpace (tmplDst k.tmpl))
  { cmd := k.id, srcSpace := sp, src := src,
    srcCell := if sp = 1 then nfield (tmplSrc k.tmpl) 58 2 else 0,
    dstSpace := tmplSpace (tmplDst k.tmpl), dst := dst, dstCell := nfield (tmplDst k.tmpl) 58 2,
    len := min (tmplRowlen k.tmpl - k.off) (min (4096 - src % 4096) (4096 - dst % 4096)),
    quad := k.quad, asid := k.asid, policy := tmplPolicy k.tmpl }

/-- The fault of a failing kind at an address. -/
def chunkFault (va kind status : Nat) : ChunkFault := { cause := kindCause kind, tval := kindTval va kind status, gstep := false }

/-- The poison of len bytes from an address, byte by byte, from a mask of its granules. -/
def poisonBytes (a len pmask : Nat) : List Bool := (List.range len).map fun i => decide (pmask / 2 ^ ((a % 64 + i) / 64) % 2 = 1)

/-- Bytes of a compressed surface (R93, R369): slot in bits 57 to 48 of the address. -/
def surfaceRead (s : State) (d slot off len : Nat) : State × Except Nat (List Byte × List Bool) :=
  let r := s.surfaceRecord slot
  if r.1 ≠ 0 then (s, .error r.1)
  else if nfield r.2 128 32 * 4096 < off + len then (s, .error 4)
  else
    let b := s.surfaceBlock r.2 (off / 4096)
    let s1 := acquireAt s d (s.homeClock (homeDie 0 (nfield r.2 64 52 + 8 * (off / 4096))))
    if b.1 ≠ 0 ∧ b.1 ≠ 5 then (s1, .error b.1)
    else (s1, .ok ((b.2.1.drop (off % 4096)).take len, poisonBytes off len (b.2.2 / 2 ^ (off % 4096 / 64))))

/-- The source bytes of a chunk with their poison. -/
def chunkRead (s : State) (d slot : Nat) (c : Chunk) : State × Except ChunkFault (List Byte × List Bool) :=
  if c.srcSpace = 1 then
    let x := s.cell c.quad c.srcCell
    (s, .ok (x.spmBytes c.src c.len, (List.range c.len).map fun i => sget false x.spmPois ((c.src + i) / 64)))
  else if c.srcSpace = 2 then
    if engineLate s d then
      (engineTimeout s d { pa := 2 ^ 51 + slot * 2 ^ 36 + c.src % 2 ^ 36, key := 0, home := 0, soft := false },
        .ok (List.replicate c.len 0, List.replicate c.len true))
    else
    match surfaceRead s d slot c.src c.len with
    | (t, .error st) => (t, .error (chunkFault c.src 7 st))
    | (t, .ok r) => (t, .ok r)
  else
    match engRead s d c.policy c.asid c.src c.len with
    | (t, .error e) => (t, .error (chunkFault c.src e.1 e.2))
    | (t, .ok r) => (t, .ok (r.1, poisonBytes c.src c.len r.2))

/-- Runs of bytes of equal poison, cut at the granules of the destination. -/
def pieces (a : Nat) (bs : List Byte) (po : List Bool) : List (Nat × List Byte × Bool) :=
  let n := bs.length
  (List.range ((a % 64 + n + 63) / 64)).map fun g =>
    let lo := if g = 0 then 0 else 64 * g - a % 64
    let hi := min n (64 * g + 64 - a % 64)
    (a + lo, (bs.drop lo).take (hi - lo), ((po.drop lo).take (hi - lo)).any id)

/-- Pieces written one by one through the die's caches; the first fault ends them. -/
def writeMarked (s : State) (d pol asid : Nat) : List (Nat × List Byte × Bool) → State × Except (Nat × Nat × Nat) Unit
  | [] => (s, .ok ())
  | p :: r =>
    match engWrite s d pol asid p.1 p.2.1 p.2.2 with
    | (t, .error e) => (t, .error (p.1, e.1, e.2))
    | (t, .ok ()) => writeMarked t d pol asid r

/-- The bytes of a chunk reach their destination. -/
def chunkWrite (s : State) (d : Nat) (c : Chunk) (bs : List Byte) (po : List Bool) : State × Except ChunkFault Unit :=
  let ps := if po.any id then pieces c.dst bs po else [(c.dst, bs, false)]
  if c.dstSpace = 1 then
    (s.modCell c.quad c.dstCell fun x => ps.foldl (fun x p => (x.putSpm p.1 p.2.1).markSpm p.1 p.2.1.length fun _ => p.2.2) x, .ok ())
  else
    match writeMarked s d c.policy c.asid ps with
    | (t, .error e) => (t, .error (chunkFault e.1 e.2.1 e.2.2))
    | (t, .ok ()) => (t, .ok ())

/-- A chunk is performed, or faults with what it had written. -/
def performChunk (s : State) (d slot : Nat) (c : Chunk) : State × Except ChunkFault Unit :=
  match chunkRead s d slot c with
  | (t, .error e) => (t, .error e)
  | (t, .ok r) => chunkWrite t d c r.1 r.2

/-- Two runs of bytes meet. -/
def runsMeet (a la b lb : Nat) : Bool := decide (a < b + lb ∧ b < a + la)

/-- A place of a chunk: space 0 and address space, 1 with quad and cell, 2 surfaces; address, length. -/
structure Run where
  space : Nat
  unit : Nat
  at_ : Nat
  len : Nat
  deriving DecidableEq, Repr

def Run.meets (a b : Run) : Bool := a.space == b.space && a.unit == b.unit && runsMeet a.at_ a.len b.at_ b.len

def Chunk.srcRun (c : Chunk) : Run :=
  { space := c.srcSpace, unit := if c.srcSpace = 1 then 4 * c.quad + c.srcCell else if c.srcSpace = 0 then c.asid else 0,
    at_ := c.src, len := c.len }
def Chunk.dstRun (c : Chunk) : Run :=
  { space := c.dstSpace, unit := if c.dstSpace = 1 then 4 * c.quad + c.dstCell else c.asid, at_ := c.dst, len := c.len }

/-- The word a completion writes, as a run. -/
def WordRef.run (w : WordRef) : Run :=
  if specLocal w.spec then { space := 1, unit := 4 * w.quad + nfield w.spec 58 2, at_ := nfield w.spec 0 22, len := 8 }
  else { space := 0, unit := w.asid, at_ := nfield w.spec 0 48, len := 8 }

/-- The index word of a row of a gather. -/
def BteCmd.indexRun (k : BteCmd) (row : Nat) : Run := { space := 0, unit := k.asid, at_ := (k.idx + 4 * row).toNat, len := 4 }

/-- What a parked entry will read and write, as far as it is known: an index fetch leaves open what its row reads. -/
def Parked.runs (c : Channel) (p : Parked) : Option Run × Option Run :=
  match p with
  | .chunk k => (some k.srcRun, some k.dstRun)
  | .index id row =>
    match c.find id with
    | some k =>
      (some (k.indexRun row),
       some { space := tmplSpace (tmplDst k.tmpl),
              unit := if tmplSpace (tmplDst k.tmpl) = 1 then 4 * k.quad + nfield (tmplDst k.tmpl) 58 2 else k.asid,
              at_ := (k.rowDst row).toNat, len := tmplRowlen k.tmpl })
    | none => (none, none)
  | .word w _ _ => (none, some w.run)

/-- What reads one run and writes another must wait behind what is parked: it reads what a parked entry writes, or writes what one
reads or writes (R279). -/
def Channel.blocks (c : Channel) (src : Run) (dst : Option Run) : Bool :=
  c.parked.any fun p =>
    let r := p.runs c
    (r.2.any fun d => src.meets d || dst.any fun w => w.meets d) || (r.1.any fun x => dst.any fun w => w.meets x)

/-- A chunk must wait behind what is parked. -/
def mustPark (c : Channel) (k : Chunk) : Bool := c.blocks k.srcRun (some k.dstRun)

/-- What is reported of an entry that parks on an empty queue without a fault of its own, as one does that waited for room behind an
overlap: PAGE or PROT, and a value, that the spec does not state (R279, R280; DESIGN CHOICE, log 36). -/
def plainFault (s : State) : Nat × Word :=
  let w := Config.freeWord s.fresh
  (if w.getLsbD 63 then 5 else 4, w)

/-- An entry parks; the first on an empty queue is reported (R280). -/
def parkEntry (s : State) (d ch : Nat) (k : BteCmd) (p : Parked) (f : Option ChunkFault) : State :=
  let c := s.channel d ch
  let s1 := s.setChannel d ch ({ c with parked := c.parked ++ [p] }.mod k.id fun k => { k with open_ := k.open_ + 1 })
  if !c.parked.isEmpty then s1
  else
    match f with
    | some e => parkReport s1 k.quad k.task e.cause ch false e.gstep e.tval
    | none => parkReport { s1 with fresh := s1.fresh + 1 } k.quad k.task (plainFault s).1 ch false false (plainFault s).2

/-- The command at the head after one chunk of n bytes: the next bytes, the next row, or the end of its walk. -/
def BteCmd.advance (k : BteCmd) (n : Nat) : BteCmd :=
  if k.off + n < tmplRowlen k.tmpl then { k with off := k.off + n }
  else { k with row := k.row + 1, off := 0, idxRow := none, walked := decide (tmplRows k.tmpl ≤ k.row + 1) }

/-- The head of a channel moves on; a command whose walk ends waits for its completion. -/
def stepHead (s : State) (d ch : Nat) (id : Nat) (f : BteCmd → BteCmd) : State :=
  let c := s.channel d ch
  let c1 := c.mod id f
  match c1.queue with
  | k :: rest => if k.walked then s.setChannel d ch { c1 with queue := rest, done := c1.done ++ [k] } else s.setChannel d ch c1
  | [] => s.setChannel d ch c1

/-- The index of a row of a gather: its signed value, or the fault of the fetch (R369). -/
def fetchIndex (s : State) (d : Nat) (k : BteCmd) (row : Nat) : State × Except ChunkFault Int :=
  let va := (k.idx + 4 * row).toNat
  match engRead s d (tmplPolicy k.tmpl) k.asid va 4 with
  | (t, .error e) => (t, .error { chunkFault va e.1 e.2 with gstep := true })
  | (t, .ok r) =>
    if r.2 ≠ 0 then (t, .error { cause := 12, tval := poisonTval va (timedOut r.2), gstep := true })
    else (t, .ok (signedOf 32 (natOfBytes r.1)))

/-- Surface slot of a command's source. -/
def BteCmd.slot (k : BteCmd) : Nat := nfield (tmplSrc k.tmpl) 48 10

/-- What the head of a channel would do next. -/
inductive ChunkTurn where
  | none
  | act (t : State)
  | park (t : State) (p : Parked) (f : Option ChunkFault) (skip : BteCmd → BteCmd)

/-- The turn of a channel: its head fetches an index or performs a chunk, or that parks. -/
def chunkTurn (s : State) (d ch : Nat) : ChunkTurn :=
  let c := s.channel d ch
  match c.queue with
  | [] => .none
  | k :: _ =>
    if tmplSpace (tmplSrc k.tmpl) = 1 ∧ s.pcc < k.ready then .none
    else if c.held.isSome then .none
    else if tmplKind k.tmpl = 1 ∧ k.idxRow = Option.none then
      if c.blocks (k.indexRun k.row) Option.none then
        .park s (.index k.id k.row) Option.none fun k => k.advance (tmplRowlen k.tmpl)
      else
      match fetchIndex s d k k.row with
      | (t, .ok i) => .act (stepHead t d ch k.id fun k => { k with idxRow := some i })
      | (t, .error e) => .park t (.index k.id k.row) (some e) fun k => k.advance (tmplRowlen k.tmpl)
    else
      let x := k.chunk
      if mustPark c x then .park s (.chunk x) Option.none fun k => k.advance x.len
      else
        match performChunk s d k.slot x with
        | (t, .ok ()) => .act (stepHead t d ch k.id fun k => k.advance x.len)
        | (t, .error e) => .park t (.chunk x) (some e) fun k => k.advance x.len

/-- A channel has a chunk to start. -/
def chunkDue (s : State) (d ch : Nat) : Bool :=
  match chunkTurn s d ch with
  | .none => false
  | .act _ | .park _ _ _ _ => true

/-- An entry parks; with a full queue it waits for room instead, and no later chunk of the channel starts (R279). -/
def parkOrHold (s : State) (d ch : Nat) (k : BteCmd) (p : Parked) (f : Option ChunkFault) : State × Bool :=
  let c := s.channel d ch
  if c.parked.length < parkRoom then (parkEntry s d ch k p f, true) else (s.setChannel d ch { c with held := some (p, f) }, false)

/-- R278, R279: one chunk, or one index fetch, of the command at the head of a channel. -/
def bteChunk (s : State) (d ch : Nat) : State :=
  match chunkTurn s d ch, (s.channel d ch).queue with
  | .act t, _ => t
  | .park t p f skip, k :: _ =>
    let r := parkOrHold t d ch k p f
    if r.2 then stepHead r.1 d ch k.id skip else r.1
  | _, _ => s

/-- R278. -/
def execBteChunk (s : State) : Host.Outcome State Fault Refusal := .next (bteChunk s s.arg.a s.arg.b)

/-! ### Completion (R128, R370, R470) -/

/-- The completion word of a command. -/
def BteCmd.word (k : BteCmd) : WordRef := { spec := tmplWord k.tmpl, val := tmplValue k.tmpl, quad := k.quad, asid := k.asid }

/-- The slot a command decrements. -/
def BteCmd.decrements (k : BteCmd) : Option Nat := if tmplSlotValid k.tmpl then some (tmplSlot k.tmpl) else none

/-- The fault of a word that could not be written (R470). -/
def wordFault (w : WordRef) (e : Nat × Nat) : ChunkFault := chunkFault (nfield w.spec 0 48) e.1 e.2

/-- The command of a channel that ends next, in queue order: a discarded one of which chunks are still parked holds back none (R370). -/
def Channel.ends (c : Channel) : Option BteCmd := c.done.find? fun k => !(k.dropped && k.open_ != 0)

/-- The word of a command waits for room in the replay queue. -/
def Channel.heldWord (c : Channel) (id : Nat) : Bool :=
  match c.held with
  | some (.word _ n _, _) => n == id
  | _ => false

/-- A command whose walk has ended can end when nothing of it is parked. -/
def completeDue (s : State) (d ch : Nat) : Bool :=
  let c := s.channel d ch
  match c.ends with
  | none => false
  | some k =>
    if k.open_ ≠ 0 ∨ c.heldWord k.id then false
    else if k.dropped then true
    else
      match writeWord s d k.word with
      | (_, .ok ()) => true
      | (_, .error _) => decide (c.parked.length < parkRoom) || c.held.isNone

/-- A command leaves its channel. -/
def Channel.drop (c : Channel) (id : Nat) : Channel := { c with done := c.done.filter fun y => y.id != id }

/-- R370: the completion word and the slot decrement of the oldest command, in queue order; a discarded command writes neither. -/
def bteComplete (s : State) (d ch : Nat) : State :=
  if !(completeDue s d ch) then s
  else
    match (s.channel d ch).ends with
    | none => s
    | some k =>
      if k.dropped then s.setChannel d ch ((s.channel d ch).drop k.id)
      else
        match writeWord s d k.word with
        | (t, .ok ()) =>
          let t1 := t.setChannel d ch ((t.channel d ch).drop k.id)
          match k.decrements with
          | some n => depDecrement t1 n
          | none => t1
        | (t, .error e) => (parkOrHold t d ch k (.word k.word k.id k.decrements) (some (wordFault k.word e))).1

/-- R370. -/
def execBteCommandComplete (s : State) : Host.Outcome State Fault Refusal := .next (bteComplete s s.arg.a s.arg.b)

/-! ### Replay (R280, R470) -/

/-- A released entry is no longer parked: its command has one parked entry less. -/
def unpark (c : Channel) (id : Nat) : Channel := c.mod id fun k => { k with open_ := k.open_ - 1 }

/-- The chunks of a row whose index a released fetch has found, each performed or parked; with no room for another entry the
rest of the row waits as its fetch. -/
def rowChunks (s : State) (d ch room : Nat) : Nat → BteCmd → State
  | 0, _ => s
  | n + 1, k =>
    let x := k.chunk
    let next := k.advance x.len
    let go (t : State) : State := if next.row = k.row then rowChunks t d ch room n next else t
    let park (t : State) (f : Option ChunkFault) : State :=
      if (t.channel d ch).parked.length + 1 < room then go (parkEntry t d ch k (.chunk x) f)
      else parkEntry t d ch k (.index k.id k.row) f
    if mustPark (s.channel d ch) x then park s none
    else
      match performChunk s d k.slot x with
      | (t, .ok ()) => go t
      | (t, .error e) => park t (some e)

/-- One entry of a channel's replay queue is tried again. -/
def retry (s : State) (d ch room : Nat) (p : Parked) : State :=
  let c := s.channel d ch
  match p with
  | .chunk x =>
    match c.find x.cmd with
    | none => s
    | some k =>
      let s1 := s.setChannel d ch (unpark c k.id)
      if mustPark c x then parkEntry s1 d ch k (.chunk x) none
      else
        match performChunk s1 d k.slot x with
        | (t, .ok ()) => t
        | (t, .error e) => parkEntry t d ch k (.chunk x) (some e)
  | .index id row =>
    match c.find id with
    | none => s
    | some k =>
      let s1 := s.setChannel d ch (unpark c id)
      if c.blocks (k.indexRun row) none then parkEntry s1 d ch k (.index id row) none
      else
      match fetchIndex s1 d k row with
      | (t, .ok i) => rowChunks t d ch room (2 * (tmplRowlen k.tmpl / 4096) + 4) { k with row := row, off := 0, idxRow := some i }
      | (t, .error e) => parkEntry t d ch k (.index id row) (some e)
  | .word w id slot =>
    match c.find id with
    | none => s
    | some k =>
      let s1 := s.setChannel d ch (unpark c id)
      match writeWord s1 d w with
      | (t, .ok ()) =>
        let t1 := t.setChannel d ch ((t.channel d ch).drop id)
        match slot with
        | some n => depDecrement t1 n
        | none => t1
      | (t, .error e) => parkEntry t d ch k p (some (wordFault w e))

/-- Released entries are tried in park order; those not yet tried keep their places. -/
def retryAll (s : State) (d ch : Nat) : List Parked → State
  | [] => s
  | p :: r => retryAll (retry s d ch (parkRoom - r.length) p) d ch r

/-- What waited for room parks once there is some (R279). -/
def refillChannel (s : State) (d ch : Nat) : State :=
  let c := s.channel d ch
  let c0 := { c with held := none }
  match c.held with
  | none => s
  | some (p, f) =>
    if parkRoom ≤ c.parked.length then s
    else
      let id := match p with
        | .chunk x => x.cmd
        | .index n _ => n
        | .word _ n _ => n
      match c.find id with
      | none => s.setChannel d ch c0
      | some k =>
        let s1 := s.setChannel d ch c0
        let t := parkEntry s1 d ch k p f
        match p with
        | .chunk x => stepHead t d ch id fun k => k.advance x.len
        | .index _ _ => stepHead t d ch id fun k => k.advance (tmplRowlen k.tmpl)
        | .word _ _ _ => t

/-- R280: every parked entry of a channel is tried again, in park order; what waited for room then parks. -/
def releaseChannel (s : State) (d ch : Nat) : State :=
  refillChannel (retryAll (s.setChannel d ch { s.channel d ch with parked := [] }) d ch (s.channel d ch).parked) d ch

/-- The command a parked entry belongs to. -/
def Parked.command : Parked → Nat
  | .chunk x => x.cmd
  | .index id _ => id
  | .word _ id _ => id

/-- R280: every parked entry of a channel is dropped; their commands write no word and apply no decrement. -/
def discardChannel (s : State) (d ch : Nat) : State :=
  let c := s.channel d ch
  refillChannel (s.setChannel d ch
    (c.parked.foldl (fun x p => x.mod p.command fun k => { k with dropped := true, open_ := 0 }) { c with parked := [] })) d ch

end Sys2Proof.Machine
end

