-- ==== Sys2Proof/Machine/Link.lean ====
section
/-! DEFINITION. Viaduct links: flits, link-level retry, ports that go down, and the messages of the collective engines that cross
them (R31 to R35, R38, R247). -/

namespace Sys2Proof.Machine

/-- The step that another one brings about next. -/
def thenStep (s : State) (i : Instr) (x : EvArg) : State := { s with inputs := (i, x) :: s.inputs }

/-! ### Flits (R31) -/

/-- CRC-32C of a list of bytes (PRESUMED, log 10). -/
def crc32c (bs : List Byte) : BitVec 32 :=
  ~~~(bs.foldl (fun v b =>
    (List.range 8).foldl (fun (w : BitVec 32) _ => if w.getLsbD 0 then (w >>> 1) ^^^ 0x82F63B78#32 else w >>> 1)
      (v ^^^ b.setWidth 32)) (BitVec.allOnes 32))

def flitSeq (f : BitVec 1024) : Nat := nfield f 0 12
def flitType (f : BitVec 1024) : Nat := nfield f 12 4
def flitAck (f : BitVec 1024) : Nat := nfield f 16 12
def flitPayload (f : BitVec 1024) : BitVec 960 := f.extractLsb' 32 960

/-- The CRC of a flit covers its first 124 bytes. -/
def flitCrc (f : BitVec 1024) : BitVec 32 := crc32c (bytesOf f 124)
def flitGood (f : BitVec 1024) : Bool := f.extractLsb' 992 32 == flitCrc f

/-- A flit with its number, its acknowledgement and its CRC. -/
def sealFlit (f : BitVec 1024) (seq ack : Nat) : BitVec 1024 :=
  let head : BitVec 992 :=
    f.extractLsb' 28 964 ++ BitVec.ofNat 12 ack ++ f.extractLsb' 12 4 ++ BitVec.ofNat 12 seq
  crc32c (bytesOf head 124) ++ head

/-- A flit of a type with a payload, before it has a number. The spec assigns no virtual channel: it travels on channel 0.
DESIGN CHOICE, log 64. -/
def rawFlit (type : Nat) (payload : BitVec 960) : BitVec 1024 :=
  (0 : BitVec 32) ++ payload ++ (0 : BitVec 16) ++ BitVec.ofNat 4 type ++ (0 : BitVec 12)

/-! ### Ports (R32, R33) -/

/-- Flits the replay buffer holds (R32). -/
def replayRoom : Nat := 512

/-- The last number received in order. -/
def VPort.lastRx (v : VPort) : Nat := (v.rxNext + 4095) % 4096

/-- A port of this package. -/
def State.port (s : State) (p : Nat) : VPort := sget VPort.trained s.ports p
def State.modPort (s : State) (p : Nat) (f : VPort → VPort) : State :=
  { s with ports := sset VPort.trained s.ports p (f (s.port p)) }

/-- Flits that leave port p, counted as event 0x020. -/
def emitFlits (s : State) (p : Nat) (fs : List (BitVec 1024)) : State :=
  countDie { s with hostOut := s.hostOut ++ fs.map fun f => .flit p f } 0 0x020 fs.length

/-- A port that is up sends what waits, as far as its replay buffer has room. -/
def portPump (s : State) (p : Nat) : State :=
  let v := s.port p
  if !v.up then s
  else
    let n := min v.queue.length (replayRoom - v.replay.length)
    let out := (v.queue.take n).zipIdx.map fun x => sealFlit x.1 ((v.txSeq + x.2) % 4096) v.lastRx
    emitFlits (s.modPort p fun v =>
      { v with queue := v.queue.drop n, replay := v.replay ++ out, replays := v.replays ++ out.map fun _ => 0, txSeq := (v.txSeq + n) % 4096 })
      p out

/-- A flit is given to a port, where it waits while the port is down (R33). -/
def sendFlit (s : State) (p : Nat) (f : BitVec 1024) : State :=
  portPump (s.modPort p fun v => { v with queue := v.queue ++ [f] }) p

/-- A nak goes out at once with the last in-order number; flits of types 1 to 3 take no number and stand in no replay buffer (R32).
DEDUCED, log 50. The spec gives ack, idle and time flits no occasion: the model sends none (DESIGN CHOICE, log 64). -/
def sendNak (s : State) (p : Nat) : State := emitFlits s p [sealFlit (rawFlit 2 0) (s.port p).txSeq (s.port p).lastRx]

/-- Flits up to number a are acknowledged. -/
def VPort.acknowledge (v : VPort) (a : Nat) : VPort :=
  match v.replay.findIdx? fun f => flitSeq f == a with
  | some i => { v with replay := v.replay.drop (i + 1), replays := v.replays.drop (i + 1), acked := a }
  | none => v

/-! ### Messages that leave the package (R35, R38, R247) -/

/-- A package number names this package. -/
def ownPackage (s : State) (p : Nat) : Bool := p == 0xFFFF || p == s.pkgUsed.toNat

/-- A die for messages: its number here, 16 × (package + 1) + die elsewhere. -/
def dieOf (s : State) (pkg die : Nat) : Nat := if ownPackage s pkg then die else 16 * (pkg + 1) + die

/-- Package and die of a die number of another package. -/
def farDie (die : Nat) : Option (Nat × Nat) := if die < 16 then none else some (die / 16 - 1, die % 16)

/-- Package and die of the other package a message goes to. A block goes to the router of its coding point's control die.
DESIGN CHOICE, log 60. -/
def Msg.away (s : State) : Msg → Option (Nat × Nat)
  | .transfer x => if ownPackage s x.toPkg then none else some (x.toPkg, x.toDie)
  | .block x => if ownPackage s x.point then none else some (x.point, 0)
  | .packet d _ => farDie d
  | .ack d _ _ _ _ _ => farDie d
  | .ackBlock d _ _ _ _ => farDie d
  | .fallback d _ _ _ => farDie d

/-- The viaduct port of the control die's route to a die of another package; port p stands as 16 + p in a route. Routes of the other
dies pass the control die, which carries every viaduct port (R30). -/
def viaPort (s : State) (t : Nat × Nat) : Option Nat :=
  match s.routes.find? fun r => r.1 == 0 && r.2.1 == t.1 && r.2.2.1 == t.2 with
  | some r => (match r.2.2.2 with
    | p :: _ => if 16 ≤ p then some (p - 16) else none
    | [] => none)
  | none => none

/-- The traffic to a die leaves by a viaduct port that is down (R33). -/
def behindDown (s : State) (die : Nat) : Bool :=
  match (farDie die).bind (viaPort s) with
  | some p => !(s.port p).up
  | none => false

/-- A message on its way: inside the package it is brought as it is; to another package it goes as data flits on the port of its
route, and it waits here while an exploration runs or no route is known (R37). -/
def post (s : State) (m : Msg) : State :=
  let wait := { s with msgs := s.msgs ++ [m] }
  match m.away s with
  | none => wait
  | some t =>
    if s.explRunning then wait
    else
      match viaPort s t with
      | none => wait
      | some p => (Config.messagePayloads m).foldl (fun u w => sendFlit u p (rawFlit 0 w)) s

/-- Messages in order. -/
def postAll (s : State) (ms : List Msg) : State := ms.foldl post s

/-- Messages that waited for a route go on their way (R37). -/
def repost (s : State) : State :=
  let out := s.msgs.filter fun m => (m.away s).isSome
  postAll { s with msgs := s.msgs.filter fun m => (m.away s).isNone } out

/-- A data flit of a message still stands at the port of its route. -/
def stillHeld (s : State) (m : Msg) : Bool :=
  match (m.away s).bind (viaPort s) with
  | none => true
  | some p => (Config.messagePayloads m).any fun w => ((s.port p).replay ++ (s.port p).queue).any fun f => flitType f == 0 && flitPayload f == w

/-- A message that came in on port p: for this package, or on its way through it. -/
def arriveMsg (s : State) (p : Nat) (m : Msg) : State :=
  post s (match m with
    | .transfer x => .transfer { x with port := p }
    | m => m)

/-! ### Reception (R31, R32) -/

/-- What a flit that came in order on port p does: data flits make messages, EXPLORE flits go to the router, time flits to the clock;
a reserved type is dropped with event 0x024. -/
def flitContent (s : State) (p : Nat) (f : BitVec 1024) : State :=
  match flitType f with
  | 0 =>
    let got := (s.port p).rxData ++ [flitPayload f]
    match Config.payloadMessage got with
    | none => s.modPort p fun v => { v with rxData := got }
    | some m => arriveMsg (s.modPort p fun v => { v with rxData := [] }) p m
  | 4 => { s with explFlits := s.explFlits ++ [(0, 16 + p, f)] }
  | 5 => thenStep s .timeFlitReceive { EvArg.none with a := p, b := (Config.timeOfFlit (flitPayload f)).1, c := (Config.timeOfFlit (flitPayload f)).2 }
  | _ => countDie s 0 0x024 1

/-- R31, R32: a flit arrives at viaduct port p. One with a bad CRC, or out of order, is dropped and answered by a nak; those of types
1 to 3 carry no number and only what they acknowledge. DEDUCED, log 50. -/
def flitReceive (s : State) (p : Nat) (f : BitVec 1024) : State :=
  let v := s.port p
  if !v.up then s
  else if !(flitGood f) then sendNak s p
  else
    let s1 := countDie s 0 0x021 1
    if 1 ≤ flitType f ∧ flitType f ≤ 3 then
      let s2 := portPump (s1.modPort p fun v => v.acknowledge (flitAck f)) p
      if flitType f = 2 then thenStep s2 .nakReceive { EvArg.none with a := p, b := flitAck f } else s2
    else if flitSeq f ≠ v.rxNext then sendNak s1 p
    else flitContent (portPump (s1.modPort p fun v => { v.acknowledge (flitAck f) with rxNext := (v.rxNext + 1) % 4096 }) p) p f

/-- R32. -/
def execFlitReceive (s : State) : Host.Outcome State Fault Refusal := .next (flitReceive s s.arg.a s.arg.wide)

/-- Replays of one flit after which its port retrains (R33). -/
def replayLimit : Nat := 16

/-- A flit of the port has been replayed as often as the limit. -/
def VPort.mustRetrain (v : VPort) : Bool := v.up && v.replays.any fun n => decide (replayLimit ≤ n)

/-- R32, R33: every flit after number a is replayed, event 0x022 each; a port that is to retrain replays none. -/
def nakReceive (s : State) (p a : Nat) : State :=
  let s1 := s.modPort p fun v => v.acknowledge a
  let v := s1.port p
  if !v.up || v.replay.isEmpty || v.mustRetrain then s1
  else
    let out := v.replay.map fun f => sealFlit f (flitSeq f) v.lastRx
    countDie (emitFlits (s1.modPort p fun v => { v with replay := out, replays := v.replays.map (· + 1) }) p out) 0 0x022 out.length

/-- R32. -/
def execNakReceive (s : State) : Host.Outcome State Fault Refusal := .next (nakReceive s s.arg.a s.arg.b)

/-- R33: a port of which a flit has been replayed 16 times retrains; b tells whether that succeeds; the numbers and the flits not
acknowledged stay as they are then (DESIGN CHOICE, log 64). A port that fails goes down, event 0x023, MSI-X vector 0. -/
def portRetrain (s0 : State) (p ok : Nat) : State :=
  if !(s0.port p).mustRetrain then s0
  else
    let s := { s0 with fresh := s0.fresh + 1 }
    if ok ≠ 0 then portPump (s.modPort p fun v => { v with replays := v.replays.map fun _ => 0 }) p
    else (countDie (s.modPort p fun v => { v with up := false }) 0 0x023 1).irq 0

/-- R33. -/
def execPortRetrain (s : State) : Host.Outcome State Fault Refusal := .next (portRetrain s s.arg.a s.arg.b)

end Sys2Proof.Machine
end

