-- ==== Sys2Proof/Machine/Collective.lean ====
section
/-! DEFINITION. The collective engines: records, transfers and how they combine, completion words, coded shuffles with their
router and side information, and the replay queue of a CE (R127, R247 to R264, R269, R278, R280, R470). -/

namespace Sys2Proof.Machine

/-! ### Fields of a record (R248) -/

def recKind (b : BitVec 1536) : Nat := nfield b 0 8
def recEtype (b : BitVec 1536) : Nat := nfield b 8 8
def recNlev (b : BitVec 1536) : Nat := nfield b 16 8
def recFlags (b : BitVec 1536) : Nat := nfield b 24 8
def recTagged (b : BitVec 1536) : Bool := b.getLsbD 24
def recFinal (b : BitVec 1536) : Bool := b.getLsbD 25
def recPlain (b : BitVec 1536) : Bool := b.getLsbD 26
def recId (b : BitVec 1536) : Nat := nfield b 32 8
def recP (b : BitVec 1536) : Nat := if nfield b 48 12 = 0 then 4096 else nfield b 48 12
def recMyrank (b : BitVec 1536) : Nat := nfield b 64 12
def recConst (b : BitVec 1536) : Int := (b.extractLsb' 80 16).toInt
def recLen (b : BitVec 1536) : Nat := nfield b 96 32
def recSrc (b : BitVec 1536) : Nat := nfield b 128 64
def recDst (b : BitVec 1536) : Nat := nfield b 192 64
def recEpt (b : BitVec 1536) : Nat := nfield b 256 64
def recRbytes (b : BitVec 1536) : Nat := nfield b 320 64
def recLword (b : BitVec 1536) : Word := b.extractLsb' 384 64
def recLvalue (b : BitVec 1536) : Word := b.extractLsb' 448 64
def recGword (b : BitVec 1536) : Word := b.extractLsb' 512 64
def recGvalue (b : BitVec 1536) : Word := b.extractLsb' 576 64
def recRword (b : BitVec 1536) : Word := b.extractLsb' 640 64
def recRvalue (b : BitVec 1536) : Word := b.extractLsb' 704 64
def recTag (b : BitVec 1536) : BitVec 32 := b.extractLsb' 768 32
def recShape (b : BitVec 1536) : BitVec 32 := b.extractLsb' 800 32
def recPlan (b : BitVec 1536) : Nat := nfield b 832 64
def levBound (b : BitVec 1536) (l : Nat) : Nat := nfield b (1024 + 128 * l) 32
def levSrc (b : BitVec 1536) (l : Nat) : Int := (b.extractLsb' (1056 + 128 * l) 32).toInt
def levDst (b : BitVec 1536) (l : Nat) : Int := (b.extractLsb' (1088 + 128 * l) 32).toInt
def levPeer (b : BitVec 1536) (l : Nat) : Int := (b.extractLsb' (1120 + 128 * l) 16).toInt

/-- The levels a record walks. -/
def recLevels (b : BitVec 1536) : List Nat := List.range (recNlev b)

/-- Every field of a record is in its range and every reserved one zero (R248, R250). -/
def recordOk (b : BitVec 1536) : Bool :=
  let k := recKind b
  let len := recLen b
  decide (k ≤ 6) && decide (recEtype b ≤ (if k = 1 ∨ k = 3 ∨ k = 4 then 3 else 0))
    && (k == 6 || decide (1 ≤ recNlev b ∧ recNlev b ≤ 4)) && decide (recFlags b < 8) && (!(recPlain b) || k == 2)
    && decide (nfield b 60 4 = 0 ∧ nfield b 76 4 = 0) && decide (recMyrank b < recP b)
    && decide (32 ≤ len ∧ len ≤ 65536 ∧ len % 32 = 0) && (k != 5 || decide (len % 96 = 0))
    && decide (recSrc b < 2 ^ 48 ∧ recDst b < 2 ^ 48 ∧ recEpt b < 2 ^ 48)
    && [recLword b, recGword b, recRword b].all (fun w => w == 0 || specOk w)
    && (k != 5 || decide (nfield b 814 18 = 0)) && (k != 6 || decide (recPlan b < 2 ^ 48)) && decide (nfield b 896 128 = 0)
    && (k == 6 || (recLevels b).all fun l => decide (1 ≤ levBound b l ∧ levBound b l < 2 ^ 24 ∧ nfield b (1136 + 128 * l) 16 = 0))

/-- An endpoint entry is well formed (R247, R250). -/
def endpointOk (e : BitVec 32) : Bool := decide (nfield e 20 12 = 0 ∧ 1 ≤ nfield e 16 4 ∧ nfield e 16 4 ≤ 8)

/-! ### Ranks (R247) -/

/-- The die of a rank of a record. -/
def CeRec.dieOfRank (r : CeRec) (s : State) (rank : Nat) : Nat :=
  let e := (r.epts[rank]?).getD 0
  dieOf s (nfield e 0 16) (nfield e 16 4)

/-! ### Coding plans (R260) -/

/-- A plan entry: a member with the header of its group below it. -/
def planGroup (m : BitVec 512) : Nat := nfield m 0 32
def planPoint (m : BitVec 512) : Nat := nfield m 32 16
def planSize (m : BitVec 512) : Nat := nfield m 48 8
def memId (m : BitVec 512) : Nat := nfield m 128 32
def memGen (m : BitVec 512) : Nat := nfield m 160 16
def memSrc (m : BitVec 512) : Nat := nfield m 176 12
def memDst (m : BitVec 512) : Nat := nfield m 192 12
def memLen (m : BitVec 512) : Nat := nfield m 208 32
def memVa (m : BitVec 512) : Nat := nfield m 256 48

/-- A member entry is well formed. -/
def memberOk (p : Nat) (m : BitVec 512) : Bool :=
  let len := memLen m
  decide (nfield m 188 4 = 0 ∧ nfield m 204 4 = 0 ∧ nfield m 240 16 = 0 ∧ nfield m 304 80 = 0)
    && decide (memSrc m < p ∧ memDst m < p ∧ 32 ≤ len ∧ len ≤ 65536 ∧ len % 32 = 0)

/-- Bytes of global memory of an address space, read whole as .bp; none when they cannot be read or carry poison. -/
def ceBytes (s : State) (d asid va len : Nat) : State × Option (List Byte) :=
  match engReadRange s d 1 asid (len / 4096 + 2) va len with
  | (t, .ok (bs, false)) => (t, some bs)
  | (t, _) => (t, none)

/-- The groups of a plan from an address on; none for a malformed or unreadable one. -/
def readGroups (s : State) (d asid p : Nat) : Nat → Nat → State × Option (List (BitVec 512))
  | 0, _ => (s, some [])
  | n + 1, va =>
    match ceBytes s d asid va 16 with
    | (t, none) => (t, none)
    | (t, some h) =>
      let head := bitsOfBytes 128 h
      let k := nfield head 48 8
      if k < 2 ∨ 8 < k ∨ nfield head 56 72 ≠ 0 then (t, none)
      else
        match ceBytes t d asid (va + 16) (32 * k) with
        | (u, none) => (u, none)
        | (u, some ms) =>
          let members := (List.range k).map fun i => bitsOfBytes 512 (h ++ (ms.drop (32 * i)).take 32)
          if !(members.all (memberOk p)) then (u, none)
          else
            match readGroups u d asid p n (va + 16 + 32 * k) with
            | (v, none) => (v, none)
            | (v, some r) => (v, some (members ++ r))

/-- A coding plan as the CE reads it. -/
def readPlan (s : State) (d asid p va : Nat) : State × Option (List (BitVec 512)) :=
  match ceBytes s d asid va 16 with
  | (t, none) => (t, none)
  | (t, some h) =>
    let head := bitsOfBytes 128 h
    let n := nfield head 0 32
    if n = 0 ∨ 65535 < n ∨ nfield head 32 96 ≠ 0 then (t, none) else readGroups t d asid p n (va + 16)

/-! ### The state of a CE -/

/-- A change of one record of a CE. -/
def modRec (s : State) (d id : Nat) (f : CeRec → CeRec) : State :=
  s.modDie d fun x => { x with ceRecs := x.ceRecs.map fun r => if r.id = id then f r else r }

def State.ceRec (s : State) (d id : Nat) : Option CeRec := (s.die d).ceRecs.find? fun r => r.id == id

/-- What is parked at a CE, and what waits for room in its queue, oldest first. -/
def State.ceParked (s : State) (d : Nat) : List CeParked := (s.die d).ceReplay ++ (s.die d).ceHeld.map CeHeld.entry

/-- What must park takes its place in the CE's queue, or waits for room when the queue is full (R279); the first to park on
an empty queue is reported at the core that issued its record (R280). -/
def ceHold (s : State) (d : Nat) (h : CeHeld) : State :=
  let x := s.die d
  if !x.ceHeld.isEmpty || decide (parkRoom ≤ x.ceReplay.length) then s.modDie d fun x => { x with ceHeld := x.ceHeld ++ [h] }
  else
    let s1 := s.modDie d fun x => { x with ceReplay := x.ceReplay ++ [h.entry] }
    if !x.ceReplay.isEmpty then s1
    else
      match h.fault with
      | some f => parkReport s1 h.quad h.task f.1 0 true false f.2
      | none => parkReport { s1 with fresh := s1.fresh + 1 } h.quad h.task (plainFault s).1 0 true false (plainFault s).2

/-- An entry whose access faulted parks. -/
def ceParkEntry (s : State) (d quad task : Nat) (p : CeParked) (va kind status : Nat) : State :=
  ceHold s d { entry := p, quad := quad, task := task, fault := some (kindCause kind, kindTval va kind status) }

/-- An entry parks behind one it overlaps. -/
def ceParkBehind (s : State) (d quad task : Nat) (p : CeParked) : State :=
  ceHold s d { entry := p, quad := quad, task := task, fault := none }

/-- A status byte as the word of one byte it writes. -/
def statusRef (r : CeRec) : WordRef :=
  { spec := BitVec.ofNat 64 (r.addr + 5), val := r.status.setWidth 64, quad := r.quad, asid := r.asid }

/-- The word a record writes at a step: 0 lword, 1 and 4 the status byte, 2 gword, 3 rword. -/
def CeRec.word (r : CeRec) (step : Nat) : WordRef :=
  let mk (spec val : Word) : WordRef := { spec := spec, val := val, quad := r.quad, asid := r.asid }
  match step with
  | 0 => mk (recLword r.body) (recLvalue r.body)
  | 2 => mk (recGword r.body) (recGvalue r.body)
  | 3 => mk (recRword r.body) (recRvalue r.body)
  | _ => statusRef r

/-- A record's word is written, with release; the status byte is one byte. -/
def writeCeWord (s : State) (d step : Nat) (w : WordRef) : State × Except (Nat × Nat) Unit :=
  if step = 1 ∨ step = 4 then engWrite (engRelease s d) d 1 w.asid (nfield w.spec 0 48) (bytesOf w.val 1) false
  else writeWord s d w

/-- A word is written or parks (R470); whether it was written. -/
def tryCeWord (s : State) (d step : Nat) (r : CeRec) : State × Bool :=
  let w := r.word step
  match writeCeWord s d step w with
  | (t, .ok ()) => (t, true)
  | (t, .error e) => (ceParkEntry t d r.quad r.task (.word r.id step w r.quad r.task) (nfield w.spec 0 48) e.1 e.2, false)

/-- A source of a record is parked, or waits for room in staging after its release. -/
def sourceParked (s : State) (d id : Nat) : Bool :=
  (s.ceParked d ++ (s.die d).ceReady).any fun p => match p with
    | .source r _ _ _ => r == id
    | _ => false

/-- A record that has nothing more to do leaves the CE. -/
def retireRec (s : State) (d id : Nat) : State :=
  s.modDie d fun x => { x with ceRecs := x.ceRecs.filter fun r =>
    !(r.id == id && r.walked && r.lDone && r.gDone && r.rDone && r.unacked == 0 && r.expect.isEmpty) }

/-- lword once every source byte is read (R255). -/
def stepLword (s : State) (d id : Nat) : State :=
  match s.ceRec d id with
  | some r =>
    if r.walked && !r.lDone && !(sourceParked s d id) then (tryCeWord (modRec s d id fun r => { r with lDone := true }) d 0 r).1 else s
  | none => s

/-- gword, once the status byte is written. -/
def writeGword (s : State) (d : Nat) (r : CeRec) : State :=
  (tryCeWord (modRec s d r.id fun r => { r with gDone := true, gWait := false }) d 2 r).1

/-- The status byte and then gword once every transfer is acknowledged; a status byte that parks holds gword back (R256, R259, R470). -/
def stepGword (s : State) (d id : Nat) : State :=
  match s.ceRec d id with
  | some r =>
    if r.walked && r.unacked == 0 && !r.gDone && !r.gWait && !(sourceParked s d id) then
      let a := tryCeWord s d 1 r
      if a.2 then writeGword a.1 d r else modRec a.1 d id fun r => { r with gWait := true }
    else s
  | none => s

/-- rword once the receive count of the record's id has reached rbytes (R257). -/
def stepRword (s : State) (d id : Nat) : State :=
  match s.ceRec d id with
  | some r =>
    let n := recId r.body
    let have_ := sget 0 (s.die d).rxCount n
    if !r.rDone && decide (recRbytes r.body ≤ have_) then
      let s1 := (tryCeWord (modRec s d id fun r => { r with rDone := true }) d 3 r).1
      s1.modDie d fun x => { x with rxCount := sset 0 x.rxCount n (have_ - recRbytes r.body) }
    else s
  | none => s

/-- What a record may now write. -/
def ceProgress (s : State) (d id : Nat) : State := retireRec (stepGword (stepRword (stepLword s d id) d id) d id) d id

/-- Every record of a CE. -/
def ceProgressAll (s : State) (d : Nat) : State := (s.die d).ceRecs.foldl (fun t r => ceProgress t d r.id) s

/-! ### Acceptance (R250, R262, R430, R431) -/

/-- A refused record writes its status byte and nothing else. -/
def refuseRecord (s : State) (d addr : Nat) (q : CeReq) : State :=
  let w : WordRef := { spec := BitVec.ofNat 64 (addr + 5), val := 1, quad := q.quad, asid := q.asid }
  match writeCeWord s d 4 w with
  | (t, .ok ()) => t
  | (t, .error e) => ceParkEntry t d q.quad q.task (.word 0 4 w q.quad q.task) (addr + 5) e.1 e.2

/-- A COLL request: the record, its endpoint table and, for kind 6, its plan are read and checked. -/
def acceptRecord (s : State) (d : Nat) (q : CeReq) : State :=
  let addr := q.a.toNat % 2 ^ 48
  match ceBytes s d q.asid addr 192 with
  | (t, none) => refuseRecord t d addr q
  | (t, some bs) =>
    let b := bitsOfBytes 1536 bs
    if !(recordOk b) then refuseRecord t d addr q
    else
      match ceBytes t d q.asid (recEpt b) (4 * recP b) with
      | (u, none) => refuseRecord u d addr q
      | (u, some es) =>
        let epts := (List.range (recP b)).map fun i => bitsOfBytes 32 ((es.drop (4 * i)).take 4)
        if !(epts.all endpointOk) then refuseRecord u d addr q
        else
          let enter (v : State) (plan : List (BitVec 512)) : State :=
            let mine := recMyrank b
            let sends := plan.filter fun m => memSrc m == mine
            let id := (v.die d).ceNext
            let r : CeRec :=
              { id := id, addr := addr, body := b, quad := q.quad, asid := q.asid, task := q.task, cfg := q.cfg,
                epts := epts, plan := plan, vec := if recKind b = 6 then [0] else (recLevels b).map fun _ => 0,
                walked := recKind b == 6 && sends.isEmpty, unacked := 0, status := 0,
                expect := (plan.filter fun m => memDst m == mine).map fun m => (memId m, memGen m),
                lDone := false, gDone := false, gWait := false, rDone := false }
            ceProgress (v.modDie d fun x => { x with ceRecs := x.ceRecs ++ [r], ceNext := id + 1 }) d id
          if recKind b = 6 then
            match readPlan u d q.asid (recP b) (recPlan b) with
            | (v, none) => refuseRecord v d addr q
            | (v, some plan) => enter v plan
          else enter u []

/-- Entries of a side-information table (R262). -/
def sideRoom : Nat := 4096

/-- An entry added to a side table, the most recently used one last: a held one is replaced and keeps its pin, a full table gives up
its least recently used unpinned entry or drops the addition. -/
def addSide (l : List SideEntry) (e : SideEntry) : List SideEntry :=
  let same (x : SideEntry) : Bool := x.id == e.id && x.gen == e.gen
  match l.find? same with
  | some old => (l.filter fun x => !(same x)) ++ [{ e with pin := e.pin || old.pin }]
  | none =>
    if l.length < sideRoom then l ++ [e]
    else
      match l.find? fun x => !x.pin with
      | some v => l.erase v ++ [e]
      | none => l

/-- The CE takes its oldest request: a record (kind 0), SHPIN (1) or SHREL (2). -/
def ceAccept (s : State) (d : Nat) : State :=
  match (s.die d).ceIn with
  | [] => s
  | q :: rest =>
    let s1 := s.modDie d fun x => { x with ceIn := rest }
    match q.kind with
    | 0 => acceptRecord s1 d q
    | 1 =>
      let e : SideEntry :=
        { id := nfield q.a 0 32, gen := nfield q.a 32 16, va := nfield q.b 0 48, asid := q.asid, len := q.c.toNat, pin := true }
      s1.modDie d fun x => { x with sideInfo := addSide x.sideInfo e }
    | _ => s1.modDie d fun x => { x with sideInfo := x.sideInfo.filter fun e =>
        !(e.id == nfield q.a 0 32 && e.gen == nfield q.a 32 16) }

/-- R250. -/
def execCeRecordAccept (s : State) : Host.Outcome State Fault Refusal := .next (ceAccept s s.arg.a)

/-! ### Emission (R249, R255) -/

/-- The next index vector, level 0 outermost; none after the last. -/
def nextVec (bounds vec : List Nat) : Option (List Nat) :=
  match bounds, vec with
  | b :: bs, i :: is =>
    match nextVec bs is with
    | some r => some (i :: r)
    | none => if i + 1 < b then some ((i + 1) :: is.map fun _ => 0) else none
  | _, _ => none

/-- Peer, source and destination of an index vector (R249). -/
def CeRec.transferAt (r : CeRec) (vec : List Nat) : Nat × Nat × Nat :=
  let b := r.body
  let sum (f : Nat → Int) : Int := vec.zipIdx.foldl (fun t p => t + f p.2 * p.1) 0
  let peer := ((sum (levPeer b) + recConst b) % (recP b : Int)).toNat
  (peer, (((recSrc b : Int) + sum (levSrc b)) % 2 ^ 48).toNat, (((recDst b : Int) + sum (levDst b)) % 2 ^ 48).toNat)

/-- A range read as .bp with the poison of its bytes; the first page that fails gives its address, kind and status. -/
def ceRead (s : State) (d asid : Nat) : Nat → Nat → Nat → State × Except (Nat × Nat × Nat) (List Byte × List Bool)
  | 0, _, _ => (s, .ok ([], []))
  | fuel + 1, va, len =>
    if len = 0 then (s, .ok ([], []))
    else
      let n := min len (4096 - va % 4096)
      match engRead s d 1 asid va n with
      | (t, .error e) => (t, .error (va, e.1, e.2))
      | (t, .ok r) =>
        match ceRead t d asid fuel (va + n) (len - n) with
        | (u, .error e) => (u, .error e)
        | (u, .ok x) => (u, .ok (r.1 ++ x.1, poisonBytes va n r.2 ++ x.2))

/-- A poison list with no poison is written as nothing. -/
def cleanPois (l : List Bool) : List Bool := if l.any id then l else []

/-- Bytes a CE's staging holds. -/
def stagingBytes (s : State) (d : Nat) : Nat := (s.die d).staging.foldl (fun n x => n + x.data.length) 0

/-- The capacity of staging and of the combine buffer. -/
def stagingRoom : Nat := 2 ^ 21
def combineRoom : Nat := 2 ^ 22

/-- Bytes a transfer of a record puts into staging. -/
def wireLen (b : BitVec 1536) : Nat := if recPlain b then 2 * recLen b else recLen b

/-- Plain f32 values as (x, +0) pairs (R254). -/
def plainPairs {α : Type} (zero : α) : List α → List α
  | a :: b :: c :: e :: r => a :: b :: c :: e :: zero :: zero :: zero :: zero :: plainPairs zero r
  | _ => []

/-- A transfer enters staging and is sent. -/
def stage (s : State) (d : Nat) (r : CeRec) (x : Xfer) (m : Msg) : State :=
  let s1 := (modRec s d r.id fun r => { r with unacked := r.unacked + 1 }).modDie d fun y => { y with staging := y.staging ++ [x] }
  post { s1 with fresh := s1.fresh + 1 } m

/-- The package and die of a transfer's peer: the issuing CE itself for its own rank (R249). -/
def CeRec.peerPlace (r : CeRec) (d peer : Nat) : Nat × Nat :=
  let e := (r.epts[peer]?).getD 0
  if peer = recMyrank r.body then (0xFFFF, d) else (nfield e 0 16, nfield e 16 4)

/-- A transfer of a record of kinds 0 to 5. -/
def sendTransfer (s : State) (d : Nat) (r : CeRec) (peer dst : Nat) (bs : List Byte) (po : List Bool) : State :=
  let b := r.body
  let at_ := r.peerPlace d peer
  let x : Xfer :=
    { rec_ := r.id, seq := s.fresh, fromDie := d, toPkg := at_.1, toDie := at_.2, kind := recKind b, etype := recEtype b,
      final := recFinal b, id := recId b, shape := recShape b, quad := r.quad, asid := r.asid, task := r.task, dst := dst,
      tag := if recTagged b then some (recTag b) else none, data := if recPlain b then plainPairs 0 bs else bs,
      pois := cleanPois (if recPlain b then plainPairs false po else po), block := 0, bgen := 0, group := 0, size := 0, point := 0,
      port := 24, past := 0, flaw := none, acks := [] }
  stage s d r x (.transfer x)

/-- A block of a kind 6 record, for its coding point. -/
def sendBlock (s : State) (d : Nat) (r : CeRec) (m : BitVec 512) (bs : List Byte) (po : List Bool) : State :=
  let x : Xfer :=
    { rec_ := r.id, seq := s.fresh, fromDie := d, toPkg := nfield ((r.epts[memDst m]?).getD 0) 0 16, toDie := r.dieOfRank s (memDst m),
      kind := 6, etype := 0, final := false, id := recId r.body, shape := 0, quad := r.quad, asid := r.asid, task := r.task, dst := 0,
      tag := none, data := bs, pois := cleanPois po, block := memId m, bgen := memGen m, group := planGroup m, size := planSize m,
      point := planPoint m, port := 24, past := 0, flaw := none, acks := [] }
  stage s d r x (.block x)

/-- What a record emits next: for kind 6 the address and length of the member at its position. -/
def CeRec.source (r : CeRec) : Nat × Nat × Nat × Nat :=
  if recKind r.body = 6 then
    let m := ((r.plan.filter fun m => memSrc m == recMyrank r.body)[(r.vec.head?).getD 0]?).getD 0
    (memDst m, memVa m, (r.vec.head?).getD 0, memLen m)
  else
    let t := r.transferAt r.vec
    (t.1, t.2.1, t.2.2, recLen r.body)

/-- The record after one transfer. -/
def CeRec.advance (r : CeRec) : CeRec :=
  if recKind r.body = 6 then
    let n := (r.vec.head?).getD 0 + 1
    { r with vec := [n], walked := decide ((r.plan.filter fun m => memSrc m == recMyrank r.body).length ≤ n) }
  else
    match nextVec ((recLevels r.body).map (levBound r.body)) r.vec with
    | some v => { r with vec := v }
    | none => { r with walked := true }

/-- The bytes read for a transfer are sent; dst is the position in the plan for kind 6. -/
def emitRead (s : State) (d : Nat) (r : CeRec) (peer dst : Nat) (bs : List Byte) (po : List Bool) : State :=
  if recKind r.body = 6 then
    sendBlock s d r (((r.plan.filter fun m => memSrc m == recMyrank r.body)[dst]?).getD 0) bs po
  else sendTransfer s d r peer dst bs po

/-- The oldest record that has not been walked. -/
def walking (s : State) (d : Nat) : Option CeRec := (s.die d).ceRecs.find? fun r => !r.walked

/-- Bytes of global memory a transfer or a word touches: package (0xFFFF this one), address space, address, length. -/
structure CeRun where
  pkg : Nat
  asid : Nat
  va : Nat
  len : Nat
  deriving DecidableEq, Repr

def CeRun.meets (a b : CeRun) : Bool := a.pkg == b.pkg && a.asid == b.asid && runsMeet a.va a.len b.va b.len

/-- Bytes a record reads for one transfer. -/
def CeRec.readLen (r : CeRec) (dst : Nat) : Nat :=
  if recKind r.body = 6 then memLen (((r.plan.filter fun m => memSrc m == recMyrank r.body)[dst]?).getD 0) else recLen r.body

/-- What a transfer of a record reads and writes, a block's destination apart, which its own rank's plan gives. -/
def CeRec.runs (r : CeRec) (s : State) (d src dst peer : Nat) : List CeRun × List CeRun :=
  let pkg := (r.peerPlace d peer).1
  ([{ pkg := 0xFFFF, asid := r.asid, va := src, len := r.readLen dst }],
   if recKind r.body = 6 then []
   else [{ pkg := if ownPackage s pkg then 0xFFFF else pkg, asid := r.asid, va := dst, len := wireLen r.body }])

/-- What a transfer writes at this die. -/
def Xfer.runs (x : Xfer) : List CeRun := [{ pkg := 0xFFFF, asid := x.asid, va := x.dst, len := x.data.length }]

/-- What a parked entry reads and writes. -/
def parkedRuns (s : State) (d : Nat) : CeParked → List CeRun × List CeRun
  | .source id src dst peer => (match s.ceRec d id with
    | some r => r.runs s d src dst peer
    | none => ([], []))
  | .dest x => ([], x.runs)
  | .word _ step w _ _ =>
    ([], if specLocal w.spec then [] else
      [{ pkg := 0xFFFF, asid := w.asid, va := nfield w.spec 0 48, len := if step = 1 ∨ step = 4 then 1 else 8 }])

/-- A transfer parks behind parked ones: it reads what one of them writes, or writes what one of them reads or writes (R279). -/
def ceBlocked (s : State) (d : Nat) (reads writes : List CeRun) : Bool :=
  (s.ceParked d).any fun p =>
    let q := parkedRuns s d p
    (reads.any fun a => q.2.any a.meets) || (writes.any fun a => (q.1 ++ q.2).any a.meets)

/-- A transfer of a record overlaps what is parked (R279). -/
def sourceBlocked (s : State) (d : Nat) (r : CeRec) (src dst peer : Nat) : Bool :=
  let q := r.runs s d src dst peer
  ceBlocked s d q.1 q.2

/-- Staging has room for a transfer of a record that reads n bytes (R249). -/
def CeRec.stages (r : CeRec) (s : State) (d n : Nat) : Bool :=
  decide (stagingBytes s d + (if recPlain r.body then 2 * n else n) ≤ stagingRoom)

/-- A released source can be emitted: staging has room, or its record is gone. -/
def readyFits (s : State) (d : Nat) : CeParked → Bool
  | .source id _ dst _ => (match s.ceRec d id with
    | some r => r.stages s d (r.readLen dst)
    | none => true)
  | _ => true

/-- A CE has a transfer to emit, a released one before those of its walk: there is room in staging, and for the walk nothing waits for
room in its replay queue (R249, R279, R280). -/
def emitDue (s : State) (d : Nat) : Bool :=
  match (s.die d).ceReady with
  | p :: _ => readyFits s d p
  | [] =>
    match walking s d with
    | none => false
    | some r => (s.die d).ceHeld.isEmpty && r.stages s d r.source.2.2.2

/-- A transfer of a record is read and sent, or parks. -/
def emitOne (s : State) (d : Nat) (r : CeRec) (src dst peer : Nat) : State :=
  let p : CeParked := .source r.id src dst peer
  if sourceBlocked s d r src dst peer then ceParkBehind s d r.quad r.task p
  else
    match ceRead s d r.asid 18 src (r.readLen dst) with
    | (u, .ok x) => emitRead u d r peer dst x.1 x.2
    | (u, .error e) => ceParkEntry u d r.quad r.task p e.1 e.2.1 e.2.2

/-- A released source is emitted, if its record is still there. -/
def emitParked (s : State) (d : Nat) : CeParked → State
  | .source id src dst peer => (match s.ceRec d id with
    | none => s
    | some r => emitOne s d r src dst peer)
  | _ => s

/-- R249: the next transfer of the oldest record under way; with no room in staging, or while something waits for room in the replay
queue, the walk waits (R279). DEDUCED, log 45. -/
def ceEmit (s : State) (d : Nat) : State :=
  if !(emitDue s d) then s
  else
    match (s.die d).ceReady with
    | p :: rest => ceProgressAll (emitParked (s.modDie d fun x => { x with ceReady := rest }) d p) d
    | [] =>
      match walking s d with
      | none => s
      | some r =>
        let t := r.source
        ceProgress (modRec (emitOne s d r t.2.1 t.2.2.1 t.1) d r.id CeRec.advance) d r.id

/-- R249. -/
def execCeTransferEmit (s : State) : Host.Outcome State Fault Refusal := .next (ceEmit s s.arg.a)

/-! ### Combining (R251 to R254, R269) -/

/-- Bytes of a wire element and of the final f32 value. -/
def elemBytes (kind etype : Nat) : Nat :=
  match kind with
  | 0 => 1
  | 2 => 8
  | 5 => 12
  | _ => if etype = 1 ∨ etype = 2 then 2 else 4

/-- two_sum of R254. -/
def twoSum (a b : Nat) : Nat × Nat :=
  let s := f32Add a b
  match Fmt.f32.decode a, Fmt.f32.decode b, Fmt.f32.decode s with
  | .fin na xa, .fin nb xb, .fin ns xs =>
    let t := sgnRat na xa + sgnRat nb xb - sgnRat ns xs
    (s, (Fmt.f32.round .rne false (decide (t < 0)) (if t < 0 then -t else t) 0).1)
  | _, _, _ => (s, 0)

/-- The combination of a resting and an incoming pair (R254). -/
def pairSum (r i : Nat) : Nat × Nat :=
  let st := twoSum (r % 2 ^ 32) (i % 2 ^ 32)
  let e := f32Add (f32Add (r / 2 ^ 32) (i / 2 ^ 32)) st.2
  twoSum st.1 e

/-- A triple of twelve bytes. -/
def Triple.ofNat (n : Nat) : Triple := { S := n % 2 ^ 32, c := n / 2 ^ 32 % 2 ^ 32, m := n / 2 ^ 64 % 2 ^ 32 }
def Triple.toNat (t : Triple) : Nat := t.S % 2 ^ 32 + 2 ^ 32 * (t.c % 2 ^ 32) + 2 ^ 64 * (t.m % 2 ^ 32)

/-- A maximum or minimum of an element type (R251). -/
def elemExtreme (etype : Nat) (wantMax : Bool) (a b : Nat) : Nat :=
  match redFmt etype with
  | some f =>
    let wide (v : Nat) : Nat := (Fmt.f32.ofVal .rne false (f.decode v) 0).1
    if etype = 0 then Fmt.f32.minMax wantMax a b
    else (f.ofVal .rne false (Fmt.f32.decode (Fmt.f32.minMax wantMax (wide a) (wide b))) 0).1
  | none =>
    if wantMax then (if signedOf 32 a < signedOf 32 b then b else a) else (if signedOf 32 b < signedOf 32 a then b else a)

/-- The destination value after an element arrives: the resting form, the final f32 value, whether a domain fault occurred. -/
def combineElem (x : Xfer) (tab : List Byte) (rest inc : Nat) : Nat × Nat × Bool :=
  match x.kind with
  | 0 => (inc, 0, false)
  | 1 => (reduceElem x.etype false [rest, inc], 0, false)
  | 2 =>
    let p := pairSum rest inc
    (p.1 + 2 ^ 32 * p.2, f32Add p.1 p.2, false)
  | 3 => (elemExtreme x.etype true rest inc, 0, false)
  | 4 => (elemExtreme x.etype false rest inc, 0, false)
  | _ =>
    let sh := TmShape.of x.shape
    let r := tmMergeChecked sh tab (Triple.ofNat rest) (Triple.ofNat inc)
    (r.1.toNat, (tmExit sh tab r.1).1, r.2.isSome)

/-- The bytes a transfer writes, from the destination bytes it reads, with the first element that faulted. -/
def combine (x : Xfer) (tab : List Byte) (old : List Byte) : List Byte × Option Nat :=
  let w := elemBytes x.kind x.etype
  let out := (List.range (x.data.length / w)).map fun i =>
    combineElem x tab (natOfBytes ((old.drop (w * i)).take w)) (natOfBytes ((x.data.drop (w * i)).take w))
  (if x.final && (x.kind == 2 || x.kind == 5) then out.flatMap fun r => bytesOf (BitVec.ofNat 32 r.2.1) 4
   else out.flatMap fun r => bytesOf (BitVec.ofNat 96 r.1) w,
   out.findIdx? fun r => r.2.2)

/-- The poison of the bytes a transfer writes: that of what it brings and of what it combines with. -/
def combinePois (x : Xfer) (oldPois : List Bool) : List Bool :=
  let w := elemBytes x.kind x.etype
  let wo := if x.final && (x.kind == 2 || x.kind == 5) then 4 else w
  (List.range (x.data.length / w)).flatMap fun i =>
    List.replicate wo (((x.pois.drop (w * i)).take w).any id || (x.kind != 0 && ((oldPois.drop (w * i)).take w).any id))

/-- Bytes with their poison written from an address on as .bp, page by page; on a fault nothing of the list counts as written. -/
def ceWrite (s : State) (d asid : Nat) : Nat → Nat → List Byte → List Bool → State × Except (Nat × Nat × Nat) Unit
  | 0, _, _, _ => (s, .ok ())
  | fuel + 1, va, bs, po =>
    if bs.isEmpty then (s, .ok ())
    else
      let n := 4096 - va % 4096
      let now := bs.take n
      let ps := if (po.take n).any id then pieces va now (po.take n) else [(va, now, false)]
      match writeMarked s d 1 asid ps with
      | (t, .error e) => (t, .error e)
      | (t, .ok ()) => ceWrite t d asid fuel (va + now.length) (bs.drop n) (po.drop n)

/-- Bytes a transfer lands at its destination: of a final pair or triple only the f32 value (R251, R257, R258). -/
def Xfer.landing (x : Xfer) : Nat :=
  x.past + (if x.final && (x.kind == 2 || x.kind == 5) then x.data.length / elemBytes x.kind x.etype * 4 else x.data.length)

/-- What is left of a transfer whose write faulted at va: the values it had formed for the bytes from there on (R278). -/
def Xfer.rest (x : Xfer) (out : List Byte) (po : List Bool) (flaw : Option Nat) (va : Nat) : Xfer :=
  let n := (va + 2 ^ 48 - x.dst) % 2 ^ 48
  if n = 0 then x
  else { x with kind := 0, final := false, dst := va, data := out.drop n, pois := po.drop n, past := x.past + n, flaw := flaw }

/-- What the homes had applied when they answered the writes of a transfer at a die, those before it parked among them (R188, R197). -/
def Xfer.answers (x : Xfer) (s : State) (d : Nat) : List Nat := clockList (mergeClock (s.die d).acks x.acks)

/-- A transfer performed at its receiving die: the first element with a domain fault, or what is left of it and the fault that parks
it. -/
def performXfer (s : State) (d : Nat) (x : Xfer) : State × Except (Xfer × Nat × Nat × Nat) (Option Nat) :=
  let tab := sget [] s.tables (TmShape.of x.shape).pair
  if x.kind = 0 then
    match ceWrite s d x.asid 34 x.dst x.data x.pois with
    | (t, .ok ()) => (t, .ok x.flaw)
    | (t, .error e) => (t, .error ({ x.rest x.data x.pois x.flaw e.1 with acks := x.answers t d }, e))
  else
    match ceRead s d x.asid 34 x.dst x.data.length with
    | (t, .error e) => (t, .error (x, e))
    | (t, .ok old) =>
      let r := combine x tab old.1
      let po := cleanPois (combinePois x old.2)
      match ceWrite t d x.asid 34 x.dst r.1 po with
      | (u, .ok ()) => (u, .ok r.2)
      | (u, .error e) => (u, .error ({ x.rest r.1 po r.2 e.1 with acks := x.answers u d }, e))

/-- The arrival port of a transfer that die d performed: its viaduct port, or the port of the die's CE (R127). -/
def Xfer.arrivalPort (x : Xfer) (d : Nat) : Nat := if x.port < 24 then x.port else 23 + d

/-- A transfer landed: its bytes count, a tagged one is a message of R127, and its sender is told. -/
def landed (s : State) (d : Nat) (x : Xfer) (fault : Option Nat) : State :=
  let s1 := s.modDie d fun y => { y with rxCount := sset 0 y.rxCount x.id (sget 0 y.rxCount x.id + x.landing) }
  let s2 := match x.tag with
    | some t => { s1 with tagged := s1.tagged ++ [(t, x.landing, x.arrivalPort d)] }
    | none => s1
  post s2 (.ack x.fromDie x.rec_ x.seq (if fault.isSome then 4 else 0) (fault.getD 0) (x.answers s2 d))

/-- The transfer reads or writes over what a parked one touches (R279). -/
def destBlocked (s : State) (d : Nat) (x : Xfer) : Bool := ceBlocked s d [] x.runs

/-- A transfer is performed or parks. -/
def receiveXfer (s : State) (d : Nat) (x : Xfer) : State :=
  if destBlocked s d x then ceParkBehind s d x.quad x.task (.dest x)
  else
    match performXfer s d x with
    | (t, .ok f) => landed t d x f
    | (t, .error e) => ceParkEntry t d x.quad x.task (.dest e.1) e.2.1 e.2.2.1 e.2.2.2

/-- The first message of a list that a test picks, and the list without it. -/
def takeFirst {α : Type} (p : α → Bool) : List α → Option (α × List α)
  | [] => none
  | a :: r => if p a then some (a, r) else (takeFirst p r).map fun x => (x.1, a :: x.2)

/-- A transfer for a die of this package. -/
def transferFor (s : State) (d : Nat) : Msg → Bool
  | .transfer x => ownPackage s x.toPkg && x.toDie == d
  | _ => false

/-- The first transfer that has reached a die. -/
def arrivedXfer (s : State) (d : Nat) : Option (Xfer × List Msg) :=
  match takeFirst (transferFor s d) s.msgs with
  | some (.transfer x, rest) => some (x, rest)
  | _ => none

/-- A transfer from another package, given with the event: its header in the wide operand, its bytes in bytes, its viaduct port in b.
DESIGN CHOICE, log 60. -/
def linkXfer (a : EvArg) : Xfer :=
  let h := a.wide
  { rec_ := 0, seq := 0, fromDie := 16 + nfield h 192 16, toPkg := 0xFFFF, toDie := a.a, kind := nfield h 0 4 % 6, etype := nfield h 4 2,
    final := h.getLsbD 8, id := nfield h 16 8, shape := BitVec.ofNat 32 (nfield h 24 32), quad := 0, asid := nfield h 56 16, task := 0,
    dst := nfield h 80 48, tag := if h.getLsbD 9 then some (BitVec.ofNat 32 (nfield h 128 32)) else none, data := a.bytes, pois := [],
    block := 0, bgen := 0, group := 0, size := 0, point := 0, port := min a.b 23, past := 0, flaw := none, acks := [] }

/-- R251: the first transfer that has arrived at a die, or one that another package sends with the event. -/
def ceReceive (s : State) (d : Nat) : State :=
  if !s.arg.bytes.isEmpty then ceProgressAll (receiveXfer s d (linkXfer s.arg)) d
  else
    match arrivedXfer s d with
    | none => s
    | some (x, rest) => ceProgressAll (receiveXfer { s with msgs := rest } d x) d

/-- R251. -/
def execCeTransferReceive (s : State) : Host.Outcome State Fault Refusal := .next (ceReceive s s.arg.a)

/-! ### Acknowledgements (R256, R264) -/

/-- A report of a CE at the core that issued a record, while it still runs that task: a deferred trap of origin 3 (R264, R273). -/
def ceReport (s : State) (r : CeRec) (bit cause info : Nat) : State :=
  let c := s.core r.quad
  if r.cfg.getLsbD bit && c.task.isSome && c.ident == r.task && c.run != .halted && c.run != .ended then
    let t : Trap :=
      { cause := cause, slot := 7, origin := 3, cell := 0, chan := 0, ce := false, gstep := false,
        tval := BitVec.ofNat 64 (info % 2 ^ 32 + 2 ^ 32 * recId r.body), tpc := 0, seen := s.pcc }
    s.modCore r.quad fun c => { c with deferred := c.deferred ++ [t] }
  else s

/-- An acknowledgement reaches its sender's CE: the staged transfer goes, its clock and status bits are taken. -/
def acknowledge (s : State) (d rec_ : Nat) (is_ : Xfer → Bool) (status : BitVec 8) (element : Nat) (clock : List Nat) : State :=
  let s1 := s.modDie d fun x => { x with staging := x.staging.eraseP is_, acks := mergeClock x.acks clock }
  match s1.ceRec d rec_ with
  | none => s1
  | some r =>
    let s2 := modRec s1 d rec_ fun r => { r with unacked := r.unacked - 1, status := r.status ||| status }
    ceProgress (if status.getLsbD 2 then ceReport s2 r 1 13 element else s2) d rec_

/-- An acknowledgement for a die. -/
def ackFor (d : Nat) : Msg → Bool
  | .ack e _ _ _ _ _ => e == d
  | .ackBlock e _ _ _ _ => e == d
  | _ => false

/-- R256: the first acknowledgement that has reached a die; one from another package may come
with the event, its record in b (plus one), its status in c, the element of a domain fault in d (DESIGN CHOICE, log 60). -/
def ceAcknowledge (s : State) (d : Nat) : State :=
  if s.arg.b ≠ 0 then
    match (s.die d).staging.find? fun x => x.rec_ == s.arg.b - 1 && !(ownPackage s x.toPkg) with
    | some x => acknowledge s d x.rec_ (fun y => y.seq == x.seq) (BitVec.ofNat 8 s.arg.c) s.arg.d []
    | none => s
  else
    match takeFirst (ackFor d) s.msgs with
    | some (.ack _ r seq st el clock, rest) => acknowledge { s with msgs := rest } d r (fun y => y.seq == seq) st el clock
    | some (.ackBlock _ id gen st clock, rest) =>
      let mine (y : Xfer) : Bool := y.kind == 6 && y.block == id && y.bgen == gen
      match (s.die d).staging.find? mine with
      | some x => acknowledge { s with msgs := rest } d x.rec_ mine st 0 clock
      | none => { s with msgs := rest }
    | _ => s

/-- R256. -/
def execCeAcknowledge (s : State) : Host.Outcome State Fault Refusal := .next (ceAcknowledge s s.arg.a)

/-- R256: transfer k of a die's staging is sent again as it was staged, when its flits to another package were lost beyond link-level
retry; inside the package nothing is lost. -/
def resend (s : State) (d k : Nat) : State :=
  match (s.die d).staging[k]? with
  | none => s
  | some x =>
    let m : Msg := if x.kind = 6 then .block x else .transfer x
    if (m.away s).isNone || s.msgs.contains m || stillHeld s m then s else post s m

/-- R256. -/
def execResendFromStaging (s : State) : Host.Outcome State Fault Refusal := .next (resend s s.arg.a s.arg.b)

/-! ### Coded shuffles (R260 to R263) -/

/-- Two runs of bytes combined by XOR, the shorter padded with zeros. -/
def xorRuns : List Byte → List Byte → List Byte
  | [], b => b
  | a, [] => a
  | a :: r, b :: t => (a ^^^ b) :: xorRuns r t

/-- The poison of a XOR. -/
def orPois : List Bool → List Bool → List Bool
  | [], b => b
  | a, [] => a
  | a :: r, b :: t => (a || b) :: orPois r t

/-- A block's member entry in a packet. -/
def memberEntry (x : Xfer) : Nat × Nat × Nat × Nat := (x.block, x.bgen, x.data.length, x.toDie)

/-- One block sent uncoded to its own destination; a fallback is told by its acknowledgement. -/
def sendUncoded (s : State) (x : Xfer) (fallback : Bool) : State :=
  let p : Packet := { group := x.group, data := x.data, pois := x.pois, members := [memberEntry x], fallback := fallback }
  post s (.packet x.toDie p)

/-- Bytes the combine buffer holds. -/
def combineBytes (s : State) : Nat := s.combine.foldl (fun n g => g.blocks.foldl (fun n x => n + x.data.length) n) 0

/-- Groups give up their blocks, the oldest first, until n bytes more fit (R261). -/
def makeRoom (s : State) (n : Nat) : Nat → State
  | 0 => s
  | fuel + 1 =>
    if combineBytes s + n ≤ combineRoom then s
    else
      match s.combine with
      | [] => s
      | g :: rest => makeRoom (g.blocks.foldl (fun t x => sendUncoded t x true) { s with combine := rest }) n fuel

/-- A complete group: one packet for all its destinations, or every block uncoded when one of them cannot be reached. -/
def groupDone (s : State) (g : CodedGroup) : State :=
  let s1 := { s with combine := s.combine.filter fun h => h.id != g.id }
  if g.blocks.any fun x => behindDown s x.toDie then g.blocks.foldl (fun t x => sendUncoded t x true) s1
  else
    let p : Packet :=
      { group := g.id, data := g.blocks.foldl (fun l x => xorRuns l x.data) [],
        pois := cleanPois (g.blocks.foldl (fun l x => orPois l x.pois) []), members := g.blocks.map memberEntry, fallback := false }
    postAll s1 (g.blocks.map fun x => .packet x.toDie p)

/-- A block for a coding point of this package. -/
def blockHere (s : State) : Msg → Bool
  | .block x => ownPackage s x.point
  | _ => false

/-- R261: a block arrives at its coding point. -/
def blockArrive (s : State) : State :=
  match takeFirst (blockHere s) s.msgs with
  | some (.block x, rest) =>
    let s1 := makeRoom { s with msgs := rest } x.data.length (s.combine.length + 1)
    let g := match s1.combine.find? fun g => g.id == x.group with
      | some g => { g with blocks := g.blocks ++ [x] }
      | none => { id := x.group, k := x.size, blocks := [x] }
    let s2 := if s1.combine.any fun h => h.id == g.id then
        { s1 with combine := s1.combine.map fun h => if h.id = g.id then g else h }
      else { s1 with combine := s1.combine ++ [g] }
    if g.k ≤ g.blocks.length then groupDone s2 g else s2
  | _ => s

/-- R261. -/
def execCodedBlockArrive (s : State) : Host.Outcome State Fault Refusal := .next (blockArrive s)

/-- The member of a packet that a record of a die still expects, with the record. -/
def wantedBy (s : State) (d : Nat) (p : Packet) : Option (CeRec × (Nat × Nat × Nat × Nat)) :=
  (s.die d).ceRecs.findSome? fun r =>
    if recKind r.body ≠ 6 then none
    else (p.members.find? fun m => m.2.2.2 == d && r.expect.contains (m.1, m.2.1)).map fun m => (r, m)

/-- The bytes of a side block; none on a miss or when it cannot be read (R263). -/
def sideBytes (s : State) (d id gen : Nat) : State × Option (List Byte) :=
  match (s.die d).sideInfo.find? fun e => e.id == id && e.gen == gen with
  | none => (s, none)
  | some e =>
    let s1 := s.modDie d fun x => { x with sideInfo := x.sideInfo.erase e ++ [e] }
    ceBytes s1 d e.asid e.va e.len

/-- The buffer after every member but the wanted one is removed; none on a miss. -/
def decodeWith (s : State) (d : Nat) : List (Nat × Nat × Nat × Nat) → List Byte → State × Option (List Byte)
  | [], buf => (s, some buf)
  | m :: r, buf =>
    match sideBytes s d m.1 m.2.1 with
    | (t, none) => (t, none)
    | (t, some bs) => decodeWith t d r (xorRuns buf (bs.take m.2.2.1))

/-- A block written at its VA: it becomes side information, its bytes count, a tagged one is a message of R127, its source is told. -/
def blockLanded (s : State) (d : Nat) (r : CeRec) (x : Xfer) : State :=
  let e : SideEntry := { id := x.block, gen := x.bgen, va := x.dst - x.past, asid := r.asid, len := x.landing, pin := false }
  let t1 := s.modDie d fun y =>
    { y with
      sideInfo := addSide y.sideInfo e
      rxCount := sset 0 y.rxCount (recId r.body) (sget 0 y.rxCount (recId r.body) + x.landing) }
  let t2 := modRec t1 d r.id fun r => { r with expect := r.expect.erase (x.block, x.bgen) }
  let t3 := match x.tag with
    | some t => { t2 with tagged := t2.tagged ++ [(t, x.landing, x.arrivalPort d)] }
    | none => t2
  post t3 (.ackBlock x.fromDie x.block x.bgen (if x.final then 8 else 0) (x.answers t3 d))

/-- A block of a record is written or parks. -/
def writeBlock (s : State) (d : Nat) (r : CeRec) (x : Xfer) : State :=
  if destBlocked s d x then ceParkBehind s d r.quad r.task (.dest x)
  else
    match ceWrite s d r.asid 18 x.dst x.data x.pois with
    | (t, .ok ()) => blockLanded t d r x
    | (t, .error e) =>
      let y := x.rest x.data x.pois none e.1
      ceParkEntry t d r.quad r.task (.dest { y with kind := 6, final := x.final, acks := x.answers t d }) e.1 e.2.1 e.2.2

/-- The plan's member for a block a record receives. -/
def CeRec.member (r : CeRec) (id gen : Nat) : BitVec 512 :=
  (r.plan.find? fun m => memDst m == recMyrank r.body && memId m == id && memGen m == gen).getD 0

/-- The write of a block: the member's VA and its source's die; final stands for a fallback. A tagged record's blocks carry the tag of
the record that receives them. DEDUCED, log 45. -/
def blockXfer (s : State) (d : Nat) (r : CeRec) (m : Nat × Nat × Nat × Nat) (bs : List Byte) (po : List Bool) (fallback : Bool) : Xfer :=
  let p := r.member m.1 m.2.1
  { rec_ := r.id, seq := 0, fromDie := r.dieOfRank s (memSrc p), toPkg := 0xFFFF, toDie := d, kind := 6, etype := 0, final := fallback,
    id := recId r.body, shape := 0, quad := r.quad, asid := r.asid, task := r.task, dst := memVa p,
    tag := if recTagged r.body then some (recTag r.body) else none, data := bs, pois := po, block := m.1, bgen := m.2.1, group := 0,
    size := 0, point := 0, port := 24, past := 0, flaw := none, acks := [] }

/-- Decode buffers of a CE (R263); a block that is parked keeps its own. -/
def decodeBuffers : Nat := 32

/-- A decode buffer is free. -/
def bufferFree (s : State) (d : Nat) : Bool :=
  decide (((s.ceParked d).filter fun p => match p with
    | .dest x => x.kind == 6
    | _ => false).length < decodeBuffers)

/-- A packet for a die that a record of it expects. -/
def packetFor (s : State) (d : Nat) : Msg → Bool
  | .packet e p => e == d && (wantedBy s d p).isSome
  | _ => false

/-- R263: the first packet a record of the die expects is decoded and written, or misses. -/
def packetDecode (s : State) (d : Nat) : State :=
  if !(bufferFree s d) then s else
  match takeFirst (packetFor s d) s.msgs with
  | some (.packet _ p, rest) =>
    match wantedBy s d p with
    | none => s
    | some (r, m) =>
      let s1 := { s with msgs := rest }
      match decodeWith s1 d (p.members.erase m) p.data with
      | (t, some buf) =>
        ceProgressAll (writeBlock t d r (blockXfer t d r m (buf.take m.2.2.1) (cleanPois (p.pois.take m.2.2.1)) p.fallback)) d
      | (t, none) =>
        let src := r.dieOfRank t (memSrc (r.member m.1 m.2.1))
        let t1 := modRec t d r.id fun r => { r with status := r.status ||| 2 }
        ceReport (post t1 (.fallback src m.1 m.2.1 d)) r 0 14 m.1
  | _ => s

/-- R263. -/
def execCodedPacketDecode (s : State) : Host.Outcome State Fault Refusal := .next (packetDecode s s.arg.a)

/-- A fallback request for a die. -/
def fallbackFor (d : Nat) : Msg → Bool
  | .fallback e _ _ _ => e == d
  | _ => false

/-- R263: the source resends the wanted block uncoded from staging. -/
def fallbackRequest (s : State) (d : Nat) : State :=
  match takeFirst (fallbackFor d) s.msgs with
  | some (.fallback _ id gen dest, rest) =>
    let s1 := { s with msgs := rest }
    match (s.die d).staging.find? fun x => x.kind == 6 && x.block == id && x.bgen == gen with
    | some x => sendUncoded s1 { x with toDie := dest } false
    | none => s1
  | _ => s

/-- R263. -/
def execFallbackRequest (s : State) : Host.Outcome State Fault Refusal := .next (fallbackRequest s s.arg.a)

/-! ### Replay (R280, R470) -/

/-- A released entry of a CE's queue is tried again, a source once staging has room (R249); the records go on once every entry has been. -/
def ceRetry (s : State) (d : Nat) (p : CeParked) : State :=
  match p with
  | .source _ _ _ _ =>
    if (s.die d).ceReady.isEmpty && readyFits s d p then emitParked s d p else s.modDie d fun x => { x with ceReady := x.ceReady ++ [p] }
  | .dest x =>
    if x.kind = 6 then
      match s.ceRec d x.rec_ with
      | some r => writeBlock s d r x
      | none => s
    else receiveXfer s d x
  | .word id step w quad task =>
    match writeCeWord s d step w with
    | (t, .error e) => ceParkEntry t d quad task p (nfield w.spec 0 48) e.1 e.2
    | (t, .ok ()) =>
      match t.ceRec d id with
      | some r => if step = 1 then writeGword t d r else t
      | none => t

/-- What waited for room in a CE's queue parks, in order (R279). -/
def ceRefill (s : State) (d : Nat) (held : List CeHeld) : State := held.foldl (fun t h => ceHold t d h) s

/-- R280: every parked entry of a CE is tried again in park order, then what waited for room parks; records that have nothing left to
do go. -/
def releaseCe (s : State) (d : Nat) : State :=
  let x := s.die d
  let s1 := s.modDie d fun x => { x with ceReplay := [], ceHeld := [] }
  ceProgressAll (ceRefill (x.ceReplay.foldl (fun t p => ceRetry t d p) s1) d x.ceHeld) d

/-- What a record of a dropped entry still writes: no completion word after a transfer of its own, no gword after its status byte. -/
def dropEntry (d : Nat) (s : State) : CeParked → State
  | .source id _ _ _ => modRec s d id fun r => { r with lDone := true, gDone := true, rDone := true }
  | .word id 1 _ _ _ => modRec s d id fun r => { r with gDone := true, gWait := false }
  | _ => s

/-- R280: every parked entry of a CE is dropped, then what waited for room parks. -/
def discardCe (s : State) (d : Nat) : State :=
  let x := s.die d
  let s1 := s.modDie d fun x => { x with ceReplay := [], ceHeld := [] }
  ceProgressAll (ceRefill (x.ceReplay.foldl (dropEntry d) s1) d x.ceHeld) d

/-- A queue of a die by its RQCTL number: 0 to 15 the channels, 16 the CE. -/
def replayRelease (s : State) (d n : Nat) : State := if n = 16 then releaseCe s d else releaseChannel s d n
def replayDiscard (s : State) (d n : Nat) : State := if n = 16 then discardCe s d else discardChannel s d n

/-- R280. -/
def execReplayRelease (s : State) : Host.Outcome State Fault Refusal := .next (replayRelease s s.arg.a s.arg.b)

/-- R280. -/
def execReplayDiscard (s : State) : Host.Outcome State Fault Refusal := .next (replayDiscard s s.arg.a s.arg.b)

end Sys2Proof.Machine
end

