-- ==== Sys2Proof/Machine/Scalar.lean ====
section
/-! DEFINITION. NOP, hints, unassigned opcodes and the integer instructions of slots A and B (R303, R308, R316 to R324). -/

namespace Sys2Proof.Machine

/-- A slot that computes one scalar register (R313). -/
def scalarOp (i : Instr) (lat : Nat) (d : BitVec 6) (v : Arch → Word) (s : State) : State :=
  issueSlot s i false (liveGuard s i) fun t =>
    nextSlot (writeX (noteWrite t s.cur i) s.cur lat d.toNat (v (t.core s.cur).arch)) s.cur

/-- An S.R instruction of two registers. -/
def regOp (i : Instr) (f : SR) (lat : Nat) (op : Word → Word → Word) (s : State) : State :=
  scalarOp i lat f.d (fun a => op (a.rx f.a.toNat) (a.rx f.b.toNat)) s

/-- An S.I instruction of a register and the sign-extended immediate (R314). -/
def immOp (i : Instr) (f : SI) (op : Word → Word → Word) (s : State) : State :=
  scalarOp i 1 f.d (fun a => op (a.rx f.a.toNat) (f.imm.signExtend 64)) s

/-- A slot that computes bits of a predicate (R322 to R324). -/
def predOp (i : Instr) (ill : Bool) (d : BitVec 6) (v : Arch → Pred × Pred) (s : State) : State :=
  issueSlot s i ill (liveGuard s i) fun t =>
    let r := v (t.core s.cur).arch
    nextSlot (writeP t s.cur 1 (predNo d) r.1 r.2) s.cur

/-- A comparison with an immediate (R322): cond 0 to 5 take it sign-extended, 6 to 9 zero-extended. -/
def pcmpImm (i : Instr) (cond : Nat) (f : SI) (s : State) : State :=
  predOp i false f.d (fun a =>
    let b : Word := if cond < 6 then f.imm.signExtend 64 else f.imm.setWidth 64
    (predOf (intCond 64 cond (a.rx f.a.toNat).toNat b.toNat), BitVec.allOnes 512)) s

/-! ### Results (R316 to R318) -/

def mulHigh (a b : Word) : Word := BitVec.ofInt 64 (a.toInt * b.toInt / 2 ^ 64)
def mulHighN (a b : Word) : Word := BitVec.ofNat 64 (a.toNat * b.toNat / 2 ^ 64)

/-- div of R317. -/
def divS (a b : Word) : Word :=
  if b = 0 then BitVec.allOnes 64 else BitVec.ofInt 64 (a.toInt.tdiv b.toInt)

/-- divn of R317. -/
def divN (a b : Word) : Word := if b = 0 then BitVec.allOnes 64 else a / b

/-- rem of R317. -/
def remS (a b : Word) : Word := if b = 0 then a else BitVec.ofInt 64 (a.toInt.tmod b.toInt)

/-- remn of R317. -/
def remN (a b : Word) : Word := if b = 0 then a else a % b

/-- A shift amount, b[5:0]. -/
def amount (b : Word) : Nat := b.toNat % 64

def rotL (a b : Word) : Word := a.rotateLeft (amount b)

/-- Zero bits from bit n - 1 down to the first set bit. -/
def leadingZeros (a : Word) : Nat → Nat
  | 0 => 0
  | n + 1 => if a.getLsbD n then 0 else 1 + leadingZeros a n

/-- Zero bits from bit 64 - n up to the first set bit. -/
def trailingZeros (a : Word) : Nat → Nat
  | 0 => 0
  | n + 1 => if a.getLsbD (63 - n) then 0 else 1 + trailingZeros a n

/-- Set bits of the low w bits of a number. -/
def setBits (w v : Nat) : Nat := (List.range w).foldl (fun n i => n + v / 2 ^ i % 2) 0

/-- The field of EXT and EXTN with its width (R318). -/
def bitField (f : SR) (a : Word) : Nat × Word :=
  let pos := f.b.toNat
  let w := min (f.fn.toNat % 64 + 1) (64 - pos)
  (w, BitVec.ofNat 64 (a.toNat / 2 ^ pos % 2 ^ w))

/-- A field of w bits sign-extended. -/
def signFrom (w : Nat) (f : Word) : Word := BitVec.ofInt 64 (signedOf w f.toNat)

/-- INS of R318. -/
def insertField (f : SR) (a d : Word) : Word :=
  let pos := f.b.toNat
  let w := min (f.fn.toNat % 64 + 1) (64 - pos)
  let ones : Word := BitVec.ofNat 64 (2 ^ w - 1)
  (d &&& ~~~(ones <<< pos)) ||| ((a &&& ones) <<< pos)

/-- SEL reads bit 0 of the predicate of fn[4:0], inverted by fn[5] (R319). -/
def selects (f : SR) (a : Arch) : Bool := ((a.rp (f.fn.toNat % 32)).getLsbD 0) != f.fn.getLsbD 5

/-- Bit j of a table of two bits (R323). -/
def plogBits (t : Nat) (a b : Pred) : Pred :=
  (if t.testBit 3 then a &&& b else 0) ||| (if t.testBit 2 then a &&& ~~~b else 0)
    ||| (if t.testBit 1 then ~~~a &&& b else 0) ||| (if t.testBit 0 then ~~~a &&& ~~~b else 0)

/-- The value and mask of XTOP (R324). -/
def xtopBits (f : SR) (v : Word) : Pred × Pred :=
  let k := f.fn.toNat % 8
  if f.fn.getLsbD 3 then
    ((List.range 8).foldl (fun p i => p ||| (v.setWidth 512 <<< (64 * i))) 0, BitVec.allOnes 512)
  else (v.setWidth 512 <<< (64 * k), (BitVec.allOnes 64).setWidth 512 <<< (64 * k))

/-! ### Meanings -/

/-- R308: no effect on any state a program can see. -/
def execNop (s : State) : Host.Outcome State Fault Refusal :=
  .next (issueSlot s .nop false true fun t => nextSlot t t.cur)

/-- The trace hint has gwyn's trace record the bundle and its issue cycle; no hint has another effect (R308). -/
def execHint (n : BitVec 4) (s : State) : Host.Outcome State Fault Refusal :=
  .next (issueSlot s (.hint n) false true fun t =>
    nextSlot (if n = 0 then t.modCore t.cur fun c => { c with trace := c.trace ++ [(c.arch.pc, t.pcc)] } else t) t.cur)

/-- R303: raises ILL. -/
def execUnassignedOpcode (_bits : BitVec 48) (s : State) : Host.Outcome State Fault Refusal := .next (illTrap s s.cur)

/-- R316, latency 1. -/
def execAdd (f : SR) (s : State) : Host.Outcome State Fault Refusal := .next (regOp (.add f) f 1 (fun a b => a + b) s)

/-- R316, latency 1. -/
def execSub (f : SR) (s : State) : Host.Outcome State Fault Refusal := .next (regOp (.sub f) f 1 (fun a b => a - b) s)

/-- R316, latency 3. -/
def execMul (f : SR) (s : State) : Host.Outcome State Fault Refusal := .next (regOp (.mul f) f 3 (fun a b => a * b) s)

/-- R316, latency 3. -/
def execMulh (f : SR) (s : State) : Host.Outcome State Fault Refusal := .next (regOp (.mulh f) f 3 (fun a b => mulHigh a b) s)

/-- R316, latency 3. -/
def execMulhn (f : SR) (s : State) : Host.Outcome State Fault Refusal := .next (regOp (.mulhn f) f 3 (fun a b => mulHighN a b) s)

/-- R316 and R317, latency 18. -/
def execDiv (f : SR) (s : State) : Host.Outcome State Fault Refusal := .next (regOp (.div f) f 18 (fun a b => divS a b) s)

/-- R316 and R317, latency 18. -/
def execDivn (f : SR) (s : State) : Host.Outcome State Fault Refusal := .next (regOp (.divn f) f 18 (fun a b => divN a b) s)

/-- R316 and R317, latency 18. -/
def execRem (f : SR) (s : State) : Host.Outcome State Fault Refusal := .next (regOp (.rem f) f 18 (fun a b => remS a b) s)

/-- R316 and R317, latency 18. -/
def execRemn (f : SR) (s : State) : Host.Outcome State Fault Refusal := .next (regOp (.remn f) f 18 (fun a b => remN a b) s)

/-- R316, latency 1. -/
def execAndx (f : SR) (s : State) : Host.Outcome State Fault Refusal := .next (regOp (.andx f) f 1 (fun a b => a &&& b) s)

/-- R316, latency 1. -/
def execOrx (f : SR) (s : State) : Host.Outcome State Fault Refusal := .next (regOp (.orx f) f 1 (fun a b => a ||| b) s)

/-- R316, latency 1. -/
def execXorx (f : SR) (s : State) : Host.Outcome State Fault Refusal := .next (regOp (.xorx f) f 1 (fun a b => a ^^^ b) s)

/-- R316, latency 1. -/
def execAndn (f : SR) (s : State) : Host.Outcome State Fault Refusal := .next (regOp (.andn f) f 1 (fun a b => a &&& ~~~b) s)

/-- R316, latency 1. -/
def execShl (f : SR) (s : State) : Host.Outcome State Fault Refusal := .next (regOp (.shl f) f 1 (fun a b => a <<< amount b) s)

/-- R316, latency 1. -/
def execShr (f : SR) (s : State) : Host.Outcome State Fault Refusal := .next (regOp (.shr f) f 1 (fun a b => a >>> amount b) s)

/-- R316, latency 1. -/
def execSra (f : SR) (s : State) : Host.Outcome State Fault Refusal := .next (regOp (.sra f) f 1 (fun a b => a.sshiftRight (amount b)) s)

/-- R316, latency 1. -/
def execRot (f : SR) (s : State) : Host.Outcome State Fault Refusal := .next (regOp (.rot f) f 1 (fun a b => rotL a b) s)

/-- R316, latency 1. -/
def execMin (f : SR) (s : State) : Host.Outcome State Fault Refusal := .next (regOp (.min f) f 1 (fun a b => if a.slt b then a else b) s)

/-- R316, latency 1. -/
def execMax (f : SR) (s : State) : Host.Outcome State Fault Refusal := .next (regOp (.max f) f 1 (fun a b => if a.slt b then b else a) s)

/-- R316, latency 1. -/
def execMinn (f : SR) (s : State) : Host.Outcome State Fault Refusal := .next (regOp (.minn f) f 1 (fun a b => if a < b then a else b) s)

/-- R316, latency 1. -/
def execMaxn (f : SR) (s : State) : Host.Outcome State Fault Refusal := .next (regOp (.maxn f) f 1 (fun a b => if a < b then b else a) s)

/-- R316. -/
def execClz (f : SR) (s : State) : Host.Outcome State Fault Refusal := .next (regOp (.clz f) f 1 (fun a _ => BitVec.ofNat 64 (leadingZeros a 64)) s)

/-- R316. -/
def execCtz (f : SR) (s : State) : Host.Outcome State Fault Refusal := .next (regOp (.ctz f) f 1 (fun a _ => BitVec.ofNat 64 (trailingZeros a 64)) s)

/-- R316. -/
def execPopc (f : SR) (s : State) : Host.Outcome State Fault Refusal := .next (regOp (.popc f) f 1 (fun a _ => BitVec.ofNat 64 (setBits 64 a.toNat)) s)

/-- R318. -/
def execExt (f : SR) (s : State) : Host.Outcome State Fault Refusal := .next (regOp (.ext f) f 1 (fun a _ => signFrom (bitField f a).1 (bitField f a).2) s)

/-- R318. -/
def execExtn (f : SR) (s : State) : Host.Outcome State Fault Refusal := .next (regOp (.extn f) f 1 (fun a _ => (bitField f a).2) s)

/-- R318. -/
def execIns (f : SR) (s : State) : Host.Outcome State Fault Refusal := .next (scalarOp (.ins f) 1 f.d (fun a => insertField f (a.rx f.a.toNat) (a.rx f.d.toNat)) s)

/-- R319. -/
def execSel (f : SR) (s : State) : Host.Outcome State Fault Refusal := .next (scalarOp (.sel f) 1 f.d (fun a => if selects f a then a.rx f.a.toNat else a.rx f.b.toNat) s)

/-- R322: fn[3:0] of 10 to 15 raises ILL. -/
def execPcmp (f : SR) (s : State) : Host.Outcome State Fault Refusal := .next (predOp (.pcmp f) (decide (10 ≤ f.fn.toNat % 16)) f.d (fun a =>
    (predOf (intCond 64 (f.fn.toNat % 16) (a.rx f.a.toNat).toNat (a.rx f.b.toNat).toNat), BitVec.allOnes 512)) s)

/-- R323. -/
def execPlog (f : SR) (s : State) : Host.Outcome State Fault Refusal := .next (predOp (.plog f) false f.d (fun a =>
    (plogBits (f.fn.toNat % 16) (a.rp (predNo f.a)) (a.rp (predNo f.b)), BitVec.allOnes 512)) s)

/-- R324. -/
def execXtop (f : SR) (s : State) : Host.Outcome State Fault Refusal := .next (predOp (.xtop f) false f.d (fun a => xtopBits f (a.rx f.a.toNat)) s)

/-- R324. -/
def execPtox (f : SR) (s : State) : Host.Outcome State Fault Refusal := .next (scalarOp (.ptox f) 1 f.d (fun a => (a.rp (predNo f.a)).extractLsb' (64 * (f.fn.toNat % 8)) 64) s)

/-- R320. -/
def execAddi (f : SI) (s : State) : Host.Outcome State Fault Refusal := .next (immOp (.addi f) f (fun a b => a + b) s)

/-- R320. -/
def execAndi (f : SI) (s : State) : Host.Outcome State Fault Refusal := .next (immOp (.andi f) f (fun a b => a &&& b) s)

/-- R320. -/
def execOri (f : SI) (s : State) : Host.Outcome State Fault Refusal := .next (immOp (.ori f) f (fun a b => a ||| b) s)

/-- R320. -/
def execXori (f : SI) (s : State) : Host.Outcome State Fault Refusal := .next (immOp (.xori f) f (fun a b => a ^^^ b) s)

/-- R320. -/
def execShli (f : SI) (s : State) : Host.Outcome State Fault Refusal := .next (immOp (.shli f) f (fun a b => a <<< amount b) s)

/-- R320. -/
def execShri (f : SI) (s : State) : Host.Outcome State Fault Refusal := .next (immOp (.shri f) f (fun a b => a >>> amount b) s)

/-- R320. -/
def execSrai (f : SI) (s : State) : Host.Outcome State Fault Refusal := .next (immOp (.srai f) f (fun a b => a.sshiftRight (amount b)) s)

/-- R320. -/
def execRoti (f : SI) (s : State) : Host.Outcome State Fault Refusal := .next (immOp (.roti f) f (fun a b => rotL a b) s)

/-- R320. -/
def execLea (f : SI) (s : State) : Host.Outcome State Fault Refusal := .next (immOp (.lea f) f (fun a b => a + b * 64) s)

/-- R322. -/
def execPcmpiEq (f : SI) (s : State) : Host.Outcome State Fault Refusal := .next (pcmpImm (.pcmpiEq f) 0 f s)

/-- R322. -/
def execPcmpiNe (f : SI) (s : State) : Host.Outcome State Fault Refusal := .next (pcmpImm (.pcmpiNe f) 1 f s)

/-- R322. -/
def execPcmpiLt (f : SI) (s : State) : Host.Outcome State Fault Refusal := .next (pcmpImm (.pcmpiLt f) 2 f s)

/-- R322. -/
def execPcmpiLe (f : SI) (s : State) : Host.Outcome State Fault Refusal := .next (pcmpImm (.pcmpiLe f) 3 f s)

/-- R322. -/
def execPcmpiGt (f : SI) (s : State) : Host.Outcome State Fault Refusal := .next (pcmpImm (.pcmpiGt f) 4 f s)

/-- R322. -/
def execPcmpiGe (f : SI) (s : State) : Host.Outcome State Fault Refusal := .next (pcmpImm (.pcmpiGe f) 5 f s)

/-- R322. -/
def execPcmpiLtn (f : SI) (s : State) : Host.Outcome State Fault Refusal := .next (pcmpImm (.pcmpiLtn f) 6 f s)

/-- R322. -/
def execPcmpiLen (f : SI) (s : State) : Host.Outcome State Fault Refusal := .next (pcmpImm (.pcmpiLen f) 7 f s)

/-- R322. -/
def execPcmpiGtn (f : SI) (s : State) : Host.Outcome State Fault Refusal := .next (pcmpImm (.pcmpiGtn f) 8 f s)

/-- R322. -/
def execPcmpiGen (f : SI) (s : State) : Host.Outcome State Fault Refusal := .next (pcmpImm (.pcmpiGen f) 9 f s)

/-- R321. -/
def execLi (f : SL) (s : State) : Host.Outcome State Fault Refusal := .next (scalarOp (.li f) 1 f.d (fun _ => f.imm.signExtend 64) s)

/-- R321. -/
def execLih (f : SL) (s : State) : Host.Outcome State Fault Refusal := .next (scalarOp (.lih f) 1 f.d (fun a =>
    (f.imm.signExtend 64 <<< 26) ||| (a.rx f.d.toNat &&& 0x3FFFFFF)) s)

end Sys2Proof.Machine
end

