-- ==== Sys2Proof/Machine/Float.lean ====
section
/-! DEFINITION. The scalar floating-point instructions (R325 to R328, R468). -/

namespace Sys2Proof.Machine

/-- The operand type of fn[4:3]: f32, bf16, f16 (R325). -/
def fpType (f : SR) : Nat := nfield f.fn 3 2

/-- The width of the operand type. -/
def fpWidth (f : SR) : Nat := (tyFmt (fpType f)).width

/-- A floating source: the low bits of its register (R325). -/
def fpSource (f : SR) (v : Word) : Nat := v.toNat % 2 ^ fpWidth f

/-- An instruction that takes a scalar draw: it rounds, under .sto, with a true guard (R468). -/
def drawsScalar (a : Arch) (i : Instr) : Bool :=
  match i with
  | .fadd f | .fsub f | .fmul f | .ffma f | .fdiv f | .fsqrt f => a.guardTrue f.pg f.ng && nfield f.fn 0 3 == 5 && fpType f != 3
  | .fcvt f => a.guardTrue f.pg f.ng && nfield f.fn 0 3 == 5 && fpType f != 3 && nfield f.fn 5 3 != 7
  | _ => false

/-- The counter a draw of the slot under execution uses: slot B takes C + 1 when slot A draws too (R468). -/
def drawCounter (c : CoreSt) : Word :=
  if c.slot = 1 && drawsScalar c.arch (c.slotInstr .a) then c.arch.sctr + 1 else c.arch.sctr

/-- The draw u of a scalar rounding (R468). -/
def scalarDraw (c : CoreSt) : Nat := draw16 c.arch.skey (drawCounter c) 0

/-- The counter after a draw, written at issue + 1 below a SYSW of the same bundle (R468). -/
def advanceDraw (s : State) (q : Nat) (i : Instr) : State :=
  let c := s.core q
  if drawsScalar c.arch i then
    s.modCore q fun c => { c with arch := { c.arch with pend := c.arch.pend ++
      [{ due := s.pcc + 1, rank := 0, bid := c.bid, dst := .sys 7, val := wide (drawCounter c + 1) }] } }
  else s

/-- A scalar floating-point slot: type 0b11 raises ILL, and so does a reserved mode of an instruction that rounds. -/
def fpOp (i : Instr) (f : SR) (rounds : Bool) (ill : Bool) (lat : Nat) (v : Arch → RMode → Nat → Nat) (s : State) : State :=
  issueSlot s i (fpType f == 3 || (rounds && decide (6 ≤ nfield f.fn 0 3)) || ill) (liveGuard s i) fun t =>
    let q := s.cur
    let c := t.core q
    let r := v c.arch (rmode (nfield f.fn 0 3)) (scalarDraw c)
    nextSlot (writeX (advanceDraw (noteWrite t q i) q i) q lat f.d.toNat (BitVec.ofNat 64 r)) q

/-- FCVT by fn[7:5] (R328). -/
def fcvtValue (f : SR) (a : Word) (m : RMode) (u : Nat) : Nat :=
  let x := (tyFmt (fpType f)).decode (fpSource f a)
  match nfield f.fn 5 3 with
  | 0 => (Fmt.f32.ofVal m false x u).1
  | 1 => (Fmt.bf16.ofVal m false x u).1
  | 2 => (Fmt.f16.ofVal m false x u).1
  | 3 => (toIntCode 64 false m x u).1
  | 4 => (toIntCode 64 true m x u).1
  | 5 => ((tyFmt (fpType f)).ofVal m false (ofIntVal a.toInt) u).1
  | _ => ((tyFmt (fpType f)).ofVal m false (ofIntVal a.toNat) u).1

/-- R326, latency 4. -/
def execFadd (f : SR) (s : State) : Host.Outcome State Fault Refusal := .next (fpOp (.fadd f) f true false 4 (fun a m u =>
    (tyFmt (fpType f)).add m u (fpSource f (a.rx f.a.toNat)) (fpSource f (a.rx f.b.toNat))) s)

/-- R326, latency 4. -/
def execFsub (f : SR) (s : State) : Host.Outcome State Fault Refusal := .next (fpOp (.fsub f) f true false 4 (fun a m u =>
    (tyFmt (fpType f)).sub m u (fpSource f (a.rx f.a.toNat)) (fpSource f (a.rx f.b.toNat))) s)

/-- R326, latency 4. -/
def execFmul (f : SR) (s : State) : Host.Outcome State Fault Refusal := .next (fpOp (.fmul f) f true false 4 (fun a m u =>
    (tyFmt (fpType f)).mul m u (fpSource f (a.rx f.a.toNat)) (fpSource f (a.rx f.b.toNat))) s)

/-- R326, latency 18. -/
def execFdiv (f : SR) (s : State) : Host.Outcome State Fault Refusal := .next (fpOp (.fdiv f) f true false 18 (fun a m u =>
    (tyFmt (fpType f)).div m u (fpSource f (a.rx f.a.toNat)) (fpSource f (a.rx f.b.toNat))) s)

/-- R326, latency 4. -/
def execFfma (f : SR) (s : State) : Host.Outcome State Fault Refusal := .next (fpOp (.ffma f) f true false 4 (fun a m u =>
    (tyFmt (fpType f)).fma m u (fpSource f (a.rx f.a.toNat)) (fpSource f (a.rx f.b.toNat)) (fpSource f (a.rx f.d.toNat)) false) s)

/-- R326, latency 18. -/
def execFsqrt (f : SR) (s : State) : Host.Outcome State Fault Refusal := .next (fpOp (.fsqrt f) f true false 18 (fun a m u =>
    (tyFmt (fpType f)).sqrt m u (fpSource f (a.rx f.a.toNat))) s)

/-- R326, latency 1; fn[2:0] is ignored. -/
def execFmin (f : SR) (s : State) : Host.Outcome State Fault Refusal := .next (fpOp (.fmin f) f false false 1 (fun a _ _ =>
    (tyFmt (fpType f)).minMax false (fpSource f (a.rx f.a.toNat)) (fpSource f (a.rx f.b.toNat))) s)

/-- R326, latency 1; fn[2:0] is ignored. -/
def execFmax (f : SR) (s : State) : Host.Outcome State Fault Refusal := .next (fpOp (.fmax f) f false false 1 (fun a _ _ =>
    (tyFmt (fpType f)).minMax true (fpSource f (a.rx f.a.toNat)) (fpSource f (a.rx f.b.toNat))) s)

/-- R327. -/
def execFcmp (f : SR) (s : State) : Host.Outcome State Fault Refusal := .next (predOp (.fcmp f) (fpType f == 3) f.d (fun a =>
    (predOf ((tyFmt (fpType f)).cmp (nfield f.fn 5 3) (fpSource f (a.rx f.a.toNat)) (fpSource f (a.rx f.b.toNat))),
      BitVec.allOnes 512)) s)

/-- R328, latency 4; fn[7:5] of 7 raises ILL. -/
def execFcvt (f : SR) (s : State) : Host.Outcome State Fault Refusal := .next (fpOp (.fcvt f) f true (nfield f.fn 5 3 == 7) 4 (fun a m u => fcvtValue f (a.rx f.a.toNat) m u) s)

end Sys2Proof.Machine
end

