-- ==== Sys2Proof/Machine/Search.lean ====
section
/-! DEFINITION. Graph search beneath the stacks: the query packet, node records, distances, rounds, messages between search units,
and results (R102 to R121, R432). -/

namespace Sys2Proof.Machine

/-! ### Descriptor and node records (R102 to R105) -/

def gEtype (g : BitVec 512) : Nat := nfield g 0 8
def gDim (g : BitVec 512) : Nat := nfield g 16 16
def gDeg (g : BitVec 512) : Nat := nfield g 32 8
def gMask (g : BitVec 512) : Nat := nfield g 48 16
def gBase (g : BitVec 512) : Nat := nfield g 64 64
def gStride (g : BitVec 512) : Nat := nfield g 128 32
def gCount (g : BitVec 512) : Nat := nfield g 160 32
def gKey (g : BitVec 512) : Nat := nfield g 192 7

/-- Bytes of a vector of a dimension and type (R104). -/
def vecBytes (etype dim : Nat) : Nat := if etype = 0 then 2 * dim else if etype = 3 then dim / 2 + dim / 32 else dim

/-- Bytes of a node record. -/
def recordBytes (g : BitVec 512) : Nat := (64 + 8 * gDeg g + vecBytes (gEtype g) (gDim g) + 63) / 64 * 64

/-- Every field of a descriptor is in its range, every reserved one zero (R103). -/
def graphOk (g : BitVec 512) : Bool :=
  decide (gEtype g ≤ 3 ∧ nfield g 8 8 = 0 ∧ 32 ≤ gDim g ∧ gDim g ≤ 1024 ∧ gDim g % 32 = 0)
    && decide (4 ≤ gDeg g ∧ gDeg g ≤ 64 ∧ gDeg g % 4 = 0 ∧ nfield g 40 8 = 0)
    && decide (gBase g < 2 ^ 36 ∧ gBase g % 64 = 0 ∧ gStride g % 64 = 0 ∧ recordBytes g ≤ gStride g)
    && decide (nfield g 199 313 = 0)

/-- The stack and the local id of a node. -/
def nodeStack (n : Nat) : Nat := n / 2 ^ 36 % 16
def nodeLocal (n : Nat) : Nat := n % 2 ^ 36

/-- A node id names a stack of the graph and one of its nodes. -/
def nodeOk (g : BitVec 512) (n : Nat) : Bool := decide (gMask g / 2 ^ nodeStack n % 2 = 1 ∧ nodeLocal n < gCount g)

/-- What a node read finds: the failure of R116 (2 malformed, 3 status 3 or 4, 4 poison), or list and vector. -/
def readNode (s : State) (g : BitVec 512) (n : Nat) : Except Nat (List Nat × List Byte) :=
  let at_ := gBase g + nodeLocal n * gStride g
  let size := recordBytes g
  let pa := nodeStack n * 2 ^ 36 + at_
  if 2 ^ 36 < at_ + size then .error 3
  else
    let r := s.physRead (gKey g) 0 pa size
    if r.1 ≠ 0 then .error 3
    else if r.2.2 ≠ 0 then .error 4
    else
      let bs := r.2.1
      let deg := ((bs[0]?).getD 0).toNat
      let slots := (List.range deg).map fun i => natOfBytes ((bs.drop (64 + 8 * i)).take 8)
      let bad := (bs[1]?).getD 0 != 1 || decide (gDeg g < deg) || ((bs.drop 2).take 62).any (· != 0) ||
        slots.any fun x => decide (0 < x / 2 ^ 40) || !(nodeOk g x)
      if bad then .error 2
      else .ok (slots, (bs.drop (64 + 8 * gDeg g)).take (vecBytes (gEtype g) (gDim g)))

/-! ### Distances (R110, R111) -/

/-- The elements of a vector, widened exactly; an element of an FX4 block with scale exponent 63 is a NaN. -/
def vecElems (etype dim : Nat) (bs : List Byte) : List FVal :=
  let byte (i : Nat) : Nat := ((bs[i]?).getD 0).toNat
  (List.range dim).map fun i =>
    match etype with
    | 0 => Fmt.bf16.decode (byte (2 * i) + 256 * byte (2 * i + 1))
    | 1 => Fmt.e4m3.decode (byte i)
    | 2 => Fmt.e5m2.decode (byte i)
    | _ =>
      match fx4Scale (byte (dim / 2 + i / 32)) with
      | none => .nan false (2 ^ 22) 23
      | some (t, sc) => (fx4Code t (byte (i / 2) / 16 ^ (i % 2) % 16)).mul (.fin false sc)

/-- An exact value rounded once to f32. -/
def roundF32 (v : FVal) : Nat := if v.isNaN then Config.canonicalNaN32.toNat else (Fmt.f32.ofVal .rne false v 0).1

/-- Chunk sums of a term over 32 elements each, then their tree sum. -/
def chunkTree (term : FVal → FVal → FVal) (q x : List FVal) : Nat :=
  let ts := List.zipWith term q x
  let chunks := (List.range (ts.length / 32)).map fun c => roundF32 (FVal.sum .rne ((ts.drop (32 * c)).take 32))
  treeSum (fun _ a b => f32Add a b) 6 0 chunks

/-- The distance of two vectors under a metric. -/
def distance (metric : Nat) (q x : List FVal) : Nat :=
  let sq (a b : FVal) : FVal :=
    let d := FVal.sum .rne [a, b.neg]
    if d.isNaN then d else d.mul d
  let P := chunkTree FVal.mul q x
  let d :=
    match metric with
    | 0 => chunkTree sq q x
    | 1 => f32Neg P
    | _ =>
      let qq := chunkTree (fun a _ => a.mul a) q x
      let xx := chunkTree (fun _ b => b.mul b) q x
      if zero32 qq ∨ zero32 xx then one32
      else f32Sub one32 (f32Div P (Fmt.f32.sqrt .rne 0 (f32Mul qq xx)))
  if q.any FVal.isNaN ∨ x.any FVal.isNaN ∨ isNaN32 d then Config.canonicalNaN32.toNat else d

/-- Key a precedes key b: by distance, a NaN after every number, then by id. -/
def keyBefore (a b : Nat × Nat) : Bool :=
  match isNaN32 a.1, isNaN32 b.1 with
  | true, true => decide (a.2 < b.2)
  | true, false => false
  | false, true => true
  | false, false => lt32 a.1 b.1 || (eq32 a.1 b.1 && decide (a.2 < b.2))

/-- A key put into a list kept in ascending order. -/
def insertKey (k : Nat × Nat) : List (Nat × Nat) → List (Nat × Nat)
  | [] => [k]
  | x :: r => if keyBefore k x then k :: x :: r else x :: insertKey k r

/-! ### The query block (R106, R107) -/

def qGraph (b : BitVec 1024) : Word := b.extractLsb' 0 64
def qDst (b : BitVec 1024) : Word := b.extractLsb' 64 64
def qFlag (b : BitVec 1024) : Word := b.extractLsb' 128 64
def qValue (b : BitVec 1024) : Word := b.extractLsb' 192 64
def qVec (b : BitVec 1024) : Word := b.extractLsb' 256 64
def qEntry (b : BitVec 1024) (i : Nat) : Nat := nfield b (320 + 64 * i) 64
def qK (b : BitVec 1024) : Nat := nfield b 576 16
def qEf (b : BitVec 1024) : Nat := nfield b 592 16
def qW (b : BitVec 1024) : Nat := nfield b 608 8
def qMetric (b : BitVec 1024) : Nat := nfield b 616 8
def qInline (b : BitVec 1024) : Bool := b.getLsbD 624
def qRmax (b : BitVec 1024) : Nat := nfield b 640 16
def qId (b : BitVec 1024) : Nat := nfield b 672 32

/-- The entry nodes that are used, in slot order. -/
def qEntries (b : BitVec 1024) : List Nat := ((List.range 4).map (qEntry b)).filter fun x => x != 2 ^ 64 - 1

/-- Every field of a block is in its range, every reserved one zero. -/
def queryOk (b : BitVec 1024) : Bool :=
  let plain (w : Word) : Bool := decide (nfield w 59 5 = 0)
  plain (qGraph b) && plain (qDst b) && plain (qFlag b) && (qInline b || plain (qVec b))
    && decide (nfield (qDst b) 0 6 = 0 ∧ nfield (qFlag b) 0 3 = 0)
    && decide (1 ≤ qK b ∧ qK b ≤ 256 ∧ qK b ≤ qEf b ∧ qEf b ≤ 1024 ∧ 1 ≤ qW b ∧ qW b ≤ 8 ∧ qMetric b ≤ 2)
    && decide (nfield b 625 7 = 0 ∧ nfield b 632 8 = 0 ∧ nfield b 656 16 = 0 ∧ nfield b 704 320 = 0)
    && (qEntries b).all fun x => decide (x < 2 ^ 40)

/-- The entries suit the receiving stack and the graph. -/
def entriesOk (k : Nat) (b : BitVec 1024) (g : BitVec 512) : Bool :=
  decide (qEntry b 0 < 2 ^ 40 ∧ nodeStack (qEntry b 0) = k) && (qEntries b).all (nodeOk g)

/-- A read by the home of bytes at an address word, 4 KiB block by block, through the aperture as well: 3 for status 3 or 4, 4 for
poison (R93, R107). -/
def wordRead (s : State) (key : Nat) : Nat → Nat → Nat → State × Except Nat (List Byte)
  | 0, _, _ => (s, .ok [])
  | fuel + 1, a, len =>
    if len = 0 then (s, .ok [])
    else
      let n := min len (4096 - a % 4096)
      match homeRead s key 0 a n with
      | (t, st, bs, m) =>
        match wordRead t key fuel (a + n) (len - n) with
        | (u, .error 3) => (u, .error 3)
        | (u, r) => (u, if st ≠ 0 then .error 3 else if m ≠ 0 then .error 4 else r.map fun x => bs ++ x)

/-- A read at an address word. -/
def atWord (s : State) (w : Word) (len : Nat) : State × Except Nat (List Byte) := wordRead s (nfield w 52 7) 2 (nfield w 0 52) len

/-- What acceptance finds: a status that ends the query at once, or its descriptor and vector. -/
def openQuery (s : State) (k : Nat) (b : BitVec 1024) (extra : List Byte) : State × Except Nat (BitVec 512 × List Byte) :=
  if !(queryOk b) then (s, .error 5)
  else
    match atWord s (qGraph b) 64 with
    | (t, .error e) => (t, .error e)
    | (t, .ok gb) =>
      let g := bitsOfBytes 512 gb
      if !(graphOk g) || !(entriesOk k b g) then (t, .error 5)
      else
        let n := vecBytes (gEtype g) (gDim g)
        if qInline b then (t, if extra.length ≠ (n + 31) / 32 * 32 then .error 5 else .ok (g, extra.take n))
        else
          match atWord t (qVec b) n with
          | (u, .error e) => (u, .error e)
          | (u, .ok v) => (u, .ok (g, v))

/-! ### The visited set (R112) -/

/-- The bits of the filter an id uses. -/
def bloomBits (n : Nat) : List Nat :=
  let m := n * 0x9E3779B97F4A7C15 % 2 ^ 64
  [0, 1, 2, 3].map fun j => m / 2 ^ (15 * j) % 2 ^ 19

/-- A filter with an id entered. -/
def bloomAdd (f n : Nat) : Nat := (bloomBits n).foldl (fun f i => f ||| 2 ^ i) f

/-- Ids an exact visited set holds. -/
def exactRoom : Nat := 16384

/-- The set holds an id, or its filter says so. -/
def Query.visitedHas (q : Query) (n : Nat) : Bool :=
  match q.bloom with
  | some f => (bloomBits n).all fun i => f.testBit i
  | none => q.seen.contains n

/-- An id not in the set is marked; the 16,385th turns the set into a filter. -/
def Query.mark (q : Query) (n : Nat) : Query :=
  match q.bloom with
  | some f => { q with bloom := some (bloomAdd f n), visited := q.visited + 1 }
  | none =>
    if q.seen.length < exactRoom then { q with seen := n :: q.seen, visited := q.visited + 1 }
    else { q with bloom := some (bloomAdd (q.seen.foldl bloomAdd 0) n), seen := [], visited := q.visited + 1 }

/-- New ids of a list, in order: each is marked and appended. -/
def Query.markAll (q : Query) : List Nat → Query
  | [] => q
  | n :: r => if q.visitedHas n then q.markAll r else Query.markAll { q.mark n with news := q.news ++ [n] } r

/-! ### Rounds (R113 to R116) -/

/-- A query as accepted. -/
def newQuery (id : Nat) (b : BitVec 1024) (g : BitVec 512) (v : List Byte) : Query :=
  { id := id, block := b, desc := g, vec := v, c := [], w := [], seen := [], bloom := none, visited := 0, rounds := 0, nan := false,
    phase := 0, entered := false, popped := [], lists := [], news := [], dists := [], waiting := 0, fail := none, status := none,
    bad := 0 }

/-- A change of one query of a home. -/
def modQuery (s : State) (k id : Nat) (f : Query → Query) : State :=
  s.modStack k fun x => { x with queries := x.queries.map fun q => if q.id = id then f q else q }

def State.query (s : State) (k id : Nat) : Option Query := (s.stack k).queries.find? fun q => q.id == id

/-- A failed node read: of several the one of the lowest id counts (R116). -/
def Query.failed (q : Query) (n code : Nat) : Query :=
  match q.fail with
  | some f => if n < f.1 then { q with fail := some (n, code) } else q
  | none => { q with fail := some (n, code) }

/-- Neighbour lists read. -/
def Query.readLists (q : Query) (s : State) (ns : List Nat) : Query :=
  ns.foldl (fun q n =>
    match readNode s q.desc n with
    | .ok r => { q with lists := q.lists ++ [(n, r.1)] }
    | .error e => q.failed n e) q

/-- Distances computed. -/
def Query.readDists (q : Query) (s : State) (ns : List Nat) : Query :=
  let g := q.desc
  let qv := vecElems (gEtype g) (gDim g) q.vec
  ns.foldl (fun q n =>
    match readNode s g n with
    | .ok r =>
      let d := distance (qMetric q.block) qv (vecElems (gEtype g) (gDim g) r.2)
      { q with dists := q.dists ++ [(d, n)], nan := q.nan || isNaN32 d }
    | .error e => q.failed n e) q

/-- Ids of other stacks, by stack. -/
def remoteIds (k : Nat) (ns : List Nat) : List (Nat × List Nat) :=
  ((List.range 16).filter (· != k)).filterMap fun r =>
    let l := ns.filter fun n => nodeStack n == r
    if l.isEmpty then none else some (r, l)

/-- A list cut into runs of at most 64. -/
def runs64 : Nat → List Nat → List (List Nat)
  | 0, _ => []
  | f + 1, l => if l.isEmpty then [] else l.take 64 :: runs64 f (l.drop 64)

/-- LIST messages for the popped nodes of other stacks; the home reads its own. -/
def startLists (s : State) (k : Nat) (q : Query) : State :=
  let rs := remoteIds k q.popped
  let q1 := { q.readLists s (q.popped.filter fun n => nodeStack n == k) with phase := 1, waiting := rs.length }
  rs.foldl (fun t r => t.modStack r.1 fun x => { x with listReq := x.listReq ++ [{ home := k, query := q.id, ids := r.2 }] })
    (modQuery s k q.id fun _ => q1)

/-- DIST messages, up to 64 ids each, for the new nodes of other stacks; the home computes its own. -/
def startDists (s : State) (k : Nat) (q : Query) : State :=
  let ms := (remoteIds k q.news).flatMap fun r => (runs64 (r.2.length / 64 + 1) r.2).map fun l => (r.1, l)
  let q1 := { q.readDists s (q.news.filter fun n => nodeStack n == k) with phase := 2, waiting := ms.length }
  ms.foldl (fun t r => t.modStack r.1 fun x => { x with distReq := x.distReq ++ [{ home := k, query := q.id, ids := r.2 }] })
    (modQuery s k q.id fun _ => q1)

/-- The best candidate comes after the worst result of a full result heap. -/
def Query.settled (q : Query) : Bool :=
  match q.c, q.w.getLast? with
  | best :: _, some worst => q.w.length == qEf q.block && keyBefore worst best
  | _, _ => false

/-- Up to n candidates popped for expansion. -/
def Query.popBest (q : Query) : Nat → Query
  | 0 => q
  | n + 1 =>
    match q.c with
    | [] => q
    | b :: r => if q.settled then q else Query.popBest { q with c := r, popped := q.popped ++ [b.2] } n

/-- Insertion by R115, in ascending order; the first that fails ends it. -/
def Query.insertAll (q : Query) : List (Nat × Nat) → Query
  | [] => q
  | e :: r =>
    let ef := qEf q.block
    let fits := decide (q.w.length < ef) || (match q.w.getLast? with
      | some worst => keyBefore e worst
      | none => true)
    if fits then Query.insertAll { q with w := (insertKey e q.w).take ef, c := (insertKey e q.c).take ef } r else q

/-- The query ends. -/
def Query.ends (q : Query) (st bad : Nat) : Query := { q with status := some st, bad := bad }

/-- The step of a query: between rounds the test of R113 and the next lists; after the lists the new nodes and their distances; after
the distances the insertions. A failure ends it with its phase (R116). -/
def searchRound (s : State) (k id : Nat) : State :=
  match s.query k id with
  | none => s
  | some q =>
    if q.status.isSome ∨ q.waiting ≠ 0 then s
    else
      match q.phase with
      | 0 =>
        if !q.entered then startDists s k ({ q with entered := true }.markAll (qEntries q.block))
        else if q.c.isEmpty || q.settled then modQuery s k id fun q => q.ends 0 0
        else if qRmax q.block ≠ 0 ∧ q.rounds = qRmax q.block then modQuery s k id fun q => q.ends 1 0
        else startLists s k (Query.popBest { q with popped := [], lists := [], news := [], dists := [] } (qW q.block))
      | 1 =>
        match q.fail with
        | some f => modQuery s k id fun q => q.ends f.2 f.1
        | none =>
          let order := q.popped.flatMap fun n => match q.lists.find? fun l => l.1 == n with
            | some l => l.2
            | none => []
          startDists s k (q.markAll order)
      | _ =>
        match q.fail with
        | some f => modQuery s k id fun q => q.ends f.2 f.1
        | none =>
          let e := q.dists.foldl (fun l x => insertKey x l) []
          modQuery s k id fun q => { q.insertAll e with
            phase := 0
            rounds := if q.popped.isEmpty then q.rounds else q.rounds + 1
            news := []
            dists := [] }

/-- R113. -/
def execSearchRound (s : State) : Host.Outcome State Fault Refusal := .next (searchRound s s.arg.a s.arg.b)

/-- R114: a search unit answers the oldest LIST message with the lists of its nodes. -/
def listMessage (s : State) (k : Nat) : State :=
  match (s.stack k).listReq with
  | [] => s
  | m :: rest =>
    modQuery (s.modStack k fun x => { x with listReq := rest }) m.home m.query fun q =>
      { q.readLists s m.ids with waiting := q.waiting - 1 }

/-- R114: a search unit answers the oldest DIST message with the distances of its nodes. -/
def distMessage (s : State) (k : Nat) : State :=
  match (s.stack k).distReq with
  | [] => s
  | m :: rest =>
    modQuery (s.modStack k fun x => { x with distReq := rest }) m.home m.query fun q =>
      { q.readDists s m.ids with waiting := q.waiting - 1 }

/-- R114. -/
def execListMessage (s : State) : Host.Outcome State Fault Refusal := .next (listMessage s s.arg.a)

/-- R114. -/
def execDistMessage (s : State) : Host.Outcome State Fault Refusal := .next (distMessage s s.arg.a)

/-! ### Completion (R118 to R120) -/

/-- The result header. -/
def resultHeader (qid st sflags n rounds visited bad : Nat) : List Byte :=
  bytesOf (BitVec.ofNat 512 (qid + 2 ^ 32 * st + 2 ^ 40 * sflags + 2 ^ 48 * n + 2 ^ 64 * (rounds % 2 ^ 32) + 2 ^ 96 * (visited % 2 ^ 32)
    + 2 ^ 128 * bad)) 64

/-- Result entries, k of them: n keys, then none (R118). -/
def resultEntries (k n : Nat) (w : List (Nat × Nat)) : List Byte :=
  (List.range k).flatMap fun i =>
    match (if i < n then w[i]? else none) with
    | some e => bytesOf (BitVec.ofNat 128 (e.2 + 2 ^ 64 * e.1)) 16
    | none => bytesOf (BitVec.ofNat 128 (2 ^ 64 - 1 + 2 ^ 64 * 0x7FC00000)) 16

/-- Bytes written at a physical address in runs of 64. -/
def writeRuns (s : State) (d key : Nat) : Nat → Nat → List Byte → Nat × State
  | 0, _, _ => (0, s)
  | fuel + 1, a, bs =>
    if bs.isEmpty then (0, s)
    else
      let w := engPhysWrite s d key a (bs.take 64) false
      if w.1 ≠ 0 then w else writeRuns w.2 d key fuel (a + 64) (bs.drop 64)

/-- The result area and then the flag, with release, by die d; what cannot be delivered is logged at stack k with kind 4 (R118 to
R120). -/
def deliver (s : State) (d k : Nat) (b : BitVec 1024) (header entries : List Byte) : State :=
  let at_ := nfield (qDst b) 0 52
  let r := writeRuns s d (nfield (qDst b) 52 7) ((header.length + entries.length) / 64 + 1) at_ (header ++ entries)
  if r.1 ≠ 0 then writeStackLog s k 4 at_ 0
  else
    let f := writeFlag r.2 d (qFlag b) (qValue b)
    if f.1 ≠ 0 then writeStackLog r.2 k 4 at_ 0 else f.2

/-- The result of an ended query of home k. -/
def finishQuery (s : State) (k : Nat) (q : Query) (st : Nat) : State :=
  let n := min (qK q.block) q.w.length
  let sflags := (if q.bloom.isSome then 1 else 0) + (if q.nan then 2 else 0)
  deliver s (k / 2 + 1) k q.block (resultHeader (qId q.block) st sflags n q.rounds q.visited q.bad) (resultEntries (qK q.block) n q.w)

/-- R118: an ended query writes its result and its flag and gives up its slot. -/
def searchComplete (s : State) (k id : Nat) : State :=
  match s.query k id with
  | none => s
  | some q =>
    match q.status with
    | none => s
    | some st => (finishQuery s k q st).modStack k fun x => { x with queries := x.queries.filter fun y => y.id != id }

/-- R118. -/
def execSearchComplete (s : State) : Host.Outcome State Fault Refusal := .next (searchComplete s s.arg.a s.arg.b)

/-- Queries a home holds (R108). -/
def queryRoom : Nat := 64

/-- R107, R108: the home takes a query block: it holds the query, or ends it at once. -/
def takeQuery (s : State) (k : Nat) (data : List Byte) : State :=
  let b := bitsOfBytes 1024 (data.take 128)
  let id := (s.stack k).nextQuery
  if queryRoom ≤ (s.stack k).queries.length then finishQuery s k (newQuery id b 0 []) 6
  else
    let enter (t : State) (q : Query) : State := t.modStack k fun x => { x with queries := x.queries ++ [q], nextQuery := id + 1 }
    match openQuery s k b (data.drop 128) with
    | (t, .ok r) => enter t (newQuery id b r.1 r.2)
    | (t, .error st) => enter t ((newQuery id b 0 []).ends st 0)

/-- R107: a SRCH is answered with status 0 and its query starts. -/
def stackSrch (s : State) (k : Nat) : State :=
  match headReq s k 6 with
  | none => s
  | some r =>
    let s1 := answer s k r (replyTo s k r 0 0 [])
    takeQuery s1 k r.data

/-- R107. -/
def execStackSrch (s : State) : Host.Outcome State Fault Refusal := .next (stackSrch s s.arg.a)

/-! ### The search dispatcher of a die (R432) -/

/-- The dispatcher reads a block for a core: a page that fails leaves zeros; its status, and whether its first page, which holds the
result address and the flag, could be read (R418). -/
def dispatchRead (s : State) (d asid va len : Nat) : State × Nat × Bool × List Byte :=
  let first := min len (4096 - va % 4096)
  let part (t : State) (a n : Nat) : State × Nat × List Byte :=
    match engRead t d 1 asid a n with
    | (u, .ok r) => (u, if r.2 ≠ 0 then 4 else 0, r.1)
    | (u, .error _) => (u, 3, List.replicate n 0)
  let a := part s va first
  let b := if first < len then part a.1 (va + first) (len - first) else (a.1, 0, [])
  let st := if a.2.1 = 3 ∨ b.2.1 = 3 then 3 else max a.2.1 b.2.1
  (b.1, st, a.2.1 != 3, a.2.2 ++ b.2.2)

/-- A released NNQ: the block goes as a SRCH to the stack of its first entry, or the dispatcher reports its failed read itself;
a header it cannot write is logged at stack 2k of its die. -/
def dispatchQuery (s : State) (d quad asid va len : Nat) : State :=
  let r := dispatchRead s d asid va len
  let b := bitsOfBytes 1024 (r.2.2.2.take 128)
  let k := 2 * (d - 1)
  if r.2.1 ≠ 0 then
    if r.2.2.1 then deliver r.1 d k b (resultHeader (qId b) r.2.1 0 0 0 0 0) []
    else writeStackLog r.1 k 4 0 0
  else
    let req : Req :=
      { id := 0, op := 6, addr := 0, len := len, key := 0, qos := 2, afn := 0, flt := false, die := d, agent := 0, tag := r.1.fresh % 4096,
        gen := 0, emask := 0xFF, flush := false, pois := false, data := r.2.2.2, ben := [], since := 0, clock := [], acquire := false,
        pa := 0, home := 0, fill := false }
    let s1 := r.1.modDie d fun x => { x with nnq := x.nnq ++ [(va, len, quad, asid)] }
    arriveReq { s1 with fresh := s1.fresh + 1 } (nodeStack (qEntry b 0)) req

end Sys2Proof.Machine
end

