-- ==== Sys2Proof/Machine/Migrate.lean ====
section
/-! DEFINITION. The page-migration engine of a stack: its ring, its commands page by page, compression of far copies, and the
shootdown of a page (R92 to R97, R180). -/

namespace Sys2Proof.Machine

/-! ### The ring (R95) -/

def migAt (k : Nat) (s : State) : Nat := nfield (s.stack k).migBase 14 38 * 2 ^ 14
def migKey (k : Nat) (s : State) : Nat := nfield (s.stack k).migBase 52 7

/-- Base-die cycles between two reads of the producer index. -/
def migPeriod : Nat := 1024

/-- The engine is enabled and its next read of the producer index is due. -/
def pollDue (s : State) (k : Nat) : Bool := migAt k s != 0 && decide ((s.stack k).migPoll ≤ s.baseCycle)

/-- A read of the engine of stack k at a physical address: of far memory too, which serves it alone (R94). -/
def migRead (s : State) (key pa len : Nat) : Nat × List Byte × Nat :=
  if inFar pa && inFar (pa + len - 1) then
    match s.keyOf key with
    | some ks => (0, s.bytesAt ks 0 pa len, s.pmask 0 pa len)
    | none => (3, List.replicate len 0, 0)
  else s.physRead key 0 pa len

/-- A write of the engine at a physical address: to far memory too (R94). -/
def migPut (s : State) (d key pa : Nat) (bs : List Byte) : State :=
  if inFar pa && inFar (pa + bs.length - 1) then
    match s.keyOf key with
    | some ks => poisonRun (putRun s ks 0 pa (bs.map some)) 0 pa (bs.map some) false
    | none => s
  else (engPhysWrite s d key pa bs false).2

/-- A word of the ring's page, none when it cannot be read. -/
def migWord (s : State) (k off n : Nat) : Option Nat :=
  let r := migRead s (migKey k s) (migAt k s + off) n
  if r.1 = 0 then some (natOfBytes r.2.1) else none

/-- R95: the producer index is read. -/
def migrationPoll (s : State) (k : Nat) : State :=
  if !(pollDue s k) then s
  else s.modStack k fun x => { x with migProd := migWord s k 0x4000 4, migPoll := s.baseCycle + migPeriod }

/-- R95. -/
def execMigrationPoll (s : State) : Host.Outcome State Fault Refusal := .next (migrationPoll s s.arg.a)

/-- The number of the command to execute next: the consumer index, when the producer index read last differs and is in range. -/
def nextCommand (s : State) (k : Nat) : Option Nat :=
  if migAt k s = 0 then none
  else
    match (s.stack k).migProd, migWord s k 0x4004 4 with
    | some p, some c =>
      let ahead := (p + 2 ^ 32 - c) % 2 ^ 32
      if ahead = 0 ∨ 256 < ahead then none else some c
    | _, _ => none

/-- Bytes of command n. -/
def commandBytes (s : State) (k n : Nat) : BitVec 512 :=
  bitsOfBytes 512 (migRead s (migKey k s) (migAt k s + 64 * (n % 256)) 64).2.1

def mcOp (c : BitVec 512) : Nat := nfield c 0 8
def mcAsid (c : BitVec 512) : Nat := nfield c 16 16
def mcPages (c : BitVec 512) : Nat := nfield c 32 32
def mcVa (c : BitVec 512) : Nat := nfield c 64 64
def mcTarget (c : BitVec 512) : Nat := nfield c 128 52
def mcTargetKey (c : BitVec 512) : Nat := nfield c 180 7
def mcTargetHome (c : BitVec 512) : Nat := nfield c 187 2
def mcRecord (c : BitVec 512) : Nat := nfield c 192 52
def mcFlag (c : BitVec 512) : Word := c.extractLsb' 256 64
def mcValue (c : BitVec 512) : Word := c.extractLsb' 320 64

/-- The op a migration engine works on, or will take up next; none while it is disabled (R95). -/
def migOp (s : State) (k : Nat) : Option Nat :=
  if migAt k s = 0 then none
  else
  match (s.stack k).migration with
  | some m => some (mcOp m.cmd)
  | none => (nextCommand s k).map fun n => mcOp (commandBytes s k n)

/-- The command's bytes 51 to 48 and 52, its flag with release, and the consumer index (R95, R96). -/
def endCommand (s : State) (k number done status : Nat) (c : BitVec 512) : State :=
  let d := k / 2 + 1
  let at_ := migAt k s + 64 * (number % 256) + 48
  let s1 := migPut s d (migKey k s) at_ (bytesOf (BitVec.ofNat 32 done) 4 ++ [BitVec.ofNat 8 status])
  let s2 := migPut (engRelease s1 d) d (nfield (mcFlag c) 52 7) (nfield (mcFlag c) 0 52) (bytesOf (mcValue c) 8)
  let s3 := migPut s2 d (migKey k s) (migAt k s + 0x4004) (bytesOf (BitVec.ofNat 32 (number + 1)) 4)
  s3.modStack k fun x => { x with migration := none }

/-- R96: a command with another op moves no page and reports status 5. -/
def migrateBadOp (s : State) (k : Nat) : State :=
  match nextCommand s k with
  | none => s
  | some n =>
    let c := commandBytes s k n
    if 1 ≤ mcOp c ∧ mcOp c ≤ 3 then s else endCommand s k n 0 5 c

/-- R96. -/
def execMigrateBadOp (s : State) : Host.Outcome State Fault Refusal := .next (migrateBadOp s s.arg.a)

/-! ### Shootdown (R96 step 4, R180) -/

/-- TLB entries of an address space that meet a range are dropped, in every L1 and last-level TLB. -/
def shootRange (s : State) (drop : Nat × Nat × Nat × Word → Bool) : State :=
  let keep (l : List (Nat × Nat × Nat × Word)) : List (Nat × Nat × Nat × Word) := l.filter fun e => !(drop e)
  { s with
    cores := s.cores.foldl (fun t p => sset CoreSt.reset t p.1 { p.2 with tlb := keep p.2.tlb }) s.cores
    dies := s.dies.foldl (fun t p => sset DieSt.reset t p.1 { p.2 with tlb := keep p.2.tlb }) s.dies }

/-- A translation of an address space covers a byte of a range of virtual addresses. -/
def coversVa (asid va len : Nat) (e : Nat × Nat × Nat × Word) : Bool := e.1 == asid && runsMeet e.2.1 e.2.2.1 va len

/-- The lines of a physical range are written back and dropped in every RDC. -/
def flushRange (s : State) (pa len : Nat) : State :=
  (List.range 10).foldl (fun t d =>
    ((t.die d).rdc.filter fun l => runsMeet l.2.place.pa 128 pa len).foldl (fun u l => dropLine (writeBackLine u d l.2) d l.1) t) s

/-- A request of a core that is already translated and not yet performed touches a physical range. -/
def pendingTo (s : State) (hit : Place → Nat → Bool) : Bool :=
  s.cores.any fun p =>
    p.2.lsq.any (fun m => (match m.kind with
      | .tmpl => false
      | _ => true) && decide (m.phase < 2) && hit m.place m.len)
    || p.2.actions.any (fun a => match a.2 with
      | .pfr _ _ _ _ spec _ pl _ => spec != 0 && !(specLocal spec) && hit pl 8
      | _ => false)
  || s.dies.any fun p => p.2.prefetches.any fun f => f.token.spec != 0 && !(specLocal f.token.spec) && hit f.place 8

/-- Requests translated to a physical range are under way. -/
def rangeBusy (s : State) (pa len : Nat) : Bool := pendingTo s fun p n => runsMeet p.pa n pa len

/-! ### Pages (R96) -/

/-- The PTE with V clear and M set. -/
def pteMoving (p : Word) : Word := (p &&& ~~~(1 : Word)) ||| (1 : Word) <<< 54

/-- The PTE of a moved page: valid, M clear, with its new tier, address, key, home mode and Z. -/
def pteMoved (p : Word) (far z : Bool) (pa key home : Nat) : Word :=
  let stack := if home = 0 then pa / 2 ^ 36 % 16 else 0
  let clear : Word := ~~~(0x7FFFFFFFFFFFFFC0#64) &&& p
  clear ||| 1 ||| BitVec.ofNat 64 (2 ^ 6 * home + 2 ^ 8 * stack + 2 ^ 12 * (pa / 4096 % 2 ^ 40) + (if far then 2 ^ 53 else 0)
    + 2 ^ 55 * (key % 128) + (if z then 2 ^ 62 else 0)) ||| (p &&& (1 : Word) <<< 52)

/-- The key slot under which an address space's tables are read. -/
def tableKey (s : State) (asid : Nat) : Nat :=
  let base := nfield s.astBase 15 37 * 32768
  nfield (bitsOfBytes 64 (s.physRead (nfield s.astBase 52 7) 0 (base + 8 * asid) 8).2.1) 52 7

/-- An entry compared and swapped in its table; none when it has changed. -/
def swapPte (s0 : State) (d key at_ : Nat) (old new : Word) : Option State :=
  let s := flushLine s0 d (at_ / 128)
  let r := s.physRead key 0 at_ 8
  if r.1 = 0 ∧ bitsOfBytes 64 r.2.1 = old then some (engPhysWrite s d key at_ (bytesOf new 8) false).2 else none

/-- Bytes written by the engine at a physical address of either tier, granule by granule. -/
def migWrite (s : State) (d key home : Nat) : Nat → Nat → List (List Byte × Bool) → State
  | _, _, [] => s
  | 0, _, _ => s
  | fuel + 1, a, p :: r =>
    let s1 :=
      if a < 2 ^ 40 then
        let w := physWrite s key home a (p.1.map some) p.2 (clockList (s.die d).vc)
        if w.1 = 0 then noteAcks s d w.2 else w.2
      else if !(inFar a) then s
      else
        match s.keyOf key with
        | some ks =>
          let t := poisonRun (putRun s ks 0 a (p.1.map some)) 0 a (p.1.map some) p.2
          { t with farBad := (List.range (p.1.length / 64)).foldl (fun l i => sset false l (a / 64 + i) false) t.farBad }
        | none => s
    migWrite s1 d key home fuel (a + p.1.length) r

/-- A source page as granules with their poison. -/
def pageGranules (s : State) (key home pa size : Nat) : List (List Byte × Bool) :=
  let ks := (s.keyOf key).getD 0
  (List.range (size / 64)).map fun i => (s.bytesAt ks home (pa + 64 * i) 64, s.poisonedAt home (pa + 64 * i))

/-- The lines of a far range are fetched: where the far memory answers poison for a line that held no poisoned granule, a record of kind
3 is written, and the granules are marked (R98, R100). -/
def noteFarPoison (s : State) (k pa size : Nat) : State :=
  (List.range (size / 128)).foldl (fun t i =>
    let g := (pa + 128 * i) / 64
    let bad (n : Nat) : Nat := if sget false t.farBad n then 1 else 0
    if bad g + bad (g + 1) = 0 then t
    else
      let clean := !(sget false t.poison g) && !(sget false t.poison (g + 1))
      let mark (p : Sparse Bool) (n : Nat) : Sparse Bool := if sget false t.farBad n then sset false p n true else p
      let u := { t with poison := mark (mark t.poison g) (g + 1), farBad := sset false (sset false t.farBad g false) (g + 1) false }
      if clean then writeStackLog u k 3 (64 * g) (bad g + 2 * bad (g + 1)) else u) s

/-- The blocks of a page encoded one after the other: descriptors, stored bytes with the poison of their block (R92, R96). The first
block follows the descriptors at once, at offset 8 for a page of 4 KiB, though R91 makes offsets multiples of 32: a slot has no room for
more (DESIGN CHOICE, log 70). -/
def packPage (etype : Nat) : Nat → Nat → List (List Byte × Bool) → List Nat × List (List Byte × Bool)
  | 0, _, _ => ([], [])
  | n + 1, off, gs =>
    let now := gs.take 64
    let b := packBlock etype (now.flatMap Prod.fst)
    let len := b.2.length
    let desc := off + 2 ^ 40 * len + (if b.1 then 2 ^ 53 else 0) + 2 ^ 54 * etype
    let rest := packPage etype n (off + len) (gs.drop 64)
    (desc :: rest.1, (b.2, now.any Prod.snd) :: rest.2)

/-- A far slot decoded block by block; a corrupt one is zeros, poisoned, with a record of kind 2 (R96). -/
def unpackSlot (s : State) (k key slot target : Nat) : Nat → Nat → State × List (List Byte × Bool)
  | 0, _ => (s, [])
  | n + 1, j =>
    let ks := (s.keyOf key).getD 0
    let desc := natOfBytes (s.bytesAt ks 0 (slot + 8 * j) 8)
    let marks := s.blockMarks (slot + 8 * j) (slot + desc % 2 ^ 40) desc
    let cut (bs : List Byte) (m : Nat) : List (List Byte × Bool) :=
      (List.range 64).map fun i => ((bs.drop (64 * i)).take 64, decide (m / 2 ^ i % 2 = 1))
    match s.storedBlock ks slot desc (desc / 2 ^ 54 % 8) true with
    | some bs =>
      let r := unpackSlot s k key slot target n (j + 1)
      (r.1, cut bs marks ++ r.2)
    | none =>
      let r := unpackSlot (writeStackLog s k 2 (target + 4096 * j) 0) k key slot target n (j + 1)
      (r.1, cut (List.replicate 4096 0) (2 ^ 64 - 1) ++ r.2)

/-- The object record: its etype and flags. -/
def objectRecord (s : State) (k : Nat) (c : BitVec 512) : Nat × Nat :=
  let r := (migRead s (migKey k s) (mcRecord c) 64).2.1
  (((r[18]?).getD 0).toNat, ((r[19]?).getD 0).toNat)

/-- Step 5: a page copied to its target; whether the target holds a compressed copy. -/
def copyPage (s : State) (k : Nat) (m : Migration) (pte : Word) (src size : Nat) : State × Bool :=
  let c := m.cmd
  let d := k / 2 + 1
  let key := nfield pte 55 7
  let home := nfield pte 6 2
  let target := m.target / size * size
  if mcOp c = 1 then
    let o := objectRecord s k c
    let gs := pageGranules s key home src size
    if o.2 % 2 = 1 then
      let n := size / 4096
      let p := packPage o.1 n (8 * n) gs
      let descs := (p.1.map fun x => (bytesOf (BitVec.ofNat 64 x) 8, false))
      (migWrite s d (mcTargetKey c) 0 (2 * n + 1) target (descs ++ p.2), true)
    else (migWrite s d (mcTargetKey c) 0 (size / 64 + 1) target gs, false)
  else if pte.getLsbD 62 then
    let s1 := noteFarPoison s k src (size + size / 512)
    let u := unpackSlot s1 k key src target (size / 4096) 0
    (migWrite u.1 d (mcTargetKey c) (mcTargetHome c) (size / 64 + 1) target u.2, false)
  else
    let s1 := noteFarPoison s k src size
    (migWrite s1 d (mcTargetKey c) (mcTargetHome c) (size / 64 + 1) target (pageGranules s key 0 src size), false)

/-- The command after a page: its status, the next page and target (R96). -/
def Migration.after (m : Migration) (status size : Nat) : Migration :=
  let next := m.va / size * size + size
  { m with
    status := if m.status = 0 then status else m.status
    handled := m.handled + 1
    completed := m.completed + (if status = 0 then 1 else 0)
    target := m.target + (next - m.va)
    va := next
    moving := none }

/-- The progress of a command is kept. -/
def setMigration (s : State) (k : Nat) (m : Migration) : State := s.modStack k fun x => { x with migration := some m }

/-- Steps 1 to 4 for the page a command is at; op 3 leaves the entry as it is. The engine reads the tables as .bp accesses of its matrix
die (R175, R184). -/
def startPage (s0 : State) (k : Nat) (m : Migration) : State :=
  let c := m.cmd
  let s := flushWalk s0 (k / 2 + 1) (mcAsid c) m.va
  match s.walk (mcAsid c) m.va with
  | .fail _ _ => setMigration s k (m.after 4 4096)
  | .leaf pte level at_ =>
    let size := leafSize level (pte.getLsbD 5)
    let far := pte.getLsbD 53
    if pte.getLsbD 0 = false then setMigration s k (m.after 4 4096)
    else if leafKind (pte &&& ~~~((1 : Word) <<< 53) &&& ~~~((1 : Word) <<< 62)) level = 2 then setMigration s k (m.after 4 size)
    else if far != (mcOp c != 1) then setMigration s k (m.after 1 size)
    else if mcOp c = 1 ∧ (objectRecord s k c).2 / 2 % 2 = 1 then setMigration s k (m.after 3 size)
    else
      let src := nfield pte 12 40 * 4096 / size * size
      let key := tableKey s (mcAsid c)
      match (if mcOp c = 3 then some s else swapPte s (k / 2 + 1) key at_ pte (pteMoving pte)) with
      | none => setMigration s k (m.after 2 size)
      | some t =>
        let t1 := shootRange t (coversVa (mcAsid c) (m.va / size * size) size)
        setMigration (flushRange t1 src size) k { m with moving := some (pte, at_, key, level) }

/-- Steps 5 and 6: the page is copied and its entry made valid again, unless software has changed it (ops 1 and 2). DEDUCED, log 47. -/
def finishPage (s : State) (k : Nat) (m : Migration) (pte : Word) (at_ key level : Nat) : State :=
  let c := m.cmd
  let size := leafSize level (pte.getLsbD 5)
  let src := nfield pte 12 40 * 4096 / size * size
  if rangeBusy s src size then s
  else
    let r := copyPage (flushRange s src size) k m pte src size
    let far := decide (mcOp c = 1)
    let new := pteMoved pte far r.2 (m.target / size * size) (mcTargetKey c) (if far then 0 else mcTargetHome c)
    match (if mcOp c = 3 then some r.1 else swapPte r.1 (k / 2 + 1) key at_ (pteMoving pte) new) with
    | some t => setMigration t k (m.after 0 size)
    | none => setMigration r.1 k (m.after 2 size)

/-- One step of a command of an op: it is taken up, a page is set in motion, copied and made valid, or the command ends. -/
def migrateStep (s : State) (k op : Nat) : State :=
  if migAt k s = 0 then s
  else
  match (s.stack k).migration with
  | none =>
    match nextCommand s k with
    | none => s
    | some n =>
      let c := commandBytes s k n
      if mcOp c ≠ op then s
      else setMigration s k
        { number := n, cmd := c, va := mcVa c % 2 ^ 48, target := mcTarget c, handled := 0, completed := 0, status := 0, moving := none }
  | some m =>
    if mcOp m.cmd ≠ op then s
    else
      match m.moving with
      | some x => finishPage s k m x.1 x.2.1 x.2.2.1 x.2.2.2
      | none =>
        if mcPages m.cmd ≤ m.handled then endCommand s k m.number m.completed m.status m.cmd else startPage s k m

/-- A migration engine has something to do: requests to the page in motion hold it up. -/
def migrateDue (s : State) (k : Nat) : Bool :=
  match (s.stack k).migration with
  | none => (nextCommand s k).isSome
  | some m =>
    match m.moving with
    | some x =>
      let size := leafSize x.2.2.2 (x.1.getLsbD 5)
      !(rangeBusy s (nfield x.1 12 40 * 4096 / size * size) size)
    | none => true

/-- R96: op 1. -/
def execMigrateToFar (s : State) : Host.Outcome State Fault Refusal := .next (migrateStep s s.arg.a 1)

/-- R96: op 2. -/
def execMigrateToNear (s : State) : Host.Outcome State Fault Refusal := .next (migrateStep s s.arg.a 2)

/-- R96: op 3. -/
def execMigrateFetch (s : State) : Host.Outcome State Fault Refusal := .next (migrateStep s s.arg.a 3)

end Sys2Proof.Machine
end

