-- ==== Sys2Proof/Machine/Trestle.lean ====
section
/-! DEFINITION. Trestle: capture, frames, decrements, releases, the ranking and its grants, failure and completion
(R54 to R59, R61, R122 to R140). -/

namespace Sys2Proof.Machine

/-! ### Fields of an entry (R54) -/

def imgFrame (m : BitVec 512) : Nat := nfield m 0 32
def imgDeps (m : BitVec 512) : Nat := nfield m 32 16
def imgPriority (m : BitVec 512) : Nat := nfield m 48 3
def imgNest (m : BitVec 512) : Bool := m.getLsbD 51
def imgLocked (m : BitVec 512) : Bool := m.getLsbD 52
def imgFirst (m : BitVec 512) : Nat := nfield m 64 16
def imgCount (m : BitVec 512) : Nat := nfield m 80 16
def imgRecord (m : BitVec 512) : Nat := nfield m 64 48
def imgCode (m : BitVec 512) : Nat := nfield m 128 48
def imgBundle (m : BitVec 512) : Nat := nfield m 176 11
def imgArgs (m : BitVec 512) : Nat := nfield m 192 48
def imgPairs (m : BitVec 512) : Nat := nfield m 256 48
def imgBudget (m : BitVec 512) : Nat := nfield m 320 16
def imgAsid (m : BitVec 512) : Nat := nfield m 336 12
def imgSucc (m : BitVec 512) (i : Nat) : Nat := nfield m (384 + 16 * i) 16
def imgVector (m : BitVec 512) : Nat := nfield m 480 6
def imgValid (m : BitVec 512) : Bool := m.getLsbD 511

/-- No frame number: released when ready. -/
def whenReady : Nat := 0xFFFFFFFF

/-- No successor. -/
def noSuccessor : Nat := 0xFFFF

/-- Slots of the launch window (R50). -/
def slotCount : Nat := 4096

/-- A field outside its range (R54, R56, R130). -/
def imgRangeOk (m : BitVec 512) : Bool :=
  decide (imgCode m % 65536 = 0) &&
    ([0, 1, 2, 3].all fun i => imgSucc m i == noSuccessor || decide (imgSucc m i < slotCount)) &&
    (imgNest m || (decide (1 ≤ imgCount m ∧ imgCount m ≤ 256) && decide (imgFirst m + imgCount m ≤ 256)))

/-- Every reserved field is zero; the bits of an address word above its address count as reserved (DEDUCED, log 20). -/
def imgReservedOk (m : BitVec 512) : Bool :=
  decide (nfield m 53 11 = 0) && decide (nfield m 187 5 = 0) && decide (nfield m 348 36 = 0) && decide (nfield m 448 32 = 0)
    && decide (nfield m 486 25 = 0) && decide (nfield m 240 16 = 0) && decide (nfield m 304 16 = 0)
    && (if imgNest m then decide (nfield m 112 16 = 0) else decide (nfield m 96 32 = 0))

/-! ### Quads (R65, R67, R129) -/

/-- The physical quad of a logical quad under a binding; without a binding it names itself. -/
def physOf (binding : List Nat) (l : Nat) : Option Nat :=
  if binding.isEmpty then (if l < 256 then some l else none)
  else match binding[l]? with
    | some p => if p < 256 then some p else none
    | none => none

/-- The physical quads of a list of logical ones, or none where one has no quad. -/
def physAll (binding : List Nat) : List Nat → Option (List Nat)
  | [] => some []
  | l :: r =>
    match physOf binding l, physAll binding r with
    | some p, some ps => some (p :: ps)
    | _, _ => none

/-- The binding an image gives; one without quads binds no logical quad. -/
def Image.binding (i : Image) : List Nat := if i.quads.isEmpty then [256] else i.quads

/-- An overlay of the image holds a code address under an address space (R67). -/
def Image.holdsCode (i : Image) (asid code : Nat) : Bool := i.overlays.any fun o => o.1 == asid && runsMeet o.2 65536 code 1

/-- The binding of a host commit: of the loaded image that holds its code, if there is one. -/
def hostBinding (s : State) (m : BitVec 512) : List Nat :=
  match s.images.find? fun i => i.holdsCode (imgAsid m) (imgCode m) with
  | some i => i.binding
  | none => []

/-- An entry holds a quad. -/
def quadHeld (s : State) (q : Nat) : Bool := s.entries.any fun e => e.2.holds q

/-- A quad is free: no entry holds it, and no overlay load of its last task is in flight (R129, R137). -/
def quadFree (s : State) (q : Nat) : Bool := !(quadHeld s q) && !((s.core q).ovlBusy)

/-! ### Capture (R55 to R58, R123) -/

/-- Why a commit is rejected: 0 for none, else the reason of LSTAT (R56). Of several reasons the first in the order slot busy, field
out of range, reserved field, target quad without a binding. DESIGN CHOICE, log 66. -/
def commitReason (s : State) (slot : Nat) (m : BitVec 512) (binding : List Nat) : Nat :=
  let e := s.entry slot
  if e.st ≠ .free then (if e.origin = 1 ∧ e.captured < s.pcc then 4 else 1)
  else if imgRangeOk m = false then 2
  else if imgReservedOk m = false then 3
  else if !(imgNest m) && (physAll binding ((List.range (imgCount m)).map fun i => imgFirst m + i)).isNone then 2
  else 0

/-- The entry as captured. -/
def capturedEntry (s : State) (m : BitVec 512) (origin : Nat) (binding : List Nat) : Entry :=
  { Entry.free with st := .waiting, image := m ||| (1 : BitVec 512) <<< 511, count := imgDeps m, origin := origin,
                    captured := s.pcc, binding := binding,
                    passed := decide (2 ^ 31 ≤ (imgFrame m + 2 ^ 32 - s.frame.toNat) % 2 ^ 32) }

/-- Trestle captures an image; decrements of this cycle that found the slot free count now (R123). -/
def capture (s : State) (slot : Nat) (m : BitVec 512) (origin : Nat) (binding : List Nat) : State :=
  let mine := s.decs.filter (· == slot)
  let s1 := { s.modEntry slot (fun _ => capturedEntry s m origin binding) with decs := s.decs.filter (· != slot) }
  mine.foldl depDecrement s1

/-- A rejection counted in LSTAT (R56, R57); the count wraps at 2^32, for the spec states no saturation here (DESIGN CHOICE, log 66). -/
def rejectCommit (s : State) (slot reason : Nat) : State :=
  { s with lstatRejected := s.lstatRejected + 1, lstatSlot := slot, lstatReason := reason }

/-- A commit by the host or the loader. -/
def commitEntry (s : State) (slot : Nat) (m : BitVec 512) (binding : List Nat) : State :=
  let r := commitReason s slot m binding
  if r ≠ 0 then rejectCommit s slot r else capture s slot m 0 binding

/-- The 64 bytes of a slot with ctl as written. -/
def slotImage (s : State) (slot : Nat) (ctl : Word) : BitVec 512 :=
  let b := sget 0 s.slotBytes slot
  (ctl.setWidth 32 : BitVec 32) ++ (b.setWidth 480)

/-- R55, R56: a write of ctl with valid = 1 commits the slot. -/
def entryCommit (s : State) (slot : Nat) (ctl : Word) : State :=
  let m := slotImage s slot ctl
  if imgValid m then commitEntry s slot m (hostBinding s m) else s

/-- R55, R56. -/
def execEntryCommit (s : State) : Host.Outcome State Fault Refusal := .next (entryCommit s s.arg.a s.arg.word)

/-- R57: bytes of a free slot are stored; of a slot that is not free they are discarded and counted as a rejection. -/
def launchSlotWrite (s : State) (slot off : Nat) (bs : List Byte) : State :=
  let e := s.entry slot
  if e.st ≠ .free then rejectCommit s slot (if e.origin = 1 ∧ e.captured < s.pcc then 4 else 1)
  else
    let old := bytesOf (sget 0 s.slotBytes slot) 64
    { s with slotBytes := sset 0 s.slotBytes slot (bitsOfBytes 512 (old.take off ++ bs ++ old.drop (off + bs.length))) }

/-- R57. -/
def execLaunchSlotWrite (s : State) : Host.Outcome State Fault Refusal := .next (launchSlotWrite s s.arg.a s.arg.b s.arg.bytes)

/-! ### Decrements and arrivals (R124, R127) -/

/-- R124. -/
def execHostDepDecrement (s : State) : Host.Outcome State Fault Refusal := .next (depDecrement s s.arg.a)

/-- An arrival-match entry matches a message. -/
def arrivalHit (v : BitVec 128) (tag : BitVec 32) (len : Nat) : Bool :=
  v.getLsbD 79 && v.extractLsb' 0 32 == tag && nfield v 32 32 == len

/-- The message that is tested next: of the lowest arrival port, the first. -/
def firstTagged (l : List (BitVec 32 × Nat × Nat)) : Option (BitVec 32 × Nat × Nat) :=
  l.foldl (fun m x =>
    match m with
    | none => some x
    | some y => if x.2.2 < y.2.2 then some x else some y) none

/-- R127: the lowest entry that matches decrements its slot and is cleared unless it persists; a miss is counted. -/
def arrivalMatch (s : State) : State :=
  match firstTagged s.tagged with
  | none => s
  | some x =>
    let s1 := { s with tagged := s.tagged.erase x }
    match s.arrivalTable.find? fun p => arrivalHit p.2 x.1 x.2.1 with
    | none => { s1 with unmatched := min (s.unmatched + 1) 0xFFFFFFFF }
    | some p =>
      let s2 := if p.2.getLsbD 78 then s1 else
        { forgetPlace s1 0 s1.fresh (.arrivalEntry p.1) with
          arrivalTable := sset 0 s1.arrivalTable p.1 (p.2 &&& ~~~((1 : BitVec 128) <<< 79)) }
      depDecrement s2 (nfield p.2 64 12)

/-- R127. -/
def execArrivalMatch (s : State) : Host.Outcome State Fault Refusal := .next (arrivalMatch s)

/-- A result that reaches a core's registers beside its bundles: it also stands in the copies a later trap restores. -/
def latePend (s : State) (q due : Nat) (dst : Dest) (val : BitVec 1024) : State :=
  let put (a : Arch) : Arch := { a with pend := { due := due, rank := 0, bid := 0, dst := dst, val := val } :: a.pend }
  s.modCore q fun c =>
    { c with arch := put c.arch, snaps := c.snaps.map fun (p : Nat × Arch × Option RevWalk) => (p.1, put p.2.1, p.2.2) }

/-- A host's write that acts like one of a stream core's results in the next cycle; those of the core itself come after it (R47, R127,
R367). -/
def hostPend (s : State) (q : Nat) (dst : Dest) (val : BitVec 1024) : State :=
  { s with hostWrites := s.hostWrites ++ [(q, { due := s.pcc + 1, rank := 0, bid := 0, dst := dst, val := val })] }

/-- A host's write takes effect; a selection of counted events also stands in the copies of registers that a trap restores. -/
def hostWrite (s : State) (w : Nat × PendWrite) : State :=
  let t := putResult (forgetPlace s w.1 s.fresh w.2.dst) w.1 w.2
  match w.2.dst with
  | .sys n =>
    if 0x24 ≤ n ∧ n ≤ 0x27 then
      t.modCore w.1 fun c =>
        let v := sget ecselReset c.arch.es (n - 0x24)
        { c with snaps := c.snaps.map fun (p : Nat × Arch × Option RevWalk) =>
            (p.1, { p.2.1 with es := sset ecselReset p.2.1.es (n - 0x24) v }, p.2.2) }
    else t
  | _ => t

/-- The host's writes of a cycle, in order. -/
def hostResults (s : State) : State := s.hostWrites.foldl hostWrite { s with hostWrites := [] }

/-- R127: an entry is armed by one write of 16 bytes (b = 0), or by 8 bytes of it (b = 1 the low half, 2 the high one); its reserved
bits stay zero. -/
def execArrivalEntryWrite (s : State) : Host.Outcome State Fault Refusal :=
  let w := s.arg.wide
  let high (n : Nat) : Nat := n % 2 ^ 12 + 2 ^ 14 * (n / 2 ^ 14 % 4)
  .next (match s.arg.b with
    | 0 => hostPend s 0 (.arrivalEntry s.arg.a) (BitVec.ofNat 1024 (nfield w 0 64 + 2 ^ 64 * high (nfield w 64 64)))
    | 1 => hostPend s 0 (.arrivalHalf s.arg.a 0) (BitVec.ofNat 1024 (nfield w 0 64))
    | _ => hostPend s 0 (.arrivalHalf s.arg.a 1) (BitVec.ofNat 1024 (high (nfield w 0 64))))

/-! ### Frames (R61, R125, R126, R131, R132) -/

/-- PTP units of a nanosecond and of a frame of 10,240/3 ns. -/
def nsUnits : Nat := 48 * 2 ^ 40
def frameUnits : Nat := 163840 * 2 ^ 40

/-- The frame an entry's budget ends in (R131). -/
def Entry.budgetFrame (e : Entry) : Option Nat :=
  match e.dispFrame with
  | some d => if imgBudget e.image = 0 then none else some ((d + imgBudget e.image - 1) % 2 ^ 32)
  | none => none

/-- An entry holds the boundary that ends the current frame. -/
def Entry.holdsBoundary (e : Entry) (frame : Nat) : Bool :=
  (e.st == .running || e.st == .completing) && e.budgetFrame == some frame

/-- The slots of the entries that hold the next boundary. -/
def boundaryHolders (s : State) : List Nat := (s.entries.filter fun p => p.2.holdsBoundary s.frame.toNat).map Prod.fst

/-- Frames are placed on an origin from now on: the counter waits for an origin that lies ahead, else it takes the number of the
frame that has begun (R61). -/
def placeFrames (s : State) (origin : Nat) : State :=
  let s1 := { s with forigin := origin, slipNs := 0, framesOn := true }
  if s.ptp < origin * nsUnits then { s1 with owait := true, dueAt := origin * nsUnits }
  else
    let m := (s.ptp - origin * nsUnits) / frameUnits
    { s1 with owait := false, frame := BitVec.ofNat 32 m, dueAt := origin * nsUnits + (m + 1) * frameUnits }

/-- A boundary is due: the next frame's placement has been reached, or frames can start for the first time (R125, R126). -/
def boundaryDue (s : State) : Bool :=
  if s.framesOn then !s.held && decide (s.dueAt ≤ s.ptp) else s.ptpLocked || s.ptpSource == 3

/-- The boundary is one at which a new origin takes effect. -/
def switchDue (s : State) : Bool :=
  boundaryDue s && s.foriginNew.isSome && (!s.framesOn || (boundaryHolders s).isEmpty)

/-- The next frame begins. -/
def nextFrame (s : State) : State :=
  { s with frame := if s.owait then 0 else s.frame + 1, owait := false, dueAt := s.dueAt + frameUnits }

/-- R125, R126, R131: a frame begins, or the boundary is held. -/
def frameBoundary (s : State) : State :=
  if !(boundaryDue s) then s
  else if !s.framesOn then placeFrames s s.forigin
  else
    let hs := boundaryHolders s
    if hs.isEmpty then nextFrame s
    else { s with held := true, holdFreed := none, holders := hs.map fun k => (k, s.frame.toNat) }

/-- R125, R131. -/
def execFrameBoundary (s : State) : Host.Outcome State Fault Refusal := .next (frameBoundary s)

/-- R61. -/
def execFrameOriginSwitch (s : State) : Host.Outcome State Fault Refusal :=
  .next (if switchDue s then
      (match s.foriginNew with
        | some o => placeFrames { s with foriginNew := none } o
        | none => s)
    else s)

/-- A time of whole seconds and nanoseconds in nanoseconds; the spec states no meaning of 10^9 nanoseconds or more: they are a free
value. DESIGN CHOICE, log 58. -/
def timeNanos (s : State) (sec ns : Nat) : Nat :=
  sec % 2 ^ 48 * 10 ^ 9 + (if ns < 10 ^ 9 then ns else (Config.freeWord s.fresh).toNat % 10 ^ 9)

/-- The count of free values after such a time. -/
def timeFresh (s : State) (ns : Nat) : Nat := if ns < 10 ^ 9 then s.fresh else s.fresh + 1

/-- R61: the new origin waits for the next frame boundary. -/
def execForiginWrite (s : State) : Host.Outcome State Fault Refusal :=
  .next { s with foriginNew := some (timeNanos s s.arg.a s.arg.b), fresh := timeFresh s s.arg.b }

/-- A held boundary can open: every entry that holds it has gone, in an earlier cycle (R131). -/
def heldOpenDue (s : State) : Bool :=
  s.held && (boundaryHolders s).isEmpty && (match s.holdFreed with
    | some t => t != s.ptp
    | none => true)

/-- R132: the slip is added, the next placement moves by it, and every entry that held the boundary has its record. -/
def heldBoundaryOpen (s : State) : State :=
  if !(heldOpenDue s) then s
  else
    let t := s.holdFreed.getD s.ptp
    let slip := (t - s.dueAt + nsUnits - 1) / nsUnits
    let s1 := s.holders.foldl (fun u h => writeSlip u (s.dueAt / nsUnits) 1 0 h.1 h.2 slip) s
    { s1 with held := false, holdFreed := none, holders := [], slipNs := s.slipNs + slip, dueAt := s.dueAt + slip * nsUnits }

/-- R132. -/
def execHeldBoundaryOpen (s : State) : Host.Outcome State Fault Refusal := .next (heldBoundaryOpen s)

/-! ### Loop-nest records (R133) -/

def nestLevels (r : BitVec 512) : Nat := nfield r 0 8
def nestBase (r : BitVec 512) : Nat := nfield r 16 16
def nestQuads (r : BitVec 512) : Nat := nfield r 32 16
def nestStride (r : BitVec 512) (l : Nat) : Int := (r.extractLsb' (64 + 64 * l) 32).toInt
def nestBound (r : BitVec 512) (l : Nat) : Nat := nfield r (96 + 64 * l) 24
def nestClass (r : BitVec 512) (l : Nat) : Nat := nfield r (120 + 64 * l) 2

/-- The levels of a class, outermost first: 0 temporal, 1 over quads, 2 over dies, 3 pooled. -/
def nestOf (r : BitVec 512) (cls : Nat) : List Nat := (List.range (nestLevels r)).filter fun l => nestClass r l == cls

/-- The number of combinations of the levels of a class. -/
def nestCombos (r : BitVec 512) (cls : Nat) : Nat := (nestOf r cls).foldl (fun n l => n * nestBound r l) 1

/-- A record with spatial levels, and one with pooled levels. -/
def nestSpatial (r : BitVec 512) : Bool := !((nestOf r 1).isEmpty && (nestOf r 2).isEmpty)
def nestPooled (r : BitVec 512) : Bool := !((nestOf r 3).isEmpty)

/-- A well-formed record; without spatial or pooled levels its quad count is not used (DEDUCED, log 20). -/
def nestOk (r : BitVec 512) : Bool :=
  decide (1 ≤ nestLevels r ∧ nestLevels r ≤ 6) && decide (nfield r 8 8 = 0) && decide (nfield r 48 16 = 0) && decide (nfield r 448 64 = 0)
    && ((List.range (nestLevels r)).all fun l => decide (1 ≤ nestBound r l) && decide (nfield r (122 + 64 * l) 6 = 0))
    && !(nestSpatial r && nestPooled r)
    && (if nestSpatial r then
          decide (1 ≤ nestQuads r ∧ nestQuads r ≤ 32) && decide (nestCombos r 1 ≤ nestQuads r)
            && decide (nestBase r + (nestCombos r 2 - 1) * nestQuads r + (nestCombos r 1 - 1) < 256)
        else if nestPooled r then decide (1 ≤ nestQuads r ∧ nestQuads r ≤ 256) && decide (nestBase r + nestQuads r ≤ 256)
        else decide (nestBase r < 256))

/-- The index of a level in combination n of its class: a digit of a mixed-radix number, the outermost the most significant. -/
def nestIndex (r : BitVec 512) (n : Nat) : List Nat → Nat → Nat
  | [], _ => 0
  | k :: rest, l =>
    let inner := rest.foldl (fun m j => m * nestBound r j) 1
    if k = l then n / inner % nestBound r k else nestIndex r n rest l

/-- x1 to x6 of an instance: D and Q number its spatial combination, P its item, T its temporal combination (R130). -/
def nestWords (r : BitVec 512) (d q p t : Nat) : List Word :=
  (List.range 6).map fun l =>
    if nestLevels r ≤ l then 0
    else
      let n := match nestClass r l with
        | 0 => t
        | 1 => q
        | 2 => d
        | _ => p
      BitVec.ofInt 64 ((nestIndex r n (nestOf r (nestClass r l)) l : Int) * nestStride r l)

/-- The logical quads an entry can use, in the order of its walk: a kind-0 range, the quads of a spatial gang, a pool, one quad. -/
def entryTargets (m r : BitVec 512) : List Nat :=
  if !(imgNest m) then (List.range (imgCount m)).map fun i => imgFirst m + i
  else if nestSpatial r then
    (List.range (nestCombos r 2)).flatMap fun d => (List.range (nestCombos r 1)).map fun q => nestBase r + d * nestQuads r + q
  else if nestPooled r then (List.range (nestQuads r)).map fun i => nestBase r + i
  else [nestBase r]

/-- The physical quads of an entry's targets; release has found that each exists. -/
def Entry.targets (e : Entry) : List Nat := (physAll e.binding (entryTargets e.image e.record)).getD []

/-- An entry hands out pooled items. -/
def Entry.pooled (e : Entry) : Bool := imgNest e.image && nestPooled e.record

/-- Items of a pooled record, and runs of every placed instance. -/
def Entry.items (e : Entry) : Nat := if e.pooled then nestCombos e.record 3 else 0
def Entry.turns (e : Entry) : Nat := if imgNest e.image then nestCombos e.record 0 else 1

/-- x1 to x6 of quad k of a gang whose first instance is number inst, in its temporal run t (R130, R133). -/
def Entry.words (e : Entry) (inst k t : Nat) : List Word :=
  if !(imgNest e.image) then [BitVec.ofNat 64 k, 0, 0, 0, 0, 0]
  else if e.pooled then nestWords e.record 0 0 inst t
  else nestWords e.record (k / nestCombos e.record 1) (k % nestCombos e.record 1) 0 t

/-! ### Failure (R136) -/

/-- The core stops where it is: what has not committed leaves no effect; the recorded trap stays readable (R136, R277). -/
def haltCore (s : State) (q : Nat) : State :=
  let a := (s.core q).arch
  let s1 := cancelFrom s q (s.core q).frontier
  (s1.modArch q fun x => { x with tpc := a.tpc, tcause := a.tcause, tval := a.tval }).modCore q fun c =>
    { c with run := .stopped, task := none, rev := none, preempt := false, trapReq := none, deferred := [], hold := none,
             waita := none, sync := none, ending := false }

/-- The quads of an entry's gangs that are at work. -/
def Entry.workQuads (e : Entry) : List Nat := (e.gangs.filter fun g => !g.ended && !g.away).flatMap fun g => g.quads

/-- Nothing of a quad's queues starts any more. -/
def dropQueues (s : State) (q : Nat) : State :=
  [0, 1, 2, 3].foldl (fun t j => t.modCell q j fun c => { c with qMat := [], qVec := [], qSf := [], demand := none }) s

/-- The slot is free; a held boundary it held notes the time (R132). -/
def freeSlot (s : State) (slot : Nat) : State :=
  let e := s.entry slot
  let s1 := if s.held && e.holdsBoundary s.frame.toNat then { s with holdFreed := some s.ptp } else s
  { s1.modEntry slot (fun _ => Entry.free) with preempts := s1.preempts.filter fun p => p.1 != slot }

/-- R136: the entry's quads halt, its queued commands are discarded, and quads and slot are free; TFAIL and MSI-X vector 4. -/
def entryFail (s : State) (slot quad cause : Nat) : State :=
  let e := s.entry slot
  if e.st = .free then s
  else
    let s1 := e.workQuads.foldl (fun t q => dropQueues (haltCore t q) q) s
    let s2 := freeSlot s1 slot
    { s2 with tfailSlot := slot, tfailQuad := if cause = 3 ∨ cause = 4 then 0 else quad, tfailCause := cause,
              tfailCount := min (s2.tfailCount + 1) 0xFFFFFFFF }.irq 4

/-- R136: the failure an entry has been asked for. -/
def execEntryFail (s : State) : Host.Outcome State Fault Refusal :=
  .next (if (s.entry s.arg.a).failReq = some (s.arg.b, s.arg.c) then entryFail s s.arg.a s.arg.b s.arg.c else s)

/-! ### Release (R59, R122, R133) -/

/-- The release frame has come, or none is asked for, or it had passed at commit (R59). While the boundary is held or the counter waits
no other frame number releases (R61, R126, R131). DEDUCED, log 37. -/
def frameCome (s : State) (e : Entry) : Bool :=
  let f := imgFrame e.image
  f == whenReady || (s.framesOn && (e.passed || (!s.held && !s.owait &&
    (f == s.frame.toNat || decide (2 ^ 31 ≤ (f + 2 ^ 32 - s.frame.toNat) % 2 ^ 32)))))

/-- A waiting entry can be released. -/
def releaseDue (s : State) (slot : Nat) : Bool :=
  let e := s.entry slot
  e.st == .waiting && e.count == 0 && frameCome s e

/-- Sixty-four bytes at an address of an entry's space, as Trestle reads them; none where a page or the bytes cannot be read. -/
def trestleRead (s : State) (asid va len : Nat) : State × Option (List Byte) :=
  match engReadRange s 0 1 asid (len / 4096 + 2) va len with
  | (t, .ok (bs, false)) => (t, some bs)
  | (t, _) => (t, none)

/-- R122, R133: the entry joins the ranking; a kind-1 entry's record is read, and a bad one fails the entry with cause 4. -/
def entryRelease (s : State) (slot : Nat) : State :=
  let e := s.entry slot
  if !(releaseDue s slot) then s
  else
    let s1 := s.modEntry slot fun e => { e with st := .released, released := s.pcc }
    if !(imgNest e.image) then s1
    else
      match trestleRead s1 (imgAsid e.image) (imgRecord e.image) 64 with
      | (t, none) => entryFail t slot 0 4
      | (t, some bs) =>
        let r : BitVec 512 := bitsOfBytes 512 bs
        if nestOk r && (physAll e.binding (entryTargets e.image r)).isSome then t.modEntry slot fun e => { e with record := r }
        else entryFail t slot 0 4

/-- R122. -/
def execEntryRelease (s : State) : Host.Outcome State Fault Refusal := .next (entryRelease s s.arg.a)

/-! ### TSPAWN's capture (R58, R433) -/

/-- The image a TSPAWN commits: the task's address space, valid. -/
def spawnImage (m : BitVec 512) (asid : Nat) : BitVec 512 :=
  (m &&& ~~~((0xFFFF : BitVec 512) <<< 336)) ||| BitVec.ofNat 512 (asid * 2 ^ 336 + 2 ^ 511)

/-- One TSPAWN is decided: it captures, or fails; the predicate is written one cycle later. -/
def decideSpawn (s : State) (x : Spawn) : State :=
  let m := spawnImage x.image x.asid
  let ok := commitReason s x.slot m x.bound = 0
  let s1 := if ok then capture s x.slot m 1 x.bound else s
  if x.pd = 0 then s1
  else latePend (s1.modCore x.quad fun c => { c with pendPreds := c.pendPreds.erase x.pd }) x.quad (s.pcc + 1)
    (.p x.pd (BitVec.allOnes 512)) (wide (predOf ok))

/-- Trestle captures the TSPAWNs of earlier cycles at the start of its cycle, when the host's commits of the cycle have been taken (R58,
R123). DEDUCED, log 37. -/
def decideSpawns (s : State) : State :=
  let now := s.spawns.filter fun x => decide (x.since < s.pcc)
  if now.isEmpty then s else now.foldl decideSpawn { s with spawns := s.spawns.filter fun x => !(decide (x.since < s.pcc)) }

/-- The end of Trestle's cycle: decrements whose slot is still free are stray. -/
def endTrestleCycle (s : State) : State := s.decs.foldl (fun t _ => strayDecrement t) { s with decs := [] }

/-! ### The ranking and its grants (R129, R130, R133, R244) -/

/-- An entry stands in the ranking: released, or running with something still to place. -/
def Entry.ranked (e : Entry) : Bool :=
  e.failReq.isNone && (e.st == .released || (e.st == .running &&
    (e.gangs.any (fun g => g.away) || (e.pooled && decide (e.nextItem < e.items)))))

/-- The entry was pre-empted: it goes to the head of its priority. -/
def Entry.wasPreempted (e : Entry) : Bool := e.gangs.any fun g => g.away

/-- Slot a ranks before slot b. -/
def ranksBefore (s : State) (a b : Nat) : Bool :=
  let ea := s.entry a
  let eb := s.entry b
  let pa := imgPriority ea.image
  let pb := imgPriority eb.image
  if pa ≠ pb then decide (pb < pa)
  else if ea.wasPreempted ≠ eb.wasPreempted then ea.wasPreempted
  else if ea.released ≠ eb.released then decide (ea.released < eb.released)
  else decide (a < b)

def insertRank (s : State) (a : Nat) : List Nat → List Nat
  | [] => [a]
  | b :: r => if ranksBefore s a b then a :: b :: r else b :: insertRank s a r

/-- The slots of the ranking, highest first. -/
def ranking (s : State) : List Nat :=
  (s.entries.filter fun p => p.2.ranked).foldl (fun l p => insertRank s p.1 l) []

/-- The pairs map is well formed and every valid peer belongs to the entry (R244, R428). DEDUCED, log 38. -/
def pairsOk (m : BitVec 512) (targets : List Nat) : Bool :=
  (List.range 8).all fun n =>
    let w : BitVec 64 := m.extractLsb' (64 * n) 64
    decide (nfield w 8 8 = 0) && decide (nfield w 21 43 = 0) && (!(w.getLsbD 20) || targets.contains (nfield w 0 8))

/-- The first dispatch of an entry: the frame is noted, a held boundary it holds counts it (R131, R132), and the pairs map is read; a bad one asks for failure with cause 4. -/
def firstDispatch (s : State) (slot : Nat) : State × Bool :=
  let e := s.entry slot
  if e.st ≠ .released then (s, true)
  else
    let s0 := s.modEntry slot fun e => { e with st := .running, dispFrame := some s.frame.toNat }
    let s1 := if s.held && (s0.entry slot).holdsBoundary s.frame.toNat then { s0 with holders := s0.holders ++ [(slot, s.frame.toNat)] } else s0
    if imgPairs e.image = 0 then (s1, true)
    else
      match trestleRead s1 (imgAsid e.image) (imgPairs e.image) 64 with
      | (t, none) => (entryFail t slot 0 4, false)
      | (t, some bs) =>
        let m : BitVec 512 := bitsOfBytes 512 bs
        if pairsOk m (entryTargets e.image e.record) then (t.modEntry slot fun e => { e with pairs := m }, true)
        else (entryFail t slot 0 4, false)

/-- The plane of a core that holds an overlay, the active one first (R130, R137). -/
def CoreSt.planeOf (c : CoreSt) (code asid : Nat) : Option Nat :=
  if sget none c.tags c.active = some (code, asid) then some c.active
  else if sget none c.tags (1 - c.active) = some (code, asid) then some (1 - c.active)
  else none

/-- Idle cycles before the entry bundle of an overlay that stands in a plane. -/
def CoreSt.entryIdle (c : CoreSt) (code asid entry : Nat) : Nat :=
  match c.planeOf code asid with
  | some p => headerIdle (sget 0 c.planes (2048 * p + entry % 2048))
  | none => 0

/-- Cycles from a grant to the task start, which no step of the grant's own cycle follows (R123): a free value. Where every quad holds the overlay, the entry bundle issues at most 400 ns later,
its idle cycles included and every cycle stretched (R24, R130). DESIGN CHOICE, log 22. -/
def dispatchDelay (s : State) (qs : List Nat) (code asid entry : Nat) : Nat :=
  let f := (Config.freeWord s.fresh).toNat
  let idle := qs.foldl (fun n q => max n ((s.core q).entryIdle code asid entry)) 0
  if qs.all fun q => ((s.core q).planeOf code asid).isSome then 1 + f % (426 - idle) else 1 + f % 2 ^ 32

/-- A gang for an entry, its start chosen; a pool quad whose run of the entry has ended starts 32 cycles after that (R133). -/
def newGang (s : State) (slot : Nat) (qs : List Nat) : Gang :=
  let e := s.entry slot
  let prev := e.gangs.find? fun g => g.ended && g.quads == qs && decide (s.pcc < g.nextAt)
  let start := match prev with
    | some g => g.nextAt
    | none => s.pcc + dispatchDelay s qs (imgCode e.image) (imgAsid e.image) (imgBundle e.image)
  { id := e.nextGang, inst := e.nextInst, quads := qs,
    idxs := (List.range qs.length).map fun k => e.words e.nextInst k 0,
    temporal := 0, start := start, started := false, nextAt := if prev.isSome then start else 0, ended := false,
    resumed := false, away := false, ctxs := [], dispatched := s.frame.toNat }

/-- The gang holds its quads from now on. DEDUCED, log 38. -/
def placeGang (s : State) (slot : Nat) (g : Gang) : State :=
  let t := s.modEntry slot fun e =>
    { e with gangs := (e.gangs.filter fun h => !(h.ended && h.quads == g.quads)) ++ [g], nextGang := e.nextGang + 1,
             nextInst := e.nextInst + g.quads.length, nextItem := if e.pooled then e.nextItem + 1 else e.nextItem }
  { t with fresh := t.fresh + 1 }

/-- A saved gang goes back to its quads. -/
def returnGang (s : State) (slot : Nat) (g : Gang) : State :=
  let e := s.entry slot
  let start := s.pcc + dispatchDelay s g.quads (imgCode e.image) (imgAsid e.image) (imgBundle e.image)
  let g1 := { g with away := false, resumed := true, started := false, start := start, nextAt := 0, dispatched := s.frame.toNat }
  let t := s.modEntry slot fun e => { e with gangs := e.gangs.map fun h => if h.id = g.id then g1 else h }
  { t with fresh := t.fresh + 1 }

/-- Free pool quads take the next items, lowest logical quad first. -/
def handItems (s : State) (slot : Nat) (taken : List Nat) : List Nat → State
  | [] => s
  | q :: r =>
    let e := s.entry slot
    if e.st = .free ∨ e.items ≤ e.nextItem then s
    else if quadFree s q && !(taken.contains q) then
      match firstDispatch s slot with
      | (t, false) => t
      | (t, true) => handItems (placeGang t slot (newGang t slot [q])) slot taken r
    else handItems s slot taken r

/-- Saved gangs of an entry whose quads are free go back; the quads of the others are reserved. -/
def returnGangs (s : State) (slot : Nat) (taken : List Nat) : List Gang → State × List Nat
  | [] => (s, taken)
  | g :: r =>
    let free := g.quads.filter fun q => quadFree s q && !(taken.contains q)
    if free.length = g.quads.length then returnGangs (returnGang s slot g) slot taken r
    else returnGangs s slot (taken ++ free) r

/-- One entry of the walk: what it takes, and what it reserves. -/
def grantEntry (s : State) (taken : List Nat) (slot : Nat) : State × List Nat :=
  let e := s.entry slot
  if !(e.ranked) then (s, taken)
  else
    let r := returnGangs s slot taken (e.gangs.filter fun g => g.away)
    if e.pooled then (handItems r.1 slot r.2 e.targets, r.2)
    else if e.st ≠ .released then r
    else
      let qs := e.targets
      let free := qs.filter fun q => quadFree r.1 q && !(r.2.contains q)
      if free.length = qs.length then
        match firstDispatch r.1 slot with
        | (t, false) => (t, r.2)
        | (t, true) => (placeGang t slot (newGang t slot qs), r.2)
      else (r.1, r.2 ++ free)

/-- Trestle's walk of the ranking. -/
def walkRanking (s : State) (taken : List Nat) : List Nat → State
  | [] => s
  | k :: r =>
    let g := grantEntry s taken k
    walkRanking g.1 g.2 r

/-- R129: grants and reservations of one cycle; none while an exploration runs (R37). -/
def quadGrant (s : State) : State := if s.explRunning then s else walkRanking s [] (ranking s)

/-- The walk grants something: an entry changes state, a gang appears or returns. -/
def grantReady (s : State) : Bool := !s.explRunning && decide ((quadGrant s).entries ≠ s.entries)

/-- R129. -/
def execQuadGrant (s : State) : Host.Outcome State Fault Refusal := .next (quadGrant s)

end Sys2Proof.Machine
end

