-- ==== Sys2Proof/Machine/Tasks.lean ====
section
/-! DEFINITION. Runs of a task on its quads: the start, the end, completion of an entry, pre-emption with its context area
(R130, R134, R135, R137, R138, R143, R281 to R285). -/

namespace Sys2Proof.Machine

/-! ### Planes (R130, R137) -/

/-- The 64 KiB of an overlay read page by page as .bp, with the rights a reader needs; none where a page or a granule cannot be
read. -/
def overlayPages (s : State) (d asid need : Nat) : Nat → Nat → State × Option (List Byte)
  | 0, _ => (s, some [])
  | n + 1, va =>
    match translate s (.engine d) asid va need with
    | (t, .error _) => (t, none)
    | (t, .ok p) =>
      let r := if engineLate t d then (engineTimeout t d p, 0, [], 1) else placeRead t d 1 p lineFuel 4096
      if r.2.1 ≠ 0 ∨ r.2.2.2 ≠ 0 then (r.1, none)
      else
        match overlayPages r.1 d asid need n (va + 4096) with
        | (u, some bs) => (u, some (r.2.2.1 ++ bs))
        | (u, none) => (u, none)

def overlayRead (s : State) (d asid need va : Nat) : State × Option (List Byte) := overlayPages s d asid need 16 va

/-- The bytes of an overlay stand in a plane. -/
def putPlane (c : CoreSt) (plane : Nat) (bs : List Byte) : CoreSt :=
  { c with planes := (List.range 2048).foldl (fun m n =>
      sset 0 m (2048 * plane + n) (bitsOfBytes 256 ((bs.drop (32 * n)).take 32))) c.planes }

/-- The active plane of a core holds the overlay at code: as it stands, after a swap, or loaded into the shadow plane and swapped. -/
def choosePlane (s : State) (q code asid : Nat) : State × Bool :=
  let c := s.core q
  match c.planeOf code asid with
  | some p => (s.modCore q fun c => { c with active := p }, true)
  | none =>
    match overlayRead s 0 asid 0 code with
    | (t, none) => (t, false)
    | (t, some bs) =>
      (t.modCore q fun c =>
        let p := 1 - c.active
        { putPlane c p bs with active := p, tags := sset none c.tags p (some (code, asid)) }, true)

/-- Every quad of a gang has its plane, or a load faults. -/
def choosePlanes (s : State) (code asid : Nat) : List Nat → State × Bool
  | [] => (s, true)
  | q :: r =>
    match choosePlane s q code asid with
    | (t, true) => choosePlanes t code asid r
    | (t, false) => (t, false)

/-! ### Task start (R130, R143, R340) -/

/-- A cell at task start: bits, ports, queues, weight buffers, random stream and sticky bits as R143 says; tiles, accumulators, rows,
scratchpad and the residual stack stand. -/
def CellSt.atStart (c : CellSt) : CellSt :=
  { c with
    full := 0, flags := [], status := [], wAct := none, wShad := none, qports := [], fmtq := [], qMat := [], qVec := [], qSf := [],
    freeAt := [], sched := [], passes := [], rngK := 0, rngC := 0, sticky := [], waiting := [], parked := false, ended := [], demand := none,
    pin := none, spillStop := false, aheadStop := false, waitFrom := 0 }

/-- The registers at task start (R130, R272, R281, R340): the other system registers keep their values, sr.tcause and sr.rvs among
them. DEDUCED, log 39. -/
def Arch.atStart (a : Arch) (xs : Sparse Word) (start entry : Nat) : Arch :=
  { a with
    x := xs, p := [], lc := [], gens := [], tbase := start, erc := false, lchk := false, skey := 0, sctr := 0,
    tvec := a.tvec &&& 0x7FF, tscr := 0, rgn := a.rgn &&& ~~~(0x800 : BitVec 24),
    tmShape := 0, cecfg := 0, pend := [], pc := entry, portCnt := [], portLen := [],
    fmtCopy := [], credits := [], pushed := [], pushedFirst := [], spanPorts := [], spanLoops := [], spanWrites := [], spanDesc := 0 }

/-- x1 to x9 at task start. -/
def startWords (e : Entry) (slot inst : Nat) (xs : List Word) : Sparse Word :=
  let ws := xs.take 6 ++ [BitVec.ofNat 64 (imgArgs e.image), BitVec.ofNat 64 (imgPairs e.image),
    BitVec.ofNat 64 (slot + 2 ^ 16 * (inst % 2 ^ 32))]
  ws.zipIdx.foldl (fun m p => sset 0 m (p.2 + 1) p.1) []

/-- An overlay load keeps its place until it is done; it holds up no other effect. -/
def Action.isOvl : Action → Bool
  | .ovl _ _ _ _ => true
  | _ => false

/-- Stream core q starts a run of gang g of an entry at bundle entry. -/
def startCore (s : State) (slot : Nat) (g : Gang) (entry : Nat) (p : Nat × Nat) : State :=
  let e := s.entry slot
  let q := p.1
  let inst := g.inst + p.2
  let task : Task :=
    { slot := slot, run := g.id, inst := inst, asid := imgAsid e.image, code := imgCode e.image, start := s.pcc, born := e.captured,
      lockAll := imgLocked e.image, binding := e.binding, gang := g.quads, pairs := e.pairs }
  let s1 := s.modCore q fun c =>
    { c with
      run := .running
      arch := c.arch.atStart (startWords e slot inst ((g.idxs[p.2]?).getD [])) s.pcc entry
      slot := 0, bid := c.bid + 1, issueAt := s.pcc, stalled := false, taken := none, idleAdd := 0,
      keyBase := none, locked := false, lockNext := false, actions := c.actions.filter fun a => a.2.isOvl, snaps := [], undo := [], lastRes := none, deferred := [], trapReq := none,
      waita := none, sync := none, pendPreds := [], tstats := [], task := some task, rev := none, hold := none, sems := [],
      lanes := [], preempt := false, ending := false, brkSkip := false }
  [0, 1, 2, 3].foldl (fun t j => t.modCell q j CellSt.atStart) s1

/-- A gang of an entry. -/
def Entry.gang (e : Entry) (id : Nat) : Option Gang := e.gangs.find? fun g => g.id == id

/-- A change of one gang. -/
def modGang (s : State) (slot id : Nat) (f : Gang → Gang) : State :=
  s.modEntry slot fun e => { e with gangs := e.gangs.map fun g => if g.id = id then f g else g }

/-- The task start acquires at package scope from every home (R135, R433). DEDUCED, log 30. -/
def acquireAll (s : State) : State :=
  (List.range 10).foldl (fun t h => acquireAt t 0 (t.homeClock h)) s

/-- Every quad of a gang starts; a load that faults fails the entry with cause 3. -/
def startGang (s : State) (slot : Nat) (g : Gang) : State :=
  let e := s.entry slot
  match choosePlanes s (imgCode e.image) (imgAsid e.image) g.quads with
  | (t, false) => entryFail t slot 0 3
  | (t, true) =>
    let t1 := g.quads.zipIdx.foldl (fun u p => startCore u slot g (imgBundle e.image) p) (acquireAll t)
    modGang t1 slot g.id fun g => { g with started := true, start := t.pcc }

/-- A gang waits for its task start; a next run and a resumption are steps of their own. -/
def Gang.startDue (g : Gang) (pcc : Nat) : Bool :=
  !g.started && !g.ended && !g.away && !g.resumed && g.nextAt == 0 && decide (g.start ≤ pcc)
def Gang.nextDue (g : Gang) (pcc : Nat) : Bool :=
  !g.started && !g.ended && !g.away && !g.resumed && g.nextAt != 0 && decide (g.start ≤ pcc)
def Gang.resumeDue (g : Gang) (pcc : Nat) : Bool :=
  !g.started && !g.ended && !g.away && g.resumed && decide (g.start ≤ pcc)

/-- R130. -/
def taskStart (s : State) (slot id : Nat) : State :=
  match (s.entry slot).gang id with
  | some g => if g.startDue s.pcc then startGang s slot g else s
  | none => s

/-- R130. -/
def execTaskStart (s : State) : Host.Outcome State Fault Refusal := .next (taskStart s s.arg.a s.arg.b)

/-- R133: the next run on a quad, 32 cycles after its last one has completed. -/
def poolNextRun (s : State) (slot quad : Nat) : State :=
  match (s.entry slot).gangs.find? fun g => g.nextDue s.pcc && g.quads.contains quad with
  | some g => startGang s slot g
  | none => s

/-- R133. -/
def execPoolNextRun (s : State) : Host.Outcome State Fault Refusal := .next (poolNextRun s s.arg.a s.arg.b)

/-! ### The end of a run (R134, R135) -/

/-- The replies a core has had enter the control die's clock (R188). -/
def coreRelease (s : State) (q : Nat) : State :=
  let s1 := s.modDie 0 fun x => { x with vc := mergeClock x.vc (clockList (s.core q).ackClock) }
  s1.modCore q fun c => { c with ackClock := [] }

/-- A row of one of a core's sends is on its way. -/
def rowsUnderway (s : State) (q : Nat) : Bool :=
  let c := s.core q
  (List.range 8).any fun n =>
    (c.pairEntry n).getLsbD 20 && s.laneMsgs.any fun m =>
      m.row.isSome && m.quad == (c.peer n).1 && (m.lane == laneKey (c.peer n).2 false || m.lane == laneKey (c.peer n).2 true)

/-- Commands of a quad's cells are all finished, and so is everything they sent. -/
def cellsDone (s : State) (q : Nat) : Bool :=
  ([0, 1, 2, 3].all fun j =>
    let c := s.cell q j
    c.quiet && c.waiting.isEmpty && (c.port 6).held.isEmpty && (c.port 7).held.isEmpty) &&
  !(s.arrivals.any fun a => a.rank / 4 == q) && !(rowsUnderway s q)

/-- Every scalar result of a core is written and nothing of its bundles has still to leave it, REDs and an overlay load apart; a PSWAP
beside TEND waits for that load (R134, R436). -/
def coreDone (s : State) (q : Nat) : Bool :=
  let c := s.core q
  c.arch.pend.isEmpty && c.actions.all (fun a => a.2.isOvl) && c.lsq.all (fun m => m.kind == .red) && c.waita.isNone && c.trapReq.isNone
    && c.hold.isNone && !(s.spawns.any fun x => x.quad == q) && (match c.sync with
      | some (.pswap _) => !c.ovlBusy
      | _ => true)

/-- A quad's part of its run is over: TEND has executed, its commands have finished and its release is performed (R134). -/
def quadEnded (s : State) (q : Nat) : Bool := (s.core q).run == .ended && coreDone s q && cellsDone s q

/-- A run can complete. -/
def runDone (s : State) (g : Gang) : Bool := g.started && !g.ended && g.quads.all (quadEnded s)

/-- A core is free of its task; a PSWAP beside TEND swaps the planes now (R436). A copy engine's report that the task can no longer take
as a trap goes to the host (R280). -/
def endCore (s : State) (q : Nat) : State :=
  let lost := (s.core q).deferred.filter fun t => t.origin == 2
  let s1 := lost.foldl (fun t _ => t.irq 0) (coreRelease s q)
  s1.modCore q fun c =>
    { c with
      run := .stopped, task := none, preempt := false, ending := false, sync := none, deferred := []
      active := match c.sync with
        | some (.pswap _) => 1 - c.active
        | _ => c.active }

/-- The gang after its run: the next temporal run 32 cycles on, or its end. -/
def Gang.afterRun (g : Gang) (e : Entry) (pcc : Nat) : Gang :=
  if g.temporal + 1 < e.turns then
    { g with temporal := g.temporal + 1, started := false, start := pcc + 32, nextAt := pcc + 32, resumed := false,
             idxs := (List.range g.quads.length).map fun k => e.words g.inst k (g.temporal + 1) }
  else { g with ended := true, started := false, start := pcc + 32, nextAt := pcc + 32, resumed := false }

/-- Every instance of an entry has completed. -/
def Entry.finished (e : Entry) : Bool :=
  e.st == .running && e.gangs.all (fun g => g.ended) && (!e.pooled || e.nextItem == e.items)

/-- R134: a run completes; with its last one the entry goes to completing. DEDUCED, log 55. -/
def runComplete (s : State) (slot id : Nat) : State :=
  match (s.entry slot).gang id with
  | none => s
  | some g =>
    if !(runDone s g) then s
    else
      let s1 := g.quads.foldl endCore s
      let s2 := modGang s1 slot id fun g => g.afterRun (s.entry slot) s.pcc
      let s3 := { s2 with preempts := s2.preempts.filter fun p => p != (slot, id) }
      if (s3.entry slot).finished then s3.modEntry slot fun e => { e with st := .completing } else s3

/-- R134. -/
def execRunComplete (s : State) : Host.Outcome State Fault Refusal := .next (runComplete s s.arg.a s.arg.b)

/-- R135: the completion vector, the successors, and the slot is free. -/
def entryComplete (s : State) (slot : Nat) : State :=
  let e := s.entry slot
  if e.st ≠ .completing then s
  else
    let s1 := if 8 ≤ imgVector e.image then s.irq (imgVector e.image) else s
    let s2 := [0, 1, 2, 3].foldl (fun t i =>
      if imgSucc e.image i = noSuccessor then t else depDecrement t (imgSucc e.image i)) s1
    freeSlot s2 slot

/-- R135. -/
def execEntryComplete (s : State) : Host.Outcome State Fault Refusal := .next (entryComplete s s.arg.a)

/-! ### Pre-emption (R138, R282) -/

/-- A released entry may pre-empt a gang of a running one: its priority is higher, the gang holds one of its quads, was dispatched at
least one frame earlier and is at work. DEDUCED, log 40. -/
def preemptable (s : State) (slot victim : Nat) (g : Gang) : Bool :=
  let e := s.entry slot
  let v := s.entry victim
  e.st == .released && e.failReq.isNone && v.st == .running && v.failReq.isNone && decide (imgPriority v.image < imgPriority e.image)
    && g.started && !g.ended && !g.away && g.quads.any e.targets.contains
    && g.dispatched != s.frame.toNat && !(s.preempts.contains (victim, g.id))

/-- R138: the whole gang is asked to stop. -/
def preemptRequest (s : State) (slot victim : Nat) : State :=
  let gs := (s.entry victim).gangs.filter (preemptable s slot victim)
  let s1 := gs.foldl (fun t g => g.quads.foldl (fun u q => u.modCore q fun c => { c with preempt := true }) t) s
  { s1 with preempts := s1.preempts ++ gs.map fun g => (victim, g.id) }

/-- R138. -/
def execPreemptRequest (s : State) : Host.Outcome State Fault Refusal := .next (preemptRequest s s.arg.a s.arg.b)

/-- The bundle a core is at holds an RGN that will execute: its live-in record, where it is well formed. -/
def CoreSt.rgnHere (c : CoreSt) : Option (BitVec 512) :=
  match c.slotInstr .a with
  | .rgn f =>
    let w := (rgnAddr c.arch f).toNat
    let r : BitVec 512 := bitsOfBytes 512 (c.arch.ldmBytes w 64)
    if c.arch.guardTrue f.pg f.ng && decide (w < ldmSize) && decide (w % 64 = 0) && rgnOk r then some r else none
  | _ => none

/-- A core under a pre-emption request stops before this bundle (R282, R285). -/
def CoreSt.stopsHere (c : CoreSt) : Bool :=
  c.preempt && c.slot == 0 && c.arch.ctx != 0 && !c.arch.inHandler && !c.arch.revActive && c.rgnHere.isSome

/-- The request on a gang ends without a save: stopped quads issue their RGN bundles after an interlocked stall. -/
def dropPreempt (s : State) (slot id : Nat) : State :=
  let qs := match (s.entry slot).gang id with
    | some g => g.quads
    | none => []
  let s1 := qs.foldl (fun t q => t.modCore q fun c =>
    { c with preempt := false
             run := if c.run = .atRgn then .running else c.run
             stalled := c.stalled || c.run == .atRgn }) s
  { s1 with preempts := s1.preempts.filter fun p => p != (slot, id) }

/-- The gang cannot all stop: a quad has ended (R282). -/
def preemptLost (s : State) (slot id : Nat) : Bool :=
  match (s.entry slot).gang id with
  | some g => g.quads.any fun q => (s.core q).run == .ended
  | none => true

/-! ### The context area (R281, R283) -/

def rgnX (r : BitVec 512) (n : Nat) : Bool := r.getLsbD n && decide (0 < n)
def rgnP (r : BitVec 512) (n : Nat) : Bool := r.getLsbD (64 + n) && decide (0 < n)
def rgnLc (r : BitVec 512) (n : Nat) : Bool := r.getLsbD (96 + n)
def rgnG (r : BitVec 512) (n : Nat) : Bool := r.getLsbD (112 + n)
def rgnRanges (r : BitVec 512) : List (BitVec 64) := (List.range (nfield r 104 8)).map (rgnRange r)

/-- The 64-byte granules of a record's ranges in the order of the area: cell, or 4 for LDM, and address; addresses go round at the
end of the store. DEDUCED, log 40. -/
def rgnGranules (r : BitVec 512) : List (Nat × Nat) :=
  (rgnRanges r).flatMap fun w =>
    let at_ := nfield w 0 22
    let n := nfield w 26 23 / 64
    if w.getLsbD 63 then (List.range n).map fun i => (4, (at_ + 64 * i) % ldmSize)
    else ([0, 1, 2, 3].filter fun j => w.getLsbD (22 + j)).flatMap fun j => (List.range n).map fun i => (j, (at_ + 64 * i) % spmSize)

/-- The registers a record declares: their place in the area and their bytes. -/
def contextRegs (a : Arch) (r : BitVec 512) : List (Nat × List Byte) :=
  (((List.range 64).filter (rgnX r)).map fun n => (0x40 + 8 * n, bytesOf (a.rx n) 8)) ++
  (((List.range 32).filter (rgnP r)).map fun n => (0x240 + 64 * n, bytesOf (a.rp n) 64)) ++
  (((List.range 4).filter (rgnLc r)).map fun n => (0xA40 + 8 * n, bytesOf (sget LoopCtr.zero a.lc n).word 8)) ++
  (((List.range 16).filter (rgnG r)).map fun n => (0xA60 + 128 * n, bytesOf (sget 0 a.gens n) 128))

/-- What the save writes for a quad: place, bytes, poison. -/
def contextImage (s : State) (q : Nat) (r : BitVec 512) : List (Nat × List Byte × Bool) :=
  let c := s.core q
  let code := match sget none c.tags c.active with
    | some t => t.1
    | none => 0
  let head : List Byte := bytesOf (BitVec.ofNat 64 c.arch.pc) 8 ++ bytesOf (BitVec.ofNat 64 code) 8 ++ List.replicate 48 0
  let data := (rgnGranules r).zipIdx.map fun p =>
    if p.1.1 = 4 then (0x2000 + 64 * p.2, c.arch.ldmBytes p.1.2 64, false)
    else
      let x := s.cell q p.1.1
      (0x2000 + 64 * p.2, x.spmBytes p.1.2 64, sget false x.spmPois (p.1.2 / 64))
  [(0, head, false)] ++ ((contextRegs c.arch r).map fun p => (p.1, p.2, false)) ++ [(0x1260, bytesOf r 64, false)] ++ data

/-- Bytes written at a virtual address in pieces of one granule; false at the first fault. -/
def writeContext (s : State) (d asid : Nat) : List (Nat × List Byte × Bool) → State × Bool
  | [] => (s, true)
  | p :: r =>
    match writeMarked s d 1 asid (pieces p.1 p.2.1 (List.replicate p.2.1.length p.2.2)) with
    | (t, .error _) => (t, false)
    | (t, .ok ()) => writeContext t d asid r

/-- The context area of a quad. -/
def ctxBase (w : Word) : Nat := nfield w 12 36 * 4096

/-- The save engine writes the context of every quad of a list. -/
def saveQuads (s : State) (asid : Nat) : List Nat → State × Bool
  | [] => (s, true)
  | q :: r =>
    let c := s.core q
    match c.rgnHere with
    | none => (s, false)
    | some rec_ =>
      match writeContext s 0 asid ((contextImage s q rec_).map fun p => (ctxBase c.arch.ctx + p.1, p.2)) with
      | (t, true) => saveQuads t asid r
      | (t, false) => (t, false)

/-- A stopped quad has drained: commands of older bundles, results, accesses that a commit awaits, and OVL have finished, and
no deferred trap is to be taken first (R275, R282). -/
def quadStopped (s : State) (q : Nat) : Bool :=
  (s.core q).run == .atRgn && coreDone s q && cellsDone s q && !((s.core q).ovlBusy) && (s.core q).deferred.isEmpty

/-- A gang can be saved. -/
def saveDue (s : State) (g : Gang) : Bool := g.started && !g.ended && !g.away && g.quads.all (quadStopped s)

/-- R282 to R284: the contexts are written and the quads are free; a fault of the save abandons the pre-emption. -/
def contextSave (s : State) (slot id : Nat) : State :=
  let e := s.entry slot
  match e.gang id with
  | none => s
  | some g =>
    if !(saveDue s g) then s
    else
      match saveQuads s (imgAsid e.image) g.quads with
      | (t, false) => dropPreempt t slot id
      | (t, true) =>
        let ctxs := g.quads.map fun q => (s.core q).arch.ctx
        let t1 := g.quads.foldl (fun u q => (engRelease u 0).modCore q fun c =>
          { c with run := .stopped, task := none, preempt := false }) t
        let t2 := modGang t1 slot id fun g => { g with started := false, away := true, ctxs := ctxs }
        { t2 with preempts := t2.preempts.filter fun p => p != (slot, id) }

/-- R282. -/
def execContextSave (s : State) : Host.Outcome State Fault Refusal := .next (contextSave s s.arg.a s.arg.b)

/-! ### Resumption (R284) -/

/-- len bytes of a context area: none where they cannot be read or carry poison. -/
def contextRead (s : State) (asid va len : Nat) : State × Option (List Byte) := trestleRead s asid va len

/-- Registers read back, each at its place. -/
def restoreRegs (s : State) (asid base : Nat) : List (Nat × Nat) → State × Option (List (List Byte))
  | [] => (s, some [])
  | p :: r =>
    match contextRead s asid (base + p.1) p.2 with
    | (t, none) => (t, none)
    | (t, some bs) =>
      match restoreRegs t asid base r with
      | (u, some l) => (u, some (bs :: l))
      | (u, none) => (u, none)

/-- Granules of the ranges read back into scratchpad, poison with them, and LDM. -/
def restoreRanges (s : State) (q asid va : Nat) : List (Nat × Nat) → State × Bool
  | [] => (s, true)
  | p :: r =>
    match engRead s 0 1 asid va 64 with
    | (t, .error _) => (t, false)
    | (t, .ok x) =>
      if p.1 = 4 then
        if x.2 ≠ 0 then (t, false)
        else restoreRanges (t.modArch q fun a => { a with ldm := putBytes 0 a.ldm p.2 x.1 }) q asid (va + 64) r
      else
        restoreRanges (t.modCell q p.1 fun c => (c.putSpm p.2 x.1).markSpm p.2 64 fun _ => x.2 != 0) q asid (va + 64) r

/-- The declared registers written over the task-start values. -/
def putRegs (a : Arch) (r : BitVec 512) (vals : List (List Byte)) : Arch :=
  let xs := (List.range 64).filter (rgnX r)
  let ps := (List.range 32).filter (rgnP r)
  let ls := (List.range 4).filter (rgnLc r)
  let gs := (List.range 16).filter (rgnG r)
  let v (n : Nat) : List Byte := (vals[n]?).getD []
  { a with
    x := xs.zipIdx.foldl (fun m p => sset 0 m p.1 (bitsOfBytes 64 (v p.2))) a.x
    p := ps.zipIdx.foldl (fun m p => sset 0 m p.1 (bitsOfBytes 512 (v (xs.length + p.2)))) a.p
    lc := ls.zipIdx.foldl (fun m p => sset LoopCtr.zero m p.1 (LoopCtr.ofWord (bitsOfBytes 64 (v (xs.length + ps.length + p.2))))) a.lc
    gens := gs.zipIdx.foldl (fun m p => sset 0 m p.1 (bitsOfBytes 1024 (v (xs.length + ps.length + ls.length + p.2)))) a.gens }

/-- Places and lengths of the declared registers. -/
def regPlaces (r : BitVec 512) : List (Nat × Nat) :=
  (((List.range 64).filter (rgnX r)).map fun n => (0x40 + 8 * n, 8)) ++ (((List.range 32).filter (rgnP r)).map fun n => (0x240 + 64 * n, 64))
    ++ (((List.range 4).filter (rgnLc r)).map fun n => (0xA40 + 8 * n, 8)) ++ (((List.range 16).filter (rgnG r)).map fun n => (0xA60 + 128 * n, 128))

/-- One quad of a gang resumes from its context area: overlay, task-start values, declared state, region entry. -/
def resumeQuad (s : State) (slot : Nat) (g : Gang) (p : Nat × Nat) : State × Bool :=
  let q := p.1
  let asid := imgAsid (s.entry slot).image
  let base := ctxBase ((g.ctxs[p.2]?).getD 0)
  match contextRead s asid base 64, contextRead s asid (base + 0x1260) 64 with
  | (_, some head), (t, some rec_) =>
    let r : BitVec 512 := bitsOfBytes 512 rec_
    let code := natOfBytes ((head.drop 8).take 8) % 2 ^ 48
    match choosePlane t q code asid, restoreRegs t asid base (regPlaces r) with
    | (u, true), (_, some vals) =>
      let u1 := startCore u slot g (natOfBytes (head.take 8) % 2048) p
      let u2 := u1.modArch q fun a => putRegs a r vals
      restoreRanges u2 q asid (base + 0x2000) (rgnGranules r)
    | (u, _), _ => (u, false)
  | (t, _), _ => (t, false)

/-- Every quad of a gang resumes, or one cannot. -/
def resumeQuads (s : State) (slot : Nat) (g : Gang) : List (Nat × Nat) → State × Bool
  | [] => (s, true)
  | p :: r =>
    match resumeQuad s slot g p with
    | (t, true) => resumeQuads t slot g r
    | (t, false) => (t, false)

/-- R284: the gang resumes on its quads; a fault of the restore fails the entry with cause 3. -/
def preemptResume (s : State) (slot id : Nat) : State :=
  match (s.entry slot).gang id with
  | none => s
  | some g =>
    if !(g.resumeDue s.pcc) then s
    else
      match resumeQuads (acquireAll s) slot g g.quads.zipIdx with
      | (t, false) => entryFail t slot 0 3
      | (t, true) => modGang t slot id fun g => { g with started := true, resumed := false, start := t.pcc }

/-- R284. -/
def execPreemptResume (s : State) : Host.Outcome State Fault Refusal := .next (preemptResume s s.arg.a s.arg.b)

end Sys2Proof.Machine
end

