-- ==== Sys2Proof/Machine/Package.lean ====
section
/-! DEFINITION. The package: clock, stretching and heat, viaduct ports, flood exploration, boot, keys, event counters and the
registers the host writes and reads (R12 to R48, R60). -/

namespace Sys2Proof.Machine

/-! ### The package clock, droops and heat (R20 to R24, R29) -/

/-- R20: a debug halt, or deep idle (a not 0), stops the clock of every die on one count. -/
def execDebugHalt (s : State) : Host.Outcome State Fault Refusal :=
  .next { s with clockOn := false, debugHalt := s.debugHalt || s.arg.a == 0 }

/-- The clock runs again, on all dies together; after a thermal trip only a reset starts it (R20, R29). -/
def clockResume (s : State) : State := if s.tripped then s else { s with clockOn := true, debugHalt := false }

/-- R20. -/
def execClockResume (s : State) : Host.Outcome State Fault Refusal := .next (clockResume s)

/-- Cycles an episode goes on after its last droop report (R22). -/
def episodeTail : Nat := 256

/-- A droop report of die d: it opens an episode, whose first stretched cycle is the next one, or extends the open one; event 0x003
(R21, R22, R46); one in the very cycle in which an episode would end extends it (DESIGN CHOICE, log 48). DEDUCED, log 48. -/
def droopReport (s : State) (d : Nat) : State :=
  let s1 := countDie s d 0x003 1
  match s.episode with
  | some e => { s1 with episode := some (e.1, s.pcc) }
  | none => { s1 with episode := some (s.pcc + 1, s.pcc) }

/-- R21. -/
def execDroopDetect (s : State) : Host.Outcome State Fault Refusal := .next (droopReport s s.arg.a)

/-- The open episode has ended (R22). -/
def episodeOver (s : State) : Bool :=
  match s.episode with
  | some e => decide (e.2 + episodeTail ≤ s.pcc)
  | none => false

/-- R22, R23. -/
def execStretchEpisodeEnd (s : State) : Host.Outcome State Fault Refusal :=
  .next (if episodeOver s then { s with episode := none } else s)

/-- The present cycle is a stretched one (R21 to R23). DEDUCED, log 4. -/
def stretchedNow (s : State) : Bool :=
  match s.episode with
  | some e => decide (e.1 ≤ s.pcc) && decide (s.pcc < e.2 + episodeTail)
  | none => false

/-- R29: a die at 105 °C reports a droop, once every 256 cycles; hotDies holds the cycle from which it may report again. -/
def thermalWarning (s : State) (d : Nat) : State :=
  if s.pcc < sget 0 s.hotDies d then s
  else droopReport { s with hotDies := sset 0 s.hotDies d (s.pcc + episodeTail) } d

/-- R29. -/
def execThermalWarning (s : State) : Host.Outcome State Fault Refusal := .next (thermalWarning s s.arg.a)

/-- R29: at 115 °C the clock stops until a host reset. -/
def execThermalTrip (s : State) : Host.Outcome State Fault Refusal :=
  .next { s.irq 0 with clockOn := false, tripped := true }

/-! ### The PTP clock's sources (R60) -/

/-- The clock takes a time and is locked. -/
def setPtp (s : State) (secs nanos : Nat) : State :=
  { s with ptp := timeNanos s secs nanos * nsUnits, ptpLocked := true, fresh := timeFresh s nanos }

/-- R60: a time flit on the selected port under sources 1 and 2. -/
def execTimeFlitReceive (s : State) : Host.Outcome State Fault Refusal :=
  .next (if (s.ptpSource = 1 ∨ s.ptpSource = 2) ∧ s.ptpPort.toNat = s.arg.a ∧ (s.port s.arg.a).up then
    setPtp s s.arg.b s.arg.c else s)

/-- R60: pps_seen; under source 2 the pulse corrects phase: the clock moves to the nearest whole second (DESIGN CHOICE, log 66). -/
def ppsEdge (s : State) : State :=
  let sec := 10 ^ 9 * nsUnits
  { s with ppsSeen := true, ptp := if s.ptpSource = 2 then (s.ptp + sec / 2) / sec * sec else s.ptp }

/-- R60. -/
def execPpsEdge (s : State) : Host.Outcome State Fault Refusal := .next (ppsEdge s)

/-! ### The graph of the package (R12 to R14, R35, R36) -/

/-- The die-to-die port at the other end of a port (R12): die and port. -/
def lanePeer (d p : Nat) : Option (Nat × Nat) :=
  if d = 0 then (if p < 8 then some (p + 1, 2) else if p = 8 then some (9, 0) else none)
  else if d ≤ 8 then
    match p with
    | 0 => some ((d + 6) % 8 + 1, 1)
    | 1 => some (d % 8 + 1, 0)
    | 2 => some (0, d - 1)
    | _ => none
  else if d = 9 ∧ p = 0 then some (0, 8) else none

/-- The ports of a die and the dies they lead to, ascending. -/
def lanes (d : Nat) : List (Nat × Nat) := (List.range 9).filterMap fun p => (lanePeer d p).map fun x => (p, x.1)

/-- The trained die-to-die ports of a die and the dies they lead to. -/
def lanesUp (s : State) (d : Nat) : List (Nat × Nat) := (lanes d).filter fun x => !(s.lanesDown.contains (d, x.1))

/-- A graph of the package: per die its ports with the die and the latency of each, ascending. -/
abbrev Graph := List (List (Nat × Nat × Nat))

/-- Hops of every die to die b on paths of at most n hops. -/
def hopsWithin (g : Graph) (b : Nat) : Nat → List (Option Nat)
  | 0 => (List.range 10).map fun a => if a = b then some 0 else none
  | n + 1 =>
    let h := hopsWithin g b n
    (g.zip h).map fun x => x.1.foldl (fun m e =>
      match ((h[e.2.1]?).getD none), m with
      | some k, some j => some (min j (k + 1))
      | some k, none => some (k + 1)
      | none, j => j) x.2

/-- Hops of the longest path of a package. -/
def packageReach : Nat := 9

/-- The path of R35 from die a, given the hops of every die to its end: fewest hops, then the lowest ports. -/
def pathFrom (g : Graph) (h : List (Option Nat)) : Nat → Nat → List (Nat × Nat × Nat)
  | 0, _ => []
  | n + 1, a =>
    match (h[a]?).getD none with
    | some (k + 1) =>
      match ((g[a]?).getD []).find? fun e => (h[e.2.1]?).getD none == some k with
      | some e => e :: pathFrom g h n e.2.1
      | none => []
    | _ => []

/-- The path from die a to die b. -/
def pathTo (g : Graph) (a b : Nat) : List (Nat × Nat × Nat) := pathFrom g (hopsWithin g b packageReach) packageReach a

/-- L(a, b) by R13, the same in both directions: along the path from the lower-numbered die, where the two ways differ (DESIGN CHOICE,
log 21); of two dies that no trained path joins the spec gives none. -/
def computedLat (g : Graph) (a b : Nat) : Nat :=
  if a = b then 0
  else
    match pathTo g (min a b) (max a b) with
    | [] => (Config.noPathLatency (min a b) (max a b)).toNat
    | p => p.foldl (fun n e => n + e.2.2) 0 + Config.transitCycles * (p.length - 1) + Config.elasticMargin

/-- The latency table of R18; of a latency above 255, which no entry holds, it keeps the low eight bits (DESIGN CHOICE, log 21). -/
def computedTable (g : Graph) : Sparse (BitVec 8) :=
  (List.range 10).foldl (fun t a => (List.range 10).foldl (fun u b => sset 0 u (16 * a + b) (BitVec.ofNat 8 (computedLat g a b))) t) []

/-- The graph that an exploration's reports of this package make: the lanes of R12 at the ports they list as trained. -/
def reportGraph (s : State) : Graph := (List.range 10).map fun d =>
  match s.reports.find? fun r => r.pkg == s.pkgUsed.toNat && r.die == d with
  | some r => r.links.filterMap fun l => (lanePeer d l.1).map fun x => (l.1, x.1, l.2)
  | none => []

/-- A router of another package in the graph of all packages: its number, its die, and its ports with the router each leads to. -/
structure Router where
  pkg : Nat
  die : Nat
  ports : List (Nat × Nat × Nat)
  deriving DecidableEq, Repr

/-- The routers that the reports make known, each with its ports, ascending, and where they lead: over a lane of R12 to a die of its
package, over a viaduct link to the control die of the package at its other end. DESIGN CHOICE, log 49. -/
def routersOf (s : State) : List Router := s.reports.map fun r =>
  { pkg := r.pkg, die := r.die,
    ports := r.links.filterMap fun l =>
      if l.1 < 16 then (lanePeer r.die l.1).map fun x => (l.1, r.pkg, x.1) else (Config.viaductPeer r.pkg (l.1 - 16)).map fun p => (l.1, p, 0) }

/-- Hops of every router to a die of a package on paths of at most n hops. -/
def routerHops (g : List Router) (pkg die : Nat) : Nat → List (Option Nat)
  | 0 => g.map fun r => if r.pkg = pkg ∧ r.die = die then some 0 else none
  | n + 1 =>
    let h := routerHops g pkg die n
    (g.zip h).map fun x => x.1.ports.foldl (fun m e =>
      match ((g.zip h).find? fun y => y.1.pkg == e.2.1 && y.1.die == e.2.2).bind Prod.snd, m with
      | some k, some j => some (min j (k + 1))
      | some k, none => some (k + 1)
      | none, j => j) x.2

/-- The ports of the path from a router, given the hops of every router to its end: fewest hops, then the lowest port hop by hop (R35). -/
def routerPath (g : List (Router × Option Nat)) : Nat → Nat → Nat → List Nat
  | 0, _, _ => []
  | n + 1, pkg, die =>
    let at_ (p d : Nat) : Option (Router × Option Nat) := g.find? fun x => x.1.pkg == p && x.1.die == d
    match at_ pkg die with
    | some (r, some (k + 1)) =>
      match r.ports.find? fun e => ((at_ e.2.1 e.2.2).bind Prod.snd) == some k with
      | some e => e.1 :: routerPath g n e.2.1 e.2.2
      | none => []
    | _ => []

/-- The ports from the control die to a router of another package: the path of R35 in the graph of all packages, or, where the wiring
known gives none, the port on which its report of the fewest hops came in. DESIGN CHOICE, log 49. -/
def farPorts (s : State) (r : Report) : List Nat :=
  let g := routersOf s
  match routerPath (g.zip (routerHops g r.pkg r.die g.length)) g.length s.pkgUsed.toNat 0 with
  | [] => [r.exit]
  | p => p

/-- The routes of every die of this package: to its dies, and to each die of another package reached, by way of the control die, which
carries every viaduct port (R30, R35). DEDUCED, log 49. -/
def routesOf (s : State) (g : Graph) : List (Nat × Nat × Nat × List Nat) :=
  let far := (s.reports.filter fun r => r.pkg != s.pkgUsed.toNat).map fun r => (r.pkg, r.die, farPorts s r)
  (List.range 10).flatMap fun a =>
    let ports (b : Nat) : List Nat := (pathTo g a b).map Prod.fst
    ((List.range 10).map fun b => (a, s.pkgUsed.toNat, b, ports b)) ++ far.map fun r => (a, r.1, r.2.1, ports 0 ++ r.2.2)

/-! ### Flood exploration (R34 to R38) -/

/-- An EXPLORE flit's payload from its bytes. -/
def explPayload (bs : List Byte) : BitVec 960 := bitsOfBytes 960 bs
def explByte (f : BitVec 1024) (i : Nat) : Nat := nfield f (32 + 8 * i) 8
def explHop (f : BitVec 1024) : Nat := explByte f 0
def explKind (f : BitVec 1024) : Nat := explByte f 1
def explGenOf (f : BitVec 1024) : BitVec 32 := f.extractLsb' (32 + 64) 32

/-- The header of an EXPLORE flit: the router that sends it, and the generation. -/
def explHeader (hop kind pkg port die : Nat) (gen : BitVec 32) : List Byte :=
  [BitVec.ofNat 8 hop, BitVec.ofNat 8 kind, BitVec.ofNat 8 pkg, BitVec.ofNat 8 (pkg / 256), BitVec.ofNat 8 port,
   BitVec.ofNat 8 die, 0, 0] ++ bytesOf gen 4 ++ [0, 0, 0, 0]

/-- A probe. -/
def probeFlit (hop pkg port die : Nat) (gen : BitVec 32) : BitVec 1024 :=
  rawFlit 4 (explPayload (explHeader hop 0 pkg port die gen))

/-- The trained ports of a die, with their fused latencies; viaduct port p counts as port 16 + p (DESIGN CHOICE, log 21). -/
def trainedPorts (s : State) (d : Nat) : List (Nat × Nat) :=
  (lanesUp s d).map (fun x => (x.1, Config.fusedHop d x.2)) ++
    (if d = 0 then ((List.range 24).filter fun p => (s.port p).up).map fun p => (16 + p, (Config.viaductHop p).toNat) else [])

/-- A report of the router of die d: its hop count, its parent port, its trained ports. The spec gives payload byte 0 of a report no
value: 0 (DESIGN CHOICE, log 64). -/
def reportFlit (s : State) (d hop parent : Nat) (gen : BitVec 32) : BitVec 1024 :=
  let ports := trainedPorts s d
  rawFlit 4 (explPayload (explHeader 0 1 s.pkgUsed.toNat parent d gen ++
    [BitVec.ofNat 8 hop, BitVec.ofNat 8 parent, BitVec.ofNat 8 d, BitVec.ofNat 8 ports.length] ++ bytesOf s.pkgUsed 2 ++
    ports.flatMap fun x => [BitVec.ofNat 8 x.1, BitVec.ofNat 8 x.2]))

/-- An EXPLORE flit leaves die d on a trained port: over a lane to the router at its other end, or over a viaduct link. -/
def sendExplore (s : State) (d port : Nat) (f : BitVec 1024) : State :=
  if 16 ≤ port then (if d = 0 then sendFlit s (port - 16) f else s)
  else
    match lanePeer d port with
    | some x => if s.lanesDown.contains (d, port) then s else { s with explFlits := s.explFlits ++ [(x.1, x.2, f)] }
    | none => s

/-- The parent port of the router at which an exploration started. -/
def rootPort : Nat := 255

/-- R37: go; the exploration starts when Trestle holds no running or completing entry. -/
def execExplorationRequest (s : State) : Host.Outcome State Fault Refusal := .next { s with explGo := true }

/-- A requested exploration can start. -/
def explorationDue (s : State) : Bool :=
  s.explGo && !s.explRunning && !(s.entries.any fun e => e.2.st == .running || e.2.st == .completing)

/-- R34, R38: a new generation; the control die's own ports are known, and probes with hop count 0 leave every trained one. -/
def beginExploration (s : State) : State :=
  let gen := s.explGen + 1
  let pkg : BitVec 16 := if s.pkgNum = 0xFFFF then 0 else s.pkgNum
  let own : Report := { pkg := pkg.toNat, die := 0, hops := 0, parent := rootPort, links := trainedPorts s 0, via := 0, exit := 0 }
  let s1 := { s with explRunning := true, explGen := gen, pkgUsed := pkg, reports := [own], explLast := s.pcc }
  let s2 := s1.modDie 0 fun x => { x with parent := some (rootPort, 0, gen) }
  (trainedPorts s2 0).foldl (fun t p => sendExplore t 0 p.1 (probeFlit 0 pkg.toNat p.1 0 gen)) s2

/-- R34, R37: a requested exploration starts. -/
def explorationStart (s : State) : State := if explorationDue s then beginExploration s else s

/-- R34. -/
def execExplorationStart (s : State) : Host.Outcome State Fault Refusal := .next (explorationStart s)

/-- A router takes a probe: of a new generation, of fewer hops, of as many hops on a lower port; the router at which an exploration runs
takes none (R34, R37). DEDUCED, log 49. -/
def acceptsProbe (s : State) (d port hop : Nat) (gen : BitVec 32) : Bool :=
  decide (hop ≤ 15) && !(d == 0 && s.explRunning) &&
    match (s.die d).parent with
    | none => true
    | some q => q.2.2 != gen || decide (hop < q.2.1) || (hop == q.2.1 && decide (port < q.1))

/-- R34, R37: a probe at a router. -/
def exploreProbe (s : State) (d port : Nat) (f : BitVec 1024) : State :=
  let hop := explHop f
  let gen := explGenOf f
  if explKind f ≠ 0 || !(acceptsProbe s d port hop gen) then s
  else
    let s1 := s.modDie d fun x => { x with parent := some (port, hop, gen) }
    let s2 := if hop = 15 then s1
      else ((trainedPorts s1 d).filter fun p => p.1 != port).foldl (fun t p =>
        sendExplore t d p.1 (probeFlit (hop + 1) s.pkgUsed.toNat p.1 d gen)) s1
    sendExplore s2 d port (reportFlit s d hop port gen)

/-- R34. -/
def execExploreProbe (s : State) : Host.Outcome State Fault Refusal := .next (exploreProbe s s.arg.a s.arg.b s.arg.wide)

/-- A report as the boot processor reads it. -/
def readReport (f : BitVec 1024) (via : Nat) : Report :=
  { pkg := explByte f 20 + 256 * explByte f 21, die := explByte f 18, hops := explByte f 16, parent := explByte f 17,
    links := (List.range (min (explByte f 19) 49)).map fun i => (explByte f (22 + 2 * i), explByte f (23 + 2 * i)), via := via, exit := via }

/-- What tells reports of one package number and die apart. -/
def Report.code (r : Report) : Nat := r.hops + 2 ^ 8 * r.parent + 2 ^ 16 * r.via

/-- Two reports of one package number and die, not this package's, come from different routers: they list other ports, or nothing tells
(DESIGN CHOICE, log 49). -/
def Report.differs (x r : Report) : Bool := x.links != r.links || Config.distinctPackages x.code r.code

/-- The reports after one more. A report of this package's number from outside sets dup and is not kept. Of one router the one with the
fewest hops stays, among equal ones the last to arrive, with the lowest port on which a report of as few has come in; of two routers of
one package number and die the first reached in the order of R35 stays, and dup is set (R35, R37, R38). DEDUCED, log 49. -/
def keepReport (s : State) (r : Report) : State :=
  if r.pkg = s.pkgUsed.toNat ∧ 16 ≤ r.via then { s with explDup := true }
  else
    match s.reports.find? fun x => x.pkg == r.pkg && x.die == r.die with
    | none => { s with reports := s.reports ++ [r] }
    | some x =>
      let put (y : Report) : List Report := s.reports.map fun z => if z.pkg = r.pkg ∧ z.die = r.die then y else z
      if r.pkg ≠ s.pkgUsed.toNat ∧ x.differs r then
        let sooner := decide (r.hops < x.hops) || (r.hops == x.hops && decide (r.via < x.exit))
        { s with explDup := true, reports := put (if sooner then r else x) }
      else
        let exit := if r.hops < x.hops then r.via else if r.hops = x.hops then min x.exit r.via else x.exit
        { s with reports := put { (if r.hops ≤ x.hops then r else x) with exit := exit } }

/-- R37: a report at a router: forwarded on its parent port, or kept where the exploration started. -/
def exploreReport (s : State) (d port : Nat) (f : BitVec 1024) : State :=
  match (s.die d).parent with
  | none => s
  | some q =>
    if explKind f ≠ 1 || q.2.2 != explGenOf f then s
    else if q.1 ≠ rootPort then sendExplore s d q.1 f
    else if d = 0 ∧ s.explRunning then { keepReport s (readReport f port) with explLast := s.pcc }
    else s

/-- R37. -/
def execExploreReport (s : State) : Host.Outcome State Fault Refusal := .next (exploreReport s s.arg.a s.arg.b s.arg.wide)

/-- No report for 65,536 cycles ends an exploration (R37). -/
def exploreQuiet : Nat := 65536

/-- An exploration has ended. -/
def explorationOver (s : State) : Bool := s.explRunning && decide (s.explLast + exploreQuiet ≤ s.pcc)

/-- The packages reached, this one apart. -/
def otherPackages (s : State) : List Nat :=
  (s.reports.map fun r => r.pkg).foldl (fun l p => if l.contains p || p == s.pkgUsed.toNat then l else l ++ [p]) []

/-- R35 to R38: the routing tables and the latency table are rewritten, and what waited for a route goes on its way. At bring-up there was
no table before (DEDUCED, log 49). -/
def rewriteTables (s : State) : State :=
  let g := reportGraph s
  let table := computedTable g
  let s1 := (List.range 10).foldl (fun t d => t.modDie d fun x => { x with parent := none }) s
  repost
    { s1 with
      routes := routesOf s g
      explChanged := s.explChanged || (s.bootState != 1 && decide (s.latTable ≠ table))
      latTable := table
      explFound := min 255 (1 + (otherPackages s).length)
      explRunning := false
      explGo := false }

/-- The recovery state with the step that failed (R41). -/
def recovery (s : State) (n : Nat) : State := { s with bootState := 3, bootStep := n, bootSvn := 0 }

/-- The image in flash verifies: SHAKE256 of its public key is the fused hash, and its signature holds under that key (R39, R40). -/
def imageVerifies (flash : List (Nat × Byte)) : Bool :=
  shake256 (Config.imageKey flash) == Config.keyHash && Config.signatureHolds flash

/-- Steps 4 to 7 of the boot ROM (R39): the image is read, verified and checked, and the firmware starts. -/
def startImage (s : State) : State :=
  if !(Config.imageReadable s.flash) then recovery s 4
  else if !(imageVerifies s.flash) then recovery s 5
  else if Config.imageSvn s.flash < Config.minSvn then recovery s 6
  else { s with bootState := 2, bootStep := 7, bootSvn := Config.imageSvn s.flash, bootImage := s.flash }

/-- An exploration ends (R37); at bring-up the boot goes on with step 4. -/
def explorationEnd (s : State) : State :=
  if !(explorationOver s) then s
  else if s.bootState = 1 then startImage (rewriteTables s)
  else rewriteTables s

/-- R35 to R38. -/
def execExplorationEnd (s : State) : Host.Outcome State Fault Refusal := .next (explorationEnd s)

/-! ### Boot (R39 to R42) -/

/-- R42: bytes of the image in flash, those that lie in the window. -/
def execImagePushWrite (s : State) : Host.Outcome State Fault Refusal :=
  .next { s with flash := putBytes emptyByte s.flash s.arg.a (s.arg.bytes.take (0x1000000 - s.arg.a)) }

/-- R42: the reset is requested; every earlier push has reached flash. -/
def execColdResetRequest (s : State) : Host.Outcome State Fault Refusal := .next { s with resetReq := true }

/-- Step 2: every die-to-die lane and viaduct port trains, or is left down with event 0x023. DESIGN CHOICE, log 21. -/
def trainPorts (s : State) : State :=
  let down := (List.range 10).flatMap fun d => ((lanes d).filter fun x => !(Config.laneTrains (min d x.2) (max d x.2))).map fun x => (d, x.1)
  let s1 := down.foldl (fun t x => countDie t x.1 0x023 1) { s with lanesDown := down }
  (List.range 24).foldl (fun t p =>
    if Config.portTrains p then t else countDie (t.modPort p fun v => { v with up := false }) 0 0x023 1) s1

/-- Steps 1 to 3 of the boot ROM (R39): the cycle counters start together, ports train, the flood exploration starts; steps 4 to 7 follow
its end. -/
def bootRom (s : State) : State := { beginExploration (trainPorts s) with bootStep := 3 }

/-- What a cold reset leaves as it stands: flash, the stored bytes of the memories, the wall clock, what the host has been told, its
configuration space, the monitor, the last exploration's generation (a new one is to be new, R37), and the model's own inputs.
DEDUCED, log 53. -/
def afterReset (s : State) : State :=
  { State.reset with
    flash := s.flash, mem := s.mem, keyTag := s.keyTag, poison := s.poison, farBad := s.farBad, wall := s.wall, msix := s.msix,
    hostOut := s.hostOut, hostAsks := s.hostAsks, bar0 := s.bar0, bar2 := s.bar2, bar4 := s.bar4, bar4Bits := s.bar4Bits,
    explGen := s.explGen, inputs := s.inputs, later := s.later, choices := s.choices, fresh := s.fresh, monitor := s.monitor }

/-- R39. -/
def execColdReset (s : State) : Host.Outcome State Fault Refusal := .next (bootRom (afterReset s))

/-! ### Keys (R44, R45) -/

/-- A write to KEYCTL: ignored while busy; clear prevails over load. -/
def keyControl (s : State) (slot : Nat) (load clear : Bool) : State :=
  if s.keyPend.isSome then s
  else
    let s1 := { s with keySlotSel := BitVec.ofNat 7 slot }
    if clear then { s1 with keyPend := some (slot, none) }
    else if load then { s1 with keyPend := some (slot, some s.keyData) }
    else s1

/-- R44. -/
def execKeySlotLoad (s : State) : Host.Outcome State Fault Refusal := .next (keyControl s s.arg.a true false)

/-- R45. -/
def execKeySlotClear (s : State) : Host.Outcome State Fault Refusal := .next (keyControl s s.arg.a false true)

/-- Nothing that a stack engine accepted before an update is still to be performed: requests, reductions, queries and the messages that
answer them (R44). -/
def StackSt.keyIdle (x : StackSt) : Bool :=
  x.accepted.isEmpty && x.reduce.isEmpty && x.queries.isEmpty && x.listReq.isEmpty && x.distReq.isEmpty

/-- The stack engines take an update once every request accepted before it has been performed (R44). -/
def keyUpdate (s : State) : State :=
  match s.keyPend with
  | some u => if (List.range 16).all fun k => (s.stack k).keyIdle then { s with keys := sset none s.keys u.1 u.2, keyPend := none } else s
  | none => s

/-! ### Logs and counters (R28, R46, R47, R100, R139) -/

/-- A log's pointers after a write of its register: the tail, and the dropped count with written ones cleared. -/
def tailField (w : Word) : Nat := nfield w 16 9
def clearOnes (n : Nat) (w : Word) (lo width : Nat) : Nat := (BitVec.ofNat 64 n &&& ~~~(w.extractLsb' lo width).setWidth 64).toNat

/-- R28. A tail that is refused does not keep the dropped count from being cleared (DESIGN CHOICE, log 65). -/
def execDieLogTailWrite (s : State) : Host.Outcome State Fault Refusal :=
  .next (s.modDie s.arg.a fun x =>
    { x with deTail := tailWrite x.deHead x.deTail (tailField s.arg.word), deDropped := clearOnes x.deDropped s.arg.word 32 16 })

/-- R100. -/
def execStackLogTailWrite (s : State) : Host.Outcome State Fault Refusal :=
  .next (s.modStack s.arg.a fun x =>
    { x with seTail := tailWrite x.seHead x.seTail (tailField s.arg.word), seDropped := clearOnes x.seDropped s.arg.word 32 16 })

/-- R139. -/
def execSlipLogTailWrite (s : State) : Host.Outcome State Fault Refusal :=
  .next { s with slTail := tailWrite s.slHead s.slTail (tailField s.arg.word), slDropped := clearOnes s.slDropped s.arg.word 32 16 }

/-- R47: ovf is set, and with ovf_irq MSI-X vector 1 is sent. Owners 0 to 255 are quads, 256 + d is die d. -/
def counterWrap (s : State) (owner n : Nat) : State :=
  let set (m : Sparse (BitVec 14)) : Sparse (BitVec 14) := sset ecselReset m n (sget ecselReset m n ||| 0x1000)
  if owner < 256 then
    let e := sget ecselReset (s.core owner).arch.es n
    let s1 := s.modCore owner fun c =>
      { c with arch := { c.arch with es := set c.arch.es },
               snaps := c.snaps.map fun (p : Nat × Arch × Option RevWalk) => (p.1, { p.2.1 with es := set p.2.1.es }, p.2.2) }
    if e.getLsbD 13 then s1.irq 1 else s1
  else
    let e := sget ecselReset (s.die (owner - 256)).ecsel n
    let s1 := s.modDie (owner - 256) fun x => { x with ecsel := set x.ecsel }
    if e.getLsbD 13 then s1.irq 1 else s1

/-- R47. -/
def execCounterWrap (s : State) : Host.Outcome State Fault Refusal := .next (counterWrap s s.arg.a s.arg.b)

/-! ### Registers (R6, R7) -/

/-- A field of a written word in its place, every other bit zero. -/
def keepBits (w : Word) (lo n : Nat) : Word := (w >>> lo &&& BitVec.ofNat 64 (2 ^ n - 1)) <<< lo

/-- A register of logic die d at offset r of its block. -/
def dieRegister (s : State) (d r : Nat) (w : Word) : State :=
  if 10 ≤ d then s
  else if r = 0x40 then s.modDie d fun x => { x with rto := w.extractLsb' 0 32 }
  else if r = 0x80 then
    let s1 := s.modDie d fun x => { x with rqSel := w.extractLsb' 0 5 }
    let at_ := { EvArg.none with a := d, b := rqChan (w.extractLsb' 0 5) }
    if w.getLsbD 6 then thenStep s1 .replayDiscard at_ else if w.getLsbD 5 then thenStep s1 .replayRelease at_ else s1
  else if r = 0x100 then thenStep s .dieLogTailWrite { EvArg.none with a := d, word := w }
  else if 0x1000 ≤ r ∧ r < 0x1100 ∧ r % 16 = 0 then
    s.modDie d fun x => { x with ecsel := sset ecselReset x.ecsel ((r - 0x1000) / 16) (ecselWrite (sget ecselReset x.ecsel ((r - 0x1000) / 16)) w) }
  else if 0x1000 ≤ r ∧ r < 0x1100 ∧ r % 16 = 8 then
    s.modDie d fun x => { x with ecnt := sset 0 x.ecnt ((r - 0x1000) / 16) (w.extractLsb' 0 48) }
  else if 0x40000 ≤ r ∧ r < 0x44000 ∧ r % 8 = 0 ∧ 1 ≤ d ∧ d ≤ 8 then
    hostPend s (32 * (d - 1)) (.template ((r - 0x40000) / 64) ((r - 0x40000) % 64 / 8)) (wide w)
  else s

/-- A register of stack k at offset r of its block. A base of 0 disables the migration engine: a command under way goes no further and
leaves nothing behind at the ring (R95; DESIGN CHOICE, log 47). -/
def stackRegister (s : State) (k r : Nat) (w : Word) : State :=
  if 16 ≤ k then s
  else if r = 0 then thenStep s .stackLogTailWrite { EvArg.none with a := k, word := w }
  else if r = 8 then s.modStack k fun x =>
    let base := keepBits w 14 38 ||| keepBits w 52 7
    { x with migBase := base, migProd := none, migration := if nfield base 14 38 = 0 then none else x.migration }
  else s

/-- A counter register of quad q (R48). -/
def quadRegister (s : State) (q r : Nat) (w : Word) : State :=
  if 256 ≤ q then s
  else if r % 16 = 0 then hostPend s q (.sys (0x24 + r / 16)) (wide w)
  else if r % 16 = 8 then hostPend s q (.sys (0x20 + r / 16)) (wide w)
  else s

/-- A write inside the launch window of BAR2. One that covers bytes 56 to 63 writes bytes 56 to 59 and then ctl; into a busy slot with
valid = 1 it counts as two rejections, of the bytes and of the commit (DESIGN CHOICE, log 66). -/
def windowRegister (s : State) (o : Nat) (w : Word) : State :=
  if o = 0x40000 then { s with lstatRejected := s.lstatRejected &&& ~~~(w.extractLsb' 0 32) }
  else if 0x40000 ≤ o ∨ o % 8 ≠ 0 then s
  else if o % 64 = 56 then
    thenStep (thenStep s .entryCommit { EvArg.none with a := o / 64, word := w >>> 32 })
      .launchSlotWrite { EvArg.none with a := o / 64, b := 56, bytes := bytesOf w 4 }
  else thenStep s .launchSlotWrite { EvArg.none with a := o / 64, b := o % 64, bytes := bytesOf w 8 }

/-- A write to TLBINV: its fields unless a shootdown is under way, which go starts (R180). -/
def tlbInvWrite (s : State) (w : Word) : State :=
  if s.tlbInv.getLsbD 63 then s
  else
    let s1 := { s with tlbInv := keepBits w 0 50 }
    if w.getLsbD 63 then thenStep s1 .tlbShootdown { EvArg.none with word := w } else s1

/-- A control register of the package at a BAR0 offset below the logs and tables; of LOADCTL written with go and unload together go
acts first, and an 8-byte write to one half of the 16-byte FORIGIN sets no origin (DESIGN CHOICE, log 66). -/
def packageRegister (s : State) (o : Nat) (w : Word) : State :=
  if o = 0x08 then (if w.getLsbD 0 then thenStep s .coldResetRequest EvArg.none else s)
  else if o = 0x10 then
    let s1 := { s with explChanged := s.explChanged && !(w.getLsbD 1), explDup := s.explDup && !(w.getLsbD 2) }
    if w.getLsbD 0 then thenStep s1 .explorationRequest EvArg.none else s1
  else if o = 0x18 then { s with pkgNum := w.extractLsb' 0 16 }
  else if o = 0x400 then { s with w4base := keepBits w 0 7 ||| keepBits w 30 22 }
  else if o = 0x500 then
    let src := w.extractLsb' 0 2
    let port := w.extractLsb' 2 5
    { s with ptpSource := src, ptpPort := port, ptpLocked := s.ptpLocked && src == s.ptpSource && port == s.ptpPort,
             ppsSeen := s.ppsSeen && !(w.getLsbD 8) }
  else if o = 0x550 then { s with ptpRate := w.extractLsb' 0 32 }
  else if o = 0x600 then { s with loadAddr := w }
  else if o = 0x608 then
    let s1 := if w.getLsbD 1 then thenStep s .loaderUnload EvArg.none else s
    if w.getLsbD 0 then thenStep s1 .loaderStart EvArg.none else s1
  else if o = 0x700 then { s with surfBase := keepBits w 6 46 ||| keepBits w 52 7 }
  else if o = 0x800 then thenStep s .slipLogTailWrite { EvArg.none with word := w }
  else if o = 0x810 then { s with tfailCount := clearOnes s.tfailCount w 32 32 }
  else if o = 0x820 then { s with stray := clearOnes s.stray w 0 32, unmatched := clearOnes s.unmatched w 32 32 }
  else if o = 0x828 then thenStep s .hostDepDecrement { EvArg.none with a := nfield w 0 12 }
  else if o = 0x900 then { s with astBase := keepBits w 15 37 ||| keepBits w 52 7 }
  else if o = 0x910 then tlbInvWrite s w
  else if o = 0x3000 then keyControl s (nfield w 0 7) (w.getLsbD 8) (w.getLsbD 9)
  else if 0x3100 ≤ o ∧ o < 0x3140 ∧ o % 8 = 0 then
    let at_ := 8 * (o - 0x3100)
    let mask : BitVec 512 := (0xFFFFFFFFFFFFFFFF : BitVec 512) <<< at_
    { s with keyData := (s.keyData &&& ~~~mask) ||| (w.setWidth 512 <<< at_) }
  else if 0x8000 ≤ o ∧ o < 0xC000 ∧ o % 8 = 0 then
    let n := (o - 0x8000) / 16
    thenStep s .arrivalEntryWrite { EvArg.none with a := n, b := 1 + o % 16 / 8, wide := w.setWidth 1024 }
  else s

/-- A 64-bit write to the register at a BAR0 offset (BAR2 offset o counts as 0x0400_0000 + o): writable fields take the value by
their access codes, read-only and reserved fields ignore it, and an offset without a register does nothing (R6, R7). -/
def registerWrite (s : State) (o : Nat) (w : Word) : State :=
  if 0x04000000 ≤ o then windowRegister s (o - 0x04000000) w
  else if 0x03000000 ≤ o then thenStep s .imagePushWrite { EvArg.none with a := o - 0x03000000, bytes := bytesOf w 8 }
  else if 0x02100000 ≤ o then quadRegister s ((o - 0x02100000) / 0x40) ((o - 0x02100000) % 0x40) w
  else if 0x02000000 ≤ o then stackRegister s ((o - 0x02000000) / 0x10000) ((o - 0x02000000) % 0x10000) w
  else if 0x01000000 ≤ o then dieRegister s ((o - 0x01000000) / 0x100000) ((o - 0x01000000) % 0x100000) w
  else packageRegister s o w

/-- R6. -/
def execRegisterWrite (s : State) : Host.Outcome State Fault Refusal := .next (registerWrite s s.arg.a s.arg.word)

/-! ### Reading registers (R6, R7, R18, R19, R41, R42, R48, R57, R59) -/

/-- Fields of a register, each a value at a bit; every other bit reads zero (R7). -/
def fieldsOf (l : List (Nat × Nat)) : Word := BitVec.ofNat 64 (l.foldl (fun n x => n + x.2 * 2 ^ x.1) 0)

def bit (b : Bool) : Nat := if b then 1 else 0

/-- A log's pointers. -/
def logPointers (head tail dropped : Nat) : Word := fieldsOf [(0, head), (16, tail), (32, dropped)]

/-- Word i of a record of 32 bytes. -/
def recordWord (r : BitVec 256) (i : Nat) : Word := r.extractLsb' (64 * i) 64

/-- A time as 48 bits of seconds and 32 bits of nanoseconds, the lower and the upper eight bytes. DEDUCED, log 59. -/
def timeWords (ns : Nat) : Word × Word :=
  let v : BitVec 128 := BitVec.ofNat 128 (ns / 10 ^ 9 % 2 ^ 48 + ns % 10 ^ 9 * 2 ^ 48)
  (v.extractLsb' 0 64, v.extractLsb' 64 64)

/-- Registers of logic die d at an offset of its block. -/
def dieRead (s : State) (d r : Nat) : Option Word :=
  let x := s.die d
  if 10 ≤ d then none
  else if r = 0 then some (BitVec.ofNat 64 s.pcc)
  else if r = 0x40 then some (x.rto.setWidth 64)
  else if r = 0x80 then
    let n := rqChan x.rqSel
    let parked := if n = 16 then x.ceReplay.length else (s.channel d n).parked.length
    some (fieldsOf [(0, x.rqSel.toNat), (8, parked)])
  else if r = 0x100 then some (logPointers x.deHead x.deTail x.deDropped)
  else if 0x1000 ≤ r ∧ r < 0x1100 ∧ r % 16 = 0 then some ((sget ecselReset x.ecsel ((r - 0x1000) / 16)).setWidth 64)
  else if 0x1000 ≤ r ∧ r < 0x1100 ∧ r % 16 = 8 then some ((sget 0 x.ecnt ((r - 0x1000) / 16)).setWidth 64)
  else if 0x8000 ≤ r ∧ r < 0xA000 then some (recordWord (sget 0 x.dlog ((r - 0x8000) / 32)) ((r - 0x8000) % 32 / 8))
  else if 0x40000 ≤ r ∧ r < 0x44000 ∧ 1 ≤ d ∧ d ≤ 8 then
    some ((sget 0 x.templates ((r - 0x40000) / 64)).extractLsb' ((r - 0x40000) % 64 * 8) 64)
  else none

/-- Registers of stack k. -/
def stackRead (s : State) (k r : Nat) : Option Word :=
  let x := s.stack k
  if 16 ≤ k then none
  else if r = 0 then some (logPointers x.seHead x.seTail x.seDropped)
  else if r = 8 then some x.migBase
  else if 0x2000 ≤ r ∧ r < 0x4000 then some (recordWord (sget 0 x.slog ((r - 0x2000) / 32)) ((r - 0x2000) % 32 / 8))
  else none

/-- Counters of quad q (R48). -/
def quadRead (s : State) (q r : Nat) : Option Word :=
  if 256 ≤ q then none
  else if r % 16 = 0 then some ((sget ecselReset (s.core q).arch.es (r / 16)).setWidth 64)
  else if r % 16 = 8 then some ((sget 0 (s.core q).ec (r / 16)).setWidth 64)
  else none

/-- The content of a launch slot: valid reads 0 while the slot is free, and with the captured content 1 when it is not (R57). A slot
that is free again shows the bytes [59:0] the host stored last, with ctl 0: neither the captured image nor a ctl written with valid = 0
is kept (DESIGN CHOICE, log 66). -/
def slotContent (s : State) (slot : Nat) : BitVec 512 :=
  let e := s.entry slot
  if e.st = .free then sget 0 s.slotBytes slot &&& ~~~((1 : BitVec 512) <<< 511) else e.image ||| (1 : BitVec 512) <<< 511

/-- Slots that are free (R59). -/
def freeSlots (s : State) : Nat := slotCount - (s.entries.filter fun p => p.2.st != .free).length

/-- The launch window (R54, R57, R59). -/
def launchRead (s : State) (o : Nat) : Option Word :=
  if o < 0x40000 then some ((slotContent s (o / 64)).extractLsb' (o % 64 * 8) 64)
  else if o = 0x40000 then some (fieldsOf [(0, s.lstatRejected.toNat), (32, s.lstatSlot), (44, s.lstatReason), (48, freeSlots s)])
  else none

/-- Control registers of the package below the blocks of the dies. -/
def packageRead (s : State) (o : Nat) : Option Word :=
  if o = 0x00 then some (fieldsOf [(0, s.bootState), (4, s.bootStep), (16, s.bootSvn.toNat)])
  else if o = 0x08 then some (fieldsOf [(0, bit s.resetReq)])
  else if o = 0x10 then some (fieldsOf [(0, bit (s.explGo || s.explRunning)), (1, bit s.explChanged), (2, bit s.explDup), (8, s.explFound)])
  else if o = 0x18 then some (s.pkgNum.setWidth 64)
  else if o = 0x400 then some s.w4base
  else if o = 0x500 then
    some (fieldsOf [(0, s.ptpSource.toNat), (2, s.ptpPort.toNat), (7, bit s.ptpLocked), (8, bit s.ppsSeen)])
  else if o = 0x510 then some (timeWords s.ptpNs).1
  else if o = 0x518 then some (timeWords s.ptpNs).2
  else if o = 0x520 then some (timeWords (s.foriginNew.getD s.forigin)).1
  else if o = 0x528 then some (timeWords (s.foriginNew.getD s.forigin)).2
  else if o = 0x530 then some (fieldsOf [(0, s.frame.toNat), (32, bit s.held), (33, bit s.owait)])
  else if o = 0x538 then some (BitVec.ofNat 64 s.slipNs)
  else if o = 0x540 ∨ o = 0x548 then some 0
  else if o = 0x550 then some (s.ptpRate.setWidth 64)
  else if o = 0x600 then some s.loadAddr
  else if o = 0x608 then some (fieldsOf [(4, s.loadStatus)])
  else if o = 0x700 then some s.surfBase
  else if o = 0x800 then some (logPointers s.slHead s.slTail s.slDropped)
  else if o = 0x810 then some (fieldsOf [(0, s.tfailSlot), (12, s.tfailQuad), (20, s.tfailCause), (32, s.tfailCount)])
  else if o = 0x820 then some (fieldsOf [(0, s.stray), (32, s.unmatched)])
  else if o = 0x828 then some 0
  else if o = 0x900 then some s.astBase
  else if o = 0x910 then some s.tlbInv
  else if 0x2000 ≤ o ∧ o < 0x20A0 then
    some (bitsOfBytes 64 ((List.range 8).map fun i =>
      if o % 16 + i < 10 then sget 0 s.latTable (o - 0x2000 + i) else 0))
  else if o = 0x3000 then some (fieldsOf [(0, s.keySlotSel.toNat), (10, bit s.keyPend.isSome)])
  else if 0x3100 ≤ o ∧ o < 0x3140 then some 0
  else if 0x4000 ≤ o ∧ o < 0x6000 then some (recordWord (sget 0 s.slipLog ((o - 0x4000) / 32)) ((o - 0x4000) % 32 / 8))
  else if 0x8000 ≤ o ∧ o < 0xC000 then some ((sget 0 s.arrivalTable ((o - 0x8000) / 16)).extractLsb' ((o - 0x8000) % 16 * 8) 64)
  else none

/-- The eight bytes of the registers at an offset of BAR0 (BAR2 offset o counts as 0x0400_0000 + o) that is a multiple of 8: what is
reserved or write-only reads zero (R6, R7); none where no register lies, and in the recovery state outside BOOTST, BOOTCTL and the push
window (R41). DEDUCED, log 59. -/
def registerRead (s : State) (o : Nat) : Option Word :=
  if s.bootState = 3 ∧ o < 0x04000000 ∧ o ≠ 0 ∧ o ≠ 8 ∧ !(decide (0x03000000 ≤ o)) then none
  else if 0x04000000 ≤ o then launchRead s (o - 0x04000000)
  else if 0x03000000 ≤ o then some 0
  else if 0x02100000 ≤ o then quadRead s ((o - 0x02100000) / 0x40) ((o - 0x02100000) % 0x40)
  else if 0x02000000 ≤ o then stackRead s ((o - 0x02000000) / 0x10000) ((o - 0x02000000) % 0x10000)
  else if 0x01000000 ≤ o then dieRead s ((o - 0x01000000) / 0x100000) ((o - 0x01000000) % 0x100000)
  else packageRead s o

/-- Bytes of the registers from an offset on, as they stand in one cycle; a byte where no register lies is a free value. -/
def registerBytes (s : State) (o len : Nat) : List Byte :=
  (List.range len).map fun i =>
    let w := (registerRead s ((o + i) / 8 * 8)).getD (Config.freeWord s.fresh)
    w.extractLsb' ((o + i) % 8 * 8) 8

/-- What the host asks beside the acts of the opcode table is answered: a read of BAR0 or BAR2, of at most 64 bytes inside the BAR, or a
write of its configuration space (R6, R50). DESIGN CHOICE, log 59. -/
def hostAsk (s : State) : HostAsk → State
  | .read bar o len =>
    let size := if bar = 2 then 0x80000 else 0x04000000
    if (bar = 0 ∨ bar = 2) ∧ len ≤ 64 ∧ o + len ≤ size then
      { s with hostOut := s.hostOut ++ [.register bar o (registerBytes s (if bar = 2 then 0x04000000 + o else o) len)], fresh := s.fresh + 1 }
    else s
  | .setBase bar w =>
    match bar with
    | 0 => { s with bar0 := keepBits w 26 38 }
    | 2 => { s with bar2 := keepBits w 19 45 }
    | 4 => { s with bar4 := keepBits w s.bar4Bits (64 - s.bar4Bits) }
    | _ => s
  | .setSize n => if 30 ≤ n ∧ n ≤ 40 then { s with bar4Bits := n, bar4 := keepBits s.bar4 n (64 - n) } else s

/-- An offset of BAR4 that the configured size claims (R50). -/
def bar4Claims (s : State) (o len : Nat) : Bool := decide (o + len ≤ 2 ^ s.bar4Bits)

end Sys2Proof.Machine
end

