-- ==== Sys2Proof/Machine/Host.lean ====
section
/-! DEFINITION. The host's side: BAR4, attestation, setting the PTP clock, the loader, TLB shootdowns
(R51, R53, R60, R63 to R67, R180, R195). -/

namespace Sys2Proof.Machine

/-! ### BAR4 (R51, R195) -/

/-- The device address of a BAR4 offset, and the key slot of every BAR4 access. -/
def bar4Addr (s : State) (o : Nat) : Nat := nfield s.w4base 30 22 * 2 ^ 30 + o
def bar4Key (s : State) : Nat := nfield s.w4base 0 7

/-- The place a physical address names where no page-table entry gives a home mode: mode 00. DEDUCED, log 28. -/
def plainPlace (key pa : Nat) : Place := { pa := pa, key := key, home := 0, soft := false }

/-- Bytes at a physical address read as .bp by the control die, 4 KiB at a time; the status of the first that fails. -/
def hostReadRun (s : State) (key : Nat) : Nat → Nat → Nat → State × Nat × List Byte
  | 0, _, _ => (s, 0, [])
  | fuel + 1, pa, len =>
    if len = 0 then (s, 0, [])
    else
      let n := min len (4096 - pa % 4096)
      let r := placeRead s 0 1 (plainPlace key pa) lineFuel n
      if r.2.1 ≠ 0 then (r.1, r.2.1, [])
      else
        let t := hostReadRun r.1 key fuel (pa + n) (len - n)
        (t.1, t.2.1, r.2.2.1 ++ t.2.2)

/-- Bytes written at a physical address as .bp writes of the control die. -/
def hostWriteRun (s : State) (key : Nat) : Nat → Nat → List Byte → State
  | 0, _, _ => s
  | fuel + 1, pa, bs =>
    if bs.isEmpty then s
    else
      let n := min bs.length (4096 - pa % 4096)
      let w := placeWrite s 0 1 (plainPlace key pa) false (clockList (s.die 0).vc) lineFuel ((bs.take n).map some)
      hostWriteRun (noteAcks s 0 w.2) key fuel (pa + n) (bs.drop n)

/-- The pieces of 4 KiB a run may need. -/
def runFuel (len : Nat) : Nat := len / 4096 + 2

/-- The homes of a run of near bytes under mode 00. -/
def homesOf (pa len : Nat) : List Nat := (List.range 8).map (· + 1) |>.filter fun h =>
  decide (pa < 2 ^ 40) && decide (pa / 2 ^ 37 + 1 ≤ h) && decide (h ≤ (pa + len - 1) / 2 ^ 37 + 1)

/-- R50, R51, R195: a read under a valid key slot is an acquire at system scope; otherwise it completes with Completer Abort. What lies
beyond the configured size of BAR4 is not the device's.
DEDUCED, log 51. -/
def bar4Read (s : State) (o len : Nat) : State :=
  let abort := { s with hostOut := s.hostOut ++ [.readAbort] }
  if !(bar4Claims s o len) then s
  else if (s.keyOf (bar4Key s)).isNone then abort
  else
    let r := hostReadRun s (bar4Key s) (runFuel len) (bar4Addr s o) len
    if r.2.1 ≠ 0 then abort
    else
      let t := (homesOf (bar4Addr s o) len).foldl (fun u h => acquireAt u 0 (u.homeClock h)) r.1
      { t with hostOut := t.hostOut ++ [.readData r.2.2] }

/-- R195. -/
def execHostBar4Read (s : State) : Host.Outcome State Fault Refusal := .next (bar4Read s s.arg.a s.arg.b)

/-- R51, R195: a write under an invalid key slot is discarded. -/
def bar4Write (s : State) (o : Nat) (bs : List Byte) : State :=
  if !(bar4Claims s o bs.length) || (s.keyOf (bar4Key s)).isNone then s else hostWriteRun s (bar4Key s) (runFuel bs.length) (bar4Addr s o) bs

/-- R195. -/
def execHostBar4Write (s : State) : Host.Outcome State Fault Refusal := .next (bar4Write s s.arg.a s.arg.bytes)

/-! ### Attestation (R53) -/

/-- SPDM request codes (PRESUMED, log 9). -/
def spdmVersion : Nat := 0x84
def spdmCapabilities : Nat := 0xE1
def spdmAlgorithms : Nat := 0xE3
def spdmDigests : Nat := 0x81
def spdmCertificate : Nat := 0x82
def spdmChallenge : Nat := 0x83
def spdmMeasurements : Nat := 0xE0

/-- An answer leaves over DOE. -/
def spdmReply (s : State) (bs : List Byte) : State := { s with hostOut := s.hostOut ++ [.spdm bs] }

/-- The answer to a supported request; the two stand in the transcript. -/
def spdmAnswerTo (s : State) (code : Nat) : State :=
  let a := Config.spdmAnswer code s.arg.bytes
  { spdmReply s a with transcript := s.transcript ++ s.arg.bytes ++ a }

/-- ECDSA P-384 and SHA-384 in the algorithm fields of SPDM (PRESUMED, log 9). -/
def ecdsaP384 : BitVec 32 := 0x80
def hashSha384 : BitVec 32 := 0x2

/-- The device signs what has been exchanged: ECDSA P-384 over its SHA-384 digest (R53). PRESUMED, log 9. -/
def spdmSign (s : State) : State :=
  { s with hostOut := s.hostOut ++ [.signature (Config.deviceSignature (sha384 s.transcript) s.fresh)], fresh := s.fresh + 1 }

/-- R53: a transcript begins. -/
def execSpdmGetVersion (s : State) : Host.Outcome State Fault Refusal := .next (spdmAnswerTo { s with transcript := [] } spdmVersion)
/-- R53. -/
def execSpdmGetCapabilities (s : State) : Host.Outcome State Fault Refusal := .next (spdmAnswerTo s spdmCapabilities)
/-- R53: the device signs with ECDSA P-384 and hashes with SHA-384. -/
def execSpdmNegotiateAlgorithms (s : State) : Host.Outcome State Fault Refusal :=
  let t := spdmAnswerTo s spdmAlgorithms
  .next { t with hostOut := t.hostOut ++ [.algorithms ecdsaP384 hashSha384] }
/-- R53. -/
def execSpdmGetDigests (s : State) : Host.Outcome State Fault Refusal := .next (spdmAnswerTo s spdmDigests)
/-- R53. -/
def execSpdmGetCertificate (s : State) : Host.Outcome State Fault Refusal := .next (spdmAnswerTo s spdmCertificate)
/-- R53. -/
def execSpdmChallenge (s : State) : Host.Outcome State Fault Refusal := .next (spdmSign (spdmAnswerTo s spdmChallenge))

/-- The measurement of an index: the digest of the running image, the fused key hash, the security version. -/
def measurement (s : State) (index : Nat) : Option (List Byte) :=
  match index with
  | 1 => some (sha384 (Config.firmwareBytes s.bootImage))
  | 2 => some (bytesOf Config.keyHash 32)
  | 3 => some (bytesOf s.bootSvn 4)
  | _ => none

/-- The measurements a request asks for: one index, or all of them. -/
def askedIndices (n : Nat) : List Nat := if n = 0xFF then [1, 2, 3] else [n]

/-- R53: the measurements asked for, within the answer, signed where the request asks for it. -/
def spdmMeasure (s : State) : State :=
  let t := spdmAnswerTo s spdmMeasurements
  let ms := (askedIndices ((s.arg.bytes[3]?).getD 0).toNat).filterMap fun i => (measurement s i).map fun m => HostMsg.measurement i m
  let u := { t with hostOut := t.hostOut ++ ms }
  if ((s.arg.bytes[2]?).getD 0).getLsbD 0 then spdmSign u else u

/-- R53. -/
def execSpdmGetMeasurements (s : State) : Host.Outcome State Fault Refusal := .next (spdmMeasure s)

/-- The answer ERROR UnsupportedRequest of SPDM 1.3 to a request code. -/
def spdmUnsupportedAnswer (code : Byte) : List Byte := [0x13, 0x7F, 0x07, code]

/-- R53. -/
def execSpdmUnsupported (s : State) : Host.Outcome State Fault Refusal :=
  .next (spdmReply s (spdmUnsupportedAnswer ((s.arg.bytes[1]?).getD 0)))

/-! ### Setting the PTP clock (R60) -/

/-- R60: under source 0 the clock takes the time written; under any other the write is ignored. -/
def execPtpTimeSet (s : State) : Host.Outcome State Fault Refusal :=
  .next (if s.ptpSource = 0 then setPtp s s.arg.a s.arg.b else s)

/-! ### The container (R63, R64) -/

/-- A section of a container: type, flags, payload. -/
structure Section where
  type : Nat
  flags : Nat
  body : List Byte
  deriving DecidableEq, Repr

def containerMagic : Nat := 0x36394D4C

/-- The longest overlay. -/
def overlayLimit : Nat := 65536

/-- A length rounded up to 32 bytes. -/
def pad32 (n : Nat) : Nat := (n + 31) / 32 * 32

/-- The sections from an address on, read under a key; none where a read fails, or a section is of no type or an overlay too long. -/
def readSections (s : State) (key : Nat) : Nat → Nat → State × Option (List Section)
  | 0, _ => (s, some [])
  | n + 1, at_ =>
    match hostReadRun s key 2 at_ 16 with
    | (t, 0, h) =>
      let type := natOfBytes (h.take 4)
      let len := natOfBytes ((h.drop 4).take 8)
      if type < 1 ∨ 5 < type ∨ (type = 1 ∧ overlayLimit < len) ∨ 2 ^ 40 < len then (t, none)
      else
        match hostReadRun t key (runFuel len) (at_ + 16) len with
        | (u, 0, bs) =>
          match readSections u key n (at_ + 16 + pad32 len) with
          | (v, some r) => (v, some ({ type := type, flags := natOfBytes (h.drop 12), body := bs } :: r))
          | (v, none) => (v, none)
        | (u, _, _) => (u, none)
    | (t, _, _) => (t, none)

/-- The container at an address, checked by R63 and R64. -/
def readContainer (s : State) (key at_ : Nat) : State × Option (List Section) :=
  match hostReadRun s key 3 at_ 64 with
  | (t, 0, h) =>
    if natOfBytes (h.take 4) ≠ containerMagic ∨ natOfBytes ((h.drop 4).take 2) ≠ 1 ∨ (h.drop 16).any (· != 0) then (t, none)
    else
      match readSections t key (natOfBytes ((h.drop 6).take 2)) (at_ + 64) with
      | (u, some secs) =>
        if (secs.map fun x => x.body.length).sum = natOfBytes ((h.drop 8).take 8) then (u, some secs) else (u, none)
      | (u, none) => (u, none)
  | (t, _, _) => (t, none)

/-- The sections of a type. -/
def sectionsOf (secs : List Section) (type : Nat) : List Section := secs.filter fun x => x.type == type

/-! ### Binding (R65) -/

/-- The logical die of each logical quad. -/
def quadMap (secs : List Section) : List Nat := (sectionsOf secs 4).flatMap fun x => x.body.map BitVec.toNat

/-- The declarations of a container: pairs of logical dies with the latency assumed. -/
def declared (secs : List Section) : List (Nat × Nat × Nat) :=
  (sectionsOf secs 3).flatMap fun x =>
    (List.range 100).filterMap fun i =>
      match (x.body[i]? : Option Byte) with
      | some b => if b = 0xFF then none else some (i / 10, i % 10, b.toNat)
      | none => none

/-- The logical dies from 1 to 8 that are used, ascending. -/
def usedDies (secs : List Section) : List Nat :=
  ((List.range 8).map (· + 1)).filter fun k =>
    (quadMap secs).contains k || (declared secs).any fun e => e.1 == k || e.2.1 == k

/-- A matrix die none of whose quads is bound to another loaded image than the one at an address. -/
def dieFree (s : State) (addr d : Nat) : Bool :=
  !(s.images.any fun i => i.addr != addr && i.quads.any fun q => quadDie q == d)

/-- The physical die of a logical one under a binding of the dies 1 to 8, if it has one. -/
def boundDie (b : List (Nat × Nat)) (k : Nat) : Option Nat :=
  if k = 0 then some 0 else if k = 9 then some 9 else (b.find? fun p => p.1 == k).map Prod.snd

/-- Every declaration between bound dies holds. -/
def declaredHold (s : State) (decl : List (Nat × Nat × Nat)) (b : List (Nat × Nat)) : Bool :=
  decl.all fun e =>
    match boundDie b e.1, boundDie b e.2.1 with
    | some x, some y => s.lat x y == e.2.2
    | _, _ => true

/-- The first binding in lexicographic order of physical dies that extends a partial one. -/
def searchBinding (s : State) (addr : Nat) (decl : List (Nat × Nat × Nat)) : List Nat → List (Nat × Nat) → Option (List (Nat × Nat))
  | [], b => some b
  | k :: r, b =>
    ((List.range 8).map (· + 1)).findSome? fun d =>
      let b1 := b ++ [(k, d)]
      if dieFree s addr d && !(b.any fun p => p.2 == d) && declaredHold s decl b1 then searchBinding s addr decl r b1 else none

/-- The binding of R65: the identity where it will do, else the first that will. -/
def bindDies (s : State) (addr : Nat) (secs : List Section) : Option (List (Nat × Nat)) :=
  let used := usedDies secs
  let decl := declared secs
  let same := used.map fun k => (k, k)
  if (used.all fun k => dieFree s addr k) && declaredHold s decl same then some same else searchBinding s addr decl used []

/-- The physical quads of the logical ones, in ascending order on each die; none where a die has no room or a quad no matrix die. -/
def bindQuads (b : List (Nat × Nat)) : List Nat → List Nat → Option (List Nat)
  | _, [] => some []
  | before, k :: r =>
    match b.find? fun p => p.1 == k with
    | some p =>
      let n := before.count k
      if n < 32 then (bindQuads b (before ++ [k]) r).map fun qs => (32 * (p.2 - 1) + n) :: qs else none
    | none => none

/-! ### Placing sections (R63, R66; DESIGN CHOICE, log 19) -/

/-- The overlay as placed: its address space, its address, its bytes to 64 KiB. -/
def overlayRun (x : Section) : Nat × Nat × List Byte :=
  ((Config.sectionSpace x.flags).toNat, (Config.overlayFrame x.flags x.body).toNat * overlayLimit,
    x.body ++ List.replicate (overlayLimit - x.body.length) 0)

/-- A data section as placed: its address is in its first 8 bytes. -/
def dataRun (x : Section) : Nat × Nat × List Byte :=
  ((Config.sectionSpace x.flags).toNat, natOfBytes (x.body.take 8), x.body.drop 8)

/-- What a container places. -/
def placedRuns (secs : List Section) : List (Nat × Nat × List Byte) :=
  secs.filterMap fun x => if x.type = 1 then some (overlayRun x) else if x.type = 2 then some (dataRun x) else none

/-- Write bytes at virtual addresses page by page; none where a page does not translate or a home answers a status. -/
def placeRun (s : State) (asid : Nat) : Nat → Nat → List Byte → Option State
  | 0, _, _ => some s
  | fuel + 1, va, bs =>
    if bs.isEmpty then some s
    else
      let n := min bs.length (4096 - va % 4096)
      match translate s (.engine 0) asid va 0 with
      | (_, .error _) => none
      | (t, .ok p) =>
        let w := placeWrite t 0 1 p false (clockList (t.die 0).vc) lineFuel ((bs.take n).map some)
        if w.1 ≠ 0 then none else placeRun (noteAcks t 0 w.2) asid fuel (va + n) (bs.drop n)

/-- Every section placed, or nothing. -/
def placeAllRuns (s : State) : List (Nat × Nat × List Byte) → Option State
  | [] => some s
  | x :: r =>
    match placeRun s x.1 (runFuel x.2.2.length) x.2.1 x.2.2 with
    | some t => placeAllRuns t r
    | none => none

/-! ### The loader (R66, R67) -/

/-- The loader's status changes, with MSI-X vector 2. -/
def loaderStatus (s : State) (n : Nat) : State := { s.irq 2 with loadStatus := n }

/-- The entries of the timetable sections, 64 bytes each. -/
def timetable (secs : List Section) : List (BitVec 512) :=
  (sectionsOf secs 5).flatMap fun x => (List.range (x.body.length / 64)).map fun i => bitsOfBytes 512 ((x.body.drop (64 * i)).take 64)

/-- The image a container becomes under a binding. -/
def boundImage (addr : Nat) (secs : List Section) (b : List (Nat × Nat)) (quads : List Nat) : Image :=
  { addr := addr, dies := (List.range 10).map fun k => (boundDie b k).getD 255, quads := quads,
    overlays := (sectionsOf secs 1).map fun x => ((overlayRun x).1, (overlayRun x).2.1) }

/-- The load of the container at an address: what it leaves, or none where it is refused. -/
def loadImage (s : State) (addr key : Nat) : Option State :=
  match readContainer s key addr with
  | (_, none) => none
  | (t, some secs) =>
    match bindDies t addr secs with
    | none => none
    | some b =>
      match bindQuads b [] (quadMap secs) with
      | none => none
      | some quads =>
        match placeAllRuns t (placedRuns secs) with
        | none => none
        | some u =>
          let img := boundImage addr secs b quads
          let v := { u with images := u.images.filter (fun i => i.addr != addr) ++ [img] }
          some ((timetable secs).zipIdx.foldl (fun w e => commitEntry w (Config.timetableSlot addr e.2).toNat e.1 img.binding) v)

/-- R66: busy, then done, or refused with nothing touched; an image whose latencies cannot be bound (R65) ends as refused too, status 3,
for LOADCTL has no code of its own for it (DESIGN CHOICE, log 19). -/
def loaderStart (s : State) : State :=
  let s1 := loaderStatus s 1
  match loadImage s1 s.loadAddr.toNat (Config.loaderKey s.loadAddr).toNat with
  | some t => loaderStatus t 2
  | none => loaderStatus s1 3

/-- R66. -/
def execLoaderStart (s : State) : Host.Outcome State Fault Refusal := .next (loaderStart s)

/-- An entry that is not free has its code in an overlay of an image. -/
def imageInUse (s : State) (i : Image) : Bool :=
  s.entries.any fun e => e.2.st != .free && i.holdsCode (imgAsid e.2.image) (imgCode e.2.image)

/-- R66: the image at LOADADDR is unloaded, or the unload is refused. It passes through status 1 (busy) as a load does, with its
message, and ends with 2 (DESIGN CHOICE, log 19: R66 names only the refused unload's 3). -/
def loaderUnload (s : State) : State :=
  let s1 := loaderStatus s 1
  match s.images.find? fun i => i.addr == s.loadAddr.toNat with
  | none => loaderStatus s1 3
  | some i =>
    if imageInUse s i then loaderStatus s1 3
    else loaderStatus { s1 with images := s1.images.filter fun x => x.addr != i.addr } 2

/-- R66. -/
def execLoaderUnload (s : State) : Host.Outcome State Fault Refusal := .next (loaderUnload s)

/-! ### TLB shootdown (R180) -/

/-- TLBINV names a translation. -/
def tlbNamed (w : Word) (e : Nat × Nat × Nat × Word) : Bool :=
  let va := nfield w 0 36 * 4096
  match nfield w 48 2 with
  | 0 => e.1 == nfield w 36 12 && decide (e.2.1 ≤ va ∧ va < e.2.1 + e.2.2.1)
  | 1 => e.1 == nfield w 36 12
  | _ => true

/-- R180: every TLB drops what the write names; go reads 1 until the requests translated before have been performed. -/
def tlbShootdown (s : State) (w : Word) : State :=
  if s.tlbInv.getLsbD 63 then s
  else
    let drop (t : List (Nat × Nat × Nat × Word)) : List (Nat × Nat × Nat × Word) := t.filter fun e => !(tlbNamed w e)
    let s1 := (List.range 256).foldl (fun t q => if (t.core q).tlb.isEmpty then t else t.modCore q fun c => { c with tlb := drop c.tlb }) s
    let s2 := (List.range 10).foldl (fun t d => if (t.die d).tlb.isEmpty then t else t.modDie d fun x => { x with tlb := drop x.tlb }) s1
    { s2 with tlbInv := keepBits w 0 50 ||| 0x8000000000000000, tlbSince := s.pcc }

/-- R180. -/
def execTlbShootdown (s : State) : Host.Outcome State Fault Refusal := .next (tlbShootdown s s.arg.word)

/-- A request that was translated before the shootdown has still to be performed: an access of a core, or the token of a prefetch. -/
def tlbBusy (s : State) : Bool :=
  s.cores.any (fun c => c.2.lsq.any (fun m => m.kind != .tmpl && decide (m.phase < 2) && decide (m.issued ≤ s.tlbSince)) ||
    c.2.actions.any fun a => match a.2 with
      | .pfr _ _ _ _ _ _ _ _ => true
      | _ => false)
  || s.dies.any fun d => !(d.2.prefetches.isEmpty)

/-- A shootdown is over when nothing waits for a request that was translated before it (R180). -/
def tlbSettle (s : State) : State :=
  if s.tlbInv.getLsbD 63 && !(tlbBusy s) then { s with tlbInv := keepBits s.tlbInv 0 50 } else s

end Sys2Proof.Machine
end

