-- ==== Sys2Proof/Machine/Reply.lean ====
section
/-! DEFINITION. Global accesses of a stream core on their way: when each is sent and what it asks of its stack, the reply, the
time-out, the register a load writes, WAITA's reads and fences (R25 to R28, R75, R85, R349 to R363). -/

namespace Sys2Proof.Machine

/-! ### Results that come later than their bundle -/

/-- Scalar register n of the core takes a value that bundle bid has waited for; younger bundles' copies hold it too. -/
def lateX (s : State) (q bid n : Nat) (v : Word) : State :=
  let put (a : Arch) : Arch := if n = 0 then a else { a with x := sset 0 a.x n v }
  s.modCore q fun c =>
    { c with
      arch := put c.arch
      snaps := c.snaps.map fun (p : Nat × Arch × Option RevWalk) => if bid < p.1 then (p.1, put p.2.1, p.2.2) else p }

/-- A precise trap of an issued bundle that waited for an answer: it and younger ones leave no effect (R150, R272, R349). -/
def preciseTrap (s : State) (q bid : Nat) (t : Trap) : State :=
  let s1 := cancelFrom s q bid
  if (s1.core q).frontier < bid then s1.modCore q fun c => { c with trapReq := some t } else takeTrap s1 q t

/-- A trap of slot B of a bundle. -/
def accessTrap (s : State) (cause bundle : Nat) (tval : Word) : Trap :=
  { cause := cause, slot := 1, origin := 0, cell := 0, chan := 0, ce := false, gstep := false, tval := tval, tpc := bundle,
    seen := s.pcc }

/-- The cause and value of a stack status that is not 0 (R75, R178). -/
def statusCause (status : Nat) : Nat := if status = 2 then 3 else 5
def statusTval (va status : Nat) : Word := if status = 2 then BitVec.ofNat 64 (va % 2 ^ 48) else kindTval va 7 status

/-! ### Sending (R78, R184, R191, R352, R354 to R358) -/

/-- The stack that serves a place: its home, or, for the aperture, the slot's (R91). -/
def Place.stack (p : Place) : Nat := if inAperture p.pa then (apertureAt p.pa).1 % 16 else homeStack p.home p.pa % 16

/-- The stack-local address of a place. -/
def Place.local_ (p : Place) : Nat := if inAperture p.pa then p.pa % 2 ^ 36 else storageAddr p.home p.pa % 2 ^ 36

/-- An access is not performed yet. -/
def MemOp.open_ (m : MemOp) : Bool :=
  match m.kind with
  | .tmpl => false
  | .red => decide (m.phase < 2) && !m.timedOut
  | .load | .store | .atom => decide (m.phase < 2)

/-- A range operation of a bundle before another that takes lines away from the control die's cache, or any such operation. -/
def CoreSt.rangePending (c : CoreSt) (bid : Nat) (any : Bool) : Bool :=
  c.actions.any fun a => decide (a.1 < bid) && match a.2 with
    | .rangeOp rdc kind _ _ _ _ _ => any || (rdc == 0 && kind != 0)
    | _ => false

/-- Accesses a release covers: all earlier ones but .st writes and REDs (R193, R194). -/
def MemOp.covered (m : MemOp) : Bool := m.open_ && m.kind != .red && !(m.kind == .store && m.policy == 2)

/-- What an access of a bundle to len bytes at a place waits for: older open accesses to one of the bytes, older open acquires, older
range operations that take lines from the control die's cache (R348, R352, R365). -/
def CoreSt.placeClear (c : CoreSt) (bid pa len : Nat) : Bool :=
  !(c.lsq.any fun o => decide (o.bid < bid) && o.open_ && (o.acq || runsMeet o.place.pa o.len pa len)) && !(c.rangePending bid false)

/-- The bundle of an access has issued, or is one whose own load is waited for before the trap of a later slot (R273). -/
def CoreSt.underWay (c : CoreSt) (m : MemOp) : Bool :=
  decide (m.bid < c.bid) || (m.bid == c.bid && m.kind == .load && c.trapReq.isSome)

/-- An access may be sent: its bundle has issued, and committed if it cannot be undone; no older access to its bytes and no
older acquire is open; a release waits for what it covers (R348, R349, R352, R365). -/
def canSend (c : CoreSt) (m : MemOp) : Bool :=
  let older := c.lsq.filter fun o => decide (o.bid < m.bid)
  m.phase == 0 && c.underWay m && m.kind != .tmpl && c.placeClear m.bid m.place.pa m.len
    && (match m.kind with
      | .store | .red => decide (m.bid < c.frontier)
      | .atom => decide (m.bid ≤ c.frontier)
      | .load | .tmpl => true)
    && (!m.rel || (!(older.any MemOp.covered) && !(c.rangePending m.bid true)))

/-- An operation of core q's queue changes. -/
def modOp (s : State) (q tag gen : Nat) (f : MemOp → MemOp) : State :=
  s.modCore q fun c => { c with lsq := c.lsq.map fun m => if m.tag = tag ∧ m.gen = gen then f m else m }

def dropOp (s : State) (q tag gen : Nat) : State :=
  s.modCore q fun c => { c with lsq := c.lsq.filter fun m => !(m.tag == tag && m.gen == gen) }

/-- A request for an operation of core q: n bytes from the place rounded down to a multiple of n; its element mask names one element of an
ATOM or RED and all of any other (R71). The agent is the stream core's number, of which the field of R71 holds seven bits
(DESIGN CHOICE, log 65). -/
def opRequest (s : State) (q : Nat) (m : MemOp) (op n : Nat) (fill : Bool) : Req :=
  let p : Place := { m.place with pa := m.place.pa / n * n }
  let off := m.place.pa % n
  let cas := decide (m.kind = .atom ∧ m.fn = 7)
  let put (v : List Byte) : List Byte := List.replicate off 0 ++ v ++ List.replicate (n - off - v.length) 0
  let data := bytesOf m.data m.len
  { id := 0, op := op, addr := p.local_, len := n, key := p.key, qos := 0, afn := m.fn, flt := m.flt, die := 0, agent := q,
    tag := m.tag, gen := m.gen, emask := if op = 3 ∨ op = 4 then (1 : BitVec 8) <<< (off / 4) else 0xFF, flush := m.flush, pois := false,
    data := if op = 0 then [] else if cas then put (bytesOf m.cmp 4) ++ put data else put data,
    ben := if op = 2 then (List.range n).map fun i => decide (off ≤ i ∧ i < off + m.len) else [],
    since := 0, clock := if op = 0 then [] else clockList (s.die 0).vc, acquire := m.acq && decide (1 ≤ m.scope),
    pa := p.pa, home := p.home, fill := fill }

/-- A request goes to its stack. -/
def postOp (s : State) (q : Nat) (m : MemOp) (op n : Nat) (fill : Bool) : State :=
  arriveReq (modOp s q m.tag m.gen fun m => { m with phase := 1 }) m.place.stack (opRequest s q m op n fill)

/-- The clock that a read brought back is noted for the next acquiring fence (R189, R193). -/
def noteRead (s : State) (q : Nat) (clock : List Nat) : State := s.modCore q fun c => { c with readClock := mergeClock c.readClock clock }

/-- A load is answered from a line of the control die's cache; an acquire takes its home's clock. -/
def loadFromLine (s : State) (q : Nat) (m : MemOp) (l : RdcLine) : State :=
  let off := m.place.pa % 128
  let s1 := modOp s q m.tag m.gen fun m =>
    { m with phase := 2, result := bitsOfBytes 64 (l.bytes off m.len), pois := l.poisonMask off m.len != 0 }
  if m.acq && decide (1 ≤ m.scope) then acquireAt s1 0 (s1.homeClock (homeDie m.place.home m.place.pa)) else noteRead s1 q l.clock

/-- A load leaves the core: through the cache of the control die, or past it; an acquire reads a causal line anew.
DEDUCED, log 29. -/
def sendLoad (s : State) (q : Nat) (m : MemOp) : State :=
  let n := m.place.pa / 128
  if usesRdc s 0 m.policy m.place then
    match rdcFind (s.die 0).rdc n with
    | some l =>
      if m.acq && decide (1 ≤ m.scope) && !l.place.soft then postOp (dropLine s 0 n) q m 0 128 true else loadFromLine s q m l
    | none => postOp s q m 0 128 true
  else postOp (flushLine s 0 n) q m 0 32 false

/-- The trap of an access whose bundle has committed: it is deferred. DEDUCED, log 25. -/
def lateFault (s : State) (q va status : Nat) : State :=
  s.modCore q fun c =>
    { c with deferred := c.deferred ++
        [{ cause := statusCause status, slot := 7, origin := 0, cell := 0, chan := 0, ce := false, gstep := false,
           tval := statusTval va status, tpc := 0, seen := s.pcc }] }

/-- What a line of the control die's cache holds dirty of the bytes of a store that goes to its home is the store's from now on: no access
of the die reads older bytes (R191). -/
def holdOwn (s : State) (m : MemOp) : State :=
  let n := m.place.pa / 128
  match rdcFind (s.die 0).rdc n with
  | none => s
  | some l =>
    let mask := l.dirty &&& lineMask n m.place.pa m.len
    if mask = 0 then s
    else
      let off := m.place.pa % 128
      let bs := (bytesOf m.data m.len).zipIdx.map fun b => if mask.getLsbD (off + b.2) then some b.1 else none
      s.modDie 0 fun x => { x with rdc := sinsert (serase x.rdc n) n (l.store off bs true false) }

/-- A store leaves the core: into a line of a software-managed page, or to its stack. -/
def sendStore (s : State) (q : Nat) (m : MemOp) : State :=
  if usesRdc s 0 m.policy m.place && m.place.soft then
    let w := lineWrite s 0 m.policy m.place ((bytesOf m.data m.len).map some) false (clockList (s.die 0).vc)
    let s1 := dropOp w.2 q m.tag m.gen
    if w.1 = 0 then s1 else lateFault s1 q m.va w.1
  else
    let t := if usesRdc s 0 m.policy m.place then s else flushLine s 0 (m.place.pa / 128)
    postOp (holdOwn t m) q m 2 32 false

/-- One access is sent; a release first takes what its core's replies carried into the clock of the die. -/
def sendOp (s : State) (q : Nat) (m : MemOp) : State :=
  let s1 := if m.rel && decide (1 ≤ m.scope) then coreRelease s q else s
  match m.kind with
  | .load => sendLoad s1 q m
  | .store => sendStore s1 q m
  | .atom => postOp (flushLine s1 0 (m.place.pa / 128)) q m 3 32 false
  | .red =>
    let t := s1.modCore q fun c => { c with redIssued := sset 0 c.redIssued m.place.stack (sget 0 c.redIssued m.place.stack + 1) }
    postOp (flushLine t 0 (m.place.pa / 128)) q m 4 32 false
  | .tmpl => s1

/-- Every access of a core that may be sent is sent, in program order. -/
def sendAll (s : State) (q : Nat) : List MemOp → State
  | [] => s
  | m :: r => sendAll (if canSend (s.core q) m then sendOp s q m else s) q r

/-! ### Replies (R27, R74, R75, R85) -/

/-- A home's apply counter comes back with the reply of a write (R187). -/
def noteApplied (s : State) (q home n : Nat) : State :=
  s.modCore q fun c => { c with ackClock := sset 0 c.ackClock home (max (sget 0 c.ackClock home) n) }

/-- REDs of a stack that a batch may acknowledge: one whose own reply, with a status, is on its way is none of them. -/
def batchReds (s : State) (q k : Nat) : List MemOp :=
  (s.core q).lsq.filter fun m => m.kind == .red && m.phase == 1 && m.place.stack == k &&
    !(s.replies.any fun r => r.op == 4 && r.status != 0 && r.die == 0 && r.agent == q && r.tag == m.tag && r.gen == m.gen)

/-- A batch acknowledges the oldest REDs of its stack; those that have timed out are counted already. -/
def receiveBatch (s : State) (q : Nat) (r : Reply) : State :=
  let l := (batchReds s q r.stack).take r.rcount
  let s1 := l.foldl (fun t m => dropOp t q m.tag m.gen) s
  let late := (l.filter fun m => m.timedOut).length
  noteApplied (s1.modCore q fun c =>
    { c with
      redAcked := sset 0 c.redAcked r.stack (sget 0 c.redAcked r.stack + (r.rcount - late))
      rfail := c.rfail + r.rfail }) q r.home r.applied

/-- The line of a fill enters the control die's cache. A line of a software-managed page that is there already stays; of a causal page a
fill does not enter that is older than the line there, or older than what an acquire has since merged (R189, R190). -/
def installFill (s : State) (m : MemOp) (r : Reply) : State :=
  let n := r.pa / 128
  let l : RdcLine :=
    { data := bitsOfBytes 1024 r.data, dirty := 0, place := { m.place with pa := r.pa }, stamp := r.applied, filled := s.pcc,
      pois := BitVec.ofNat 2 r.pmask, clock := r.clock }
  let stale := !m.place.soft && decide (r.applied < sget 0 (s.die 0).vc r.home)
  match rdcFind (s.die 0).rdc n with
  | some old => if stale || old.place.soft || decide (r.applied < old.stamp) then s else putLine s 0 n l
  | none => if stale then s else putLine s 0 n l

/-- The reply of a load or an atomic. -/
def receiveRead (s : State) (q : Nat) (m : MemOp) (r : Reply) : State :=
  let off := m.place.pa - r.pa
  let bad := decide (r.pmask / 2 ^ ((r.pa % 64 + off) / 64) % 2 = 1) || r.status == 5
  let s1 := modOp s q m.tag m.gen fun m =>
    { m with phase := 2, status := if r.status = 5 then 0 else r.status, pois := bad,
             result := bitsOfBytes 64 ((r.data.drop off).take m.len) }
  let s2 := if r.fill && r.status == 0 then installFill s1 m r else s1
  let s3 := if m.kind = .atom ∧ r.status = 0 then noteApplied s2 q r.home r.applied else s2
  if r.clock.isEmpty || r.status != 0 then s3
  else if m.acq && decide (1 ≤ m.scope) then acquireAt s3 0 r.clock
  else noteRead s3 q r.clock

/-- A reply reaches core q; one that matches no request still open is discarded (R27). -/
def receiveAt (s : State) (q : Nat) (r : Reply) : State :=
  if r.op = 4 ∧ r.status = 0 then receiveBatch s q r
  else
    match (s.core q).lsq.find? fun m => m.tag == r.tag && m.gen == r.gen && m.phase == 1 with
    | none => s
    | some m =>
      match m.kind with
      | .load | .atom => receiveRead s q m r
      | .store =>
        let s1 := dropOp s q m.tag m.gen
        if r.status = 0 then noteApplied s1 q r.home r.applied else lateFault s1 q m.va r.status
      | .red =>
        let s1 := modOp s q m.tag m.gen fun m => { m with phase := 2, status := r.status }
        if m.timedOut then s1
        else s1.modCore q fun c => { c with redAcked := sset 0 c.redAcked r.stack (sget 0 c.redAcked r.stack + 1) }
      | .tmpl => s

/-- R27: reply number k reaches its requester; the acceptance of a SRCH frees its place in the dispatcher (R432). -/
def replyReceive (s : State) (k : Nat) : State :=
  match s.replies[k]? with
  | none => s
  | some r =>
    let s1 := { s with replies := s.replies.eraseIdx k }
    if r.die = 0 then receiveAt s1 r.agent r
    else if r.op = 6 then s1.modDie r.die fun x => { x with nnq := x.nnq.drop 1 }
    else s1

/-- R27. -/
def execReplyReceive (s : State) : Host.Outcome State Fault Refusal := .next (replyReceive s s.arg.a)

/-- A request of a core has reached the control die's limit. -/
def MemOp.lateBy (m : MemOp) (s : State) : Bool :=
  m.phase == 1 && m.open_ && decide (m.issued + s.timeLimit 0 ≤ s.pcc)

/-- The tag operand of an act that names the read of a WAITA, beyond the tags of requests. -/
def waitaTag : Nat := 4096

/-- An act tells that a request goes unanswered which the engines of a die issue now, or the WAITA of a core (R25; DESIGN CHOICE,
log 61). -/
def loseRequest (s : State) (q : Nat) : State :=
  if 256 ≤ q then s.modDie (q - 256) fun x => { x with late := x.late <|> some s.pcc }
  else s.modCore q fun c => { c with waita := c.waita.map fun w => if specLocal w.spec then w else { w with lost := w.lost <|> some s.pcc } }

/-- R25, R26: the requester completes a request that has timed out, with a record and event 0x010. An act may also name a request that is
not in a core's queue: then it goes unanswered, and its time begins. The record's agent is the stream core's number (DESIGN CHOICE,
log 65). DEDUCED, log 30. -/
def requestTimeout (s : State) (q tag : Nat) : State :=
  if 256 ≤ q ∨ tag = waitaTag then loseRequest s q
  else
  match (s.core q).lsq.find? fun m => m.tag == tag && m.lateBy s with
  | none => s
  | some m =>
    let s1 := match m.kind with
      | .load | .atom => modOp s q m.tag m.gen fun m => { m with phase := 2, pois := true, timedOut := true }
      | .store => dropOp s q m.tag m.gen
      | .red => (modOp s q m.tag m.gen fun m => { m with timedOut := true }).modCore q fun c =>
          { c with redAcked := sset 0 c.redAcked m.place.stack (sget 0 c.redAcked m.place.stack + 1) }
      | .tmpl => s
    countDie (writeDieLog s1 0 (timeoutRecord s m.place.pa q m.tag m.gen m.place.stack)) 0 0x010 1

/-- R26. -/
def execRequestTimeout (s : State) : Host.Outcome State Fault Refusal := .next (requestTimeout s s.arg.a s.arg.b)

/-! ### The register a load writes (R349, R355, R356) -/

/-- The first answered load, atomic or template read of a core whose bundle has issued. -/
def answered (s : State) (q : Nat) : Option MemOp :=
  (s.core q).lsq.find? fun m => m.phase == 2 && m.kind != .red && m.kind != .store && (s.core q).underWay m
    && decide (m.issued < s.pcc)

/-- R349: the register is written and the bundle can commit; a status or poison raises its trap at the bundle instead. The load of a
bundle that a later slot's trap has cancelled writes nothing, and its own trap comes first (R273). -/
def loadReply (s : State) (q : Nat) : State :=
  match answered s q with
  | none => s
  | some m =>
    if m.status ≠ 0 then preciseTrap s q m.bid (accessTrap s (statusCause m.status) m.bundle (statusTval m.va m.status))
    else if m.pois then preciseTrap s q m.bid (accessTrap s 12 m.bundle (poisonTval m.va m.timedOut))
    else if m.bid = (s.core q).bid then dropOp s q m.tag m.gen
    else lateX (dropOp s q m.tag m.gen) q m.bid m.dst (extendLoad m.len m.signed m.result.toNat)

/-- R349. -/
def execLoadReply (s : State) : Host.Outcome State Fault Refusal := .next (loadReply s s.arg.a)

/-! ### WAITA (R361 to R363) -/

/-- The condition of a WAITA on a word. -/
def Waita.holds (w : Waita) (v : Nat) : Bool :=
  let n := if w.wide then 64 else 32
  let c := w.cmp.toNat % 2 ^ n
  match w.cond with
  | 0 => v == c
  | 1 => v != c
  | 2 => decide (c ≤ v)
  | 3 => decide (v < c)
  | _ => v &&& c != 0

/-- Bytes of the word. -/
def Waita.bytes (w : Waita) : Nat := if w.wide then 8 else 4

/-- The greatest interval between two reads. DEDUCED, log 32. -/
def Waita.interval (w : Waita) : Nat := if specLocal w.spec then 8 else 256

/-- A WAITA can read: its bundle has issued, and a global word waits for what any global access waits for (R348, R352). -/
def waitaReads (s : State) (q : Nat) : Bool :=
  let c := s.core q
  match c.waita with
  | some w => decide (w.bid < c.bid) && (specLocal w.spec || c.placeClear w.bid w.place.pa w.bytes)
  | none => false

/-- The read of a WAITA that goes unanswered has waited to the limit; it waits until then (R25, R351). -/
def Waita.late (w : Waita) (s : State) : Bool :=
  match w.lost with
  | some t => decide (t + s.timeLimit 0 ≤ s.pcc)
  | none => false

/-- A read of a WAITA may wait no longer. -/
def waitaDue (s : State) (q : Nat) : Bool :=
  match (s.core q).waita with
  | some w => waitaReads s q && (w.late s || (w.lost.isNone && decide (w.nextRead ≤ s.pcc)))
  | none => false

/-- One acquire read of the word: its trap, or its value. A global word is read at home; fills of its line that are under way are older
(R190). -/
def waitaRead (s : State) (q : Nat) (w : Waita) : State × Except Trap Nat :=
  let va := nfield w.spec 0 48
  if specLocal w.spec then
    let c := s.cell q (nfield w.spec 58 2)
    let at_ := nfield w.spec 0 22
    match c.poisonIn at_ w.bytes with
    | some a => (s, .error (accessTrap s 12 w.bundle (BitVec.ofNat 64 a)))
    | none => (s, .ok (natOfBytes (c.spmBytes at_ w.bytes)))
  else
    match translate s (.core q) (s.core q).asid va 1 with
    | (t, .error e) => (t, .error (accessTrap s (kindCause e.1) w.bundle (kindTval va e.1 e.2)))
    | (t, .ok p) =>
      if w.late s then
        (countDie (writeDieLog t 0 (timeoutRecord t p.pa q (t.core q).nextTag ((t.core q).nextTag / 4096) p.stack)) 0 0x010 1,
          .error (accessTrap s 12 w.bundle (poisonTval va true)))
      else
      match homeRead (cancelFills (flushLine t 0 (p.pa / 128)) 0 (p.pa / 128)) p.key p.home p.pa w.bytes with
      | (u, st, bs, m) =>
        if st ≠ 0 then (u, .error (accessTrap s (statusCause st) w.bundle (statusTval va st)))
        else if m ≠ 0 then (u, .error (accessTrap s 12 w.bundle (poisonTval va false)))
        else (u.modCore q fun c => { c with waita := c.waita.map fun x => { x with place := p } }, .ok (natOfBytes bs))

/-- The clock that the last read returns: its home's, or, for scratchpad, what the engines' releases have brought to the quad's die; at die
scope it is noted for a later acquiring fence (R193). DEDUCED, log 63. -/
def waitaAcquire (s : State) (q : Nat) (w : Waita) (p : Place) : State :=
  if w.scope = 0 then (if specLocal w.spec then s else noteRead s q (s.homeClock (homeDie p.home p.pa)))
  else if specLocal w.spec then acquireAt s 0 (s.homeClock (quadDie q))
  else acquireAt s 0 (s.homeClock (homeDie p.home p.pa))

/-- R361 to R363: a WAITA reads its word; it returns when the condition holds or its time-out has passed. -/
def waitaReturn (s : State) (q : Nat) : State :=
  match (s.core q).waita with
  | none => s
  | some w =>
    if !(waitaReads s q) || (w.lost.isSome && !(w.late s)) then s
    else
      match waitaRead s q w with
      | (t, .error e) => preciseTrap t q w.bid e
      | (t, .ok v) =>
        let late := w.tout != 0 && decide (w.issued + w.tout ≤ s.pcc)
        if w.holds v || late then
          let p := match (t.core q).waita with
            | some x => x.place
            | none => w.place
          lateX ((waitaAcquire t q w p).modCore q fun c =>
            { c with waita := none, stalled := true, issueAt := max c.issueAt (s.pcc + 1) }) q w.bid w.dst (BitVec.ofNat 64 v)
        else
          let next := if w.tout = 0 then s.pcc + w.interval else min (s.pcc + w.interval) (w.issued + w.tout)
          t.modCore q fun c => { c with waita := c.waita.map fun x => { x with nextRead := next } }

/-- R363. -/
def execWaitaReturn (s : State) : Host.Outcome State Fault Refusal := .next (waitaReturn s s.arg.a)

/-! ### Fences (R189, R193, R359, R360) -/

/-- What a fence of a kind still waits for. -/
def fenceWaits (c : CoreSt) (kind upto : Nat) : Bool :=
  let older := c.lsq.filter fun o => decide (o.bid < upto)
  match kind with
  | 0 => older.any fun o => o.open_ && (o.kind == .load || o.kind == .atom)
  | 1 => older.any (fun o => o.open_ && o.kind != .red) || c.rangePending upto true
  | 2 => older.any (fun o => o.open_ && o.kind != .red) || c.rangePending upto true
  | 3 => (older.any fun o => o.kind == .red && o.phase == 0) || decide (c.redIssued ≠ c.redAcked)
  | _ => older.any MemOp.open_ || c.rangePending upto true

/-- The fault of a RED that its FENCE.red covers (R358), if one failed. -/
def redFault (c : CoreSt) : Option MemOp := c.lsq.find? fun m => m.kind == .red && m.phase == 2

/-- A FENCE.red whose REDs are all acknowledged: the fault of one of them, POISON for a nonzero rfail, or its completion. What failed is
cleared when the trap is taken (R360). -/
def endFenceRed (s : State) (q bid : Nat) : State :=
  let c := s.core q
  let bundle := ((c.snaps.find? fun p => p.1 == bid).map fun p => p.2.1.pc).getD c.arch.pc
  let s1 := if c.trapReq.isSome then s else coreRelease s q
  match redFault c with
  | some m => preciseTrap s1 q bid { accessTrap s (statusCause m.status) bundle (statusTval m.va m.status) with red := true }
  | none =>
    if c.rfail ≠ 0 then preciseTrap s1 q bid { accessTrap s 12 bundle 0 with red := true }
    else s1.modCore q fun c => { c with sync := none }

/-- The acquire of a fence: the clocks that the reads before it brought back (R189, R193). -/
def acquireReads (s : State) (q d : Nat) : State :=
  (acquireAt s d (clockList (s.core q).readClock)).modCore q fun c => { c with readClock := if d = 0 then [] else c.readClock }

/-- A fence for engine commands: the core's writes and reads enter the clock of the die whose engines it commands (R193). -/
def fenceEngines (s : State) (q : Nat) : State :=
  let s1 := coreRelease s q
  acquireReads (acquireAt s1 (quadDie q) (clockList (s1.die 0).vc)) q (quadDie q)

/-- A fence completes. -/
def endFence (s : State) (q kind scope bid : Nat) : State :=
  if kind = 3 then endFenceRed s q bid
  else
    let s1 := if kind = 4 then fenceEngines s q else if (kind = 1 ∨ kind = 2) ∧ 1 ≤ scope then coreRelease s q else s
    let s2 := if (kind = 0 ∨ kind = 2) ∧ 1 ≤ scope then acquireReads s1 q 0 else s1
    s2.modCore q fun c => { c with sync := none }

/-! ### Traps that wait (R272 to R275) -/

/-- The core is at the start of a bundle, every older bundle has committed and no wait of an instruction is under way. -/
def CoreSt.settled (c : CoreSt) : Bool :=
  c.sync.isNone && c.waita.isNone && c.hold.isNone && decide (c.bid ≤ c.frontier) &&
    (c.slot == 0 || c.walksBack)

/-- A trap that waited for older bundles, and for the load of its own bundle, can be taken (R150, R273). -/
def trapEntryDue (s : State) (q : Nat) : Bool :=
  let c := s.core q
  c.trapReq.isSome && c.settled && !(c.lsq.any fun m => m.bid == c.bid && m.kind == .load) && (c.run == .running || c.run == .atRgn || c.run == .ended)

/-- R274: with the monitor attached BRK records its trap and stops the package clock. DEDUCED, log 54. -/
def monitorStop (s : State) (q : Nat) (t : Trap) : State :=
  let s1 := s.modCore q fun c =>
    { c with
      arch := { c.arch with tpc := BitVec.ofNat 11 t.tpc, tcause := t.causeWord c.arch.inHandler c.arch.revActive, tval := t.tval }
      trapReq := none }
  { s1 with clockOn := false, debugHalt := true, hostOut := s1.hostOut ++ [.stopped q t.tpc] }

/-- R272, R274: the trap is taken; TRAP and BRK name the bundle that follows theirs. -/
def trapEntry (s : State) (q : Nat) : State :=
  match (s.core q).trapReq with
  | none => s
  | some r =>
    if !(trapEntryDue s q) then s
    else
      let t : Trap := if r.tpc = tpcNext then { r with tpc := (s.core q).arch.pc } else r
      if t.cause = 15 && s.monitor then monitorStop s q t
      else takeTrap (s.modCore q fun c => { c with run := .running }) q t

/-- R274. -/
def execTrapEntry (s : State) : Host.Outcome State Fault Refusal := .next (trapEntry s s.arg.a)

/-- The order of deferred traps: by cycle of detection, then cells in order, late accesses, copy engines, collective reports. -/
def Trap.order (t : Trap) : Nat × Nat :=
  (t.seen, match t.origin with
    | 1 => t.cell
    | 0 => 4
    | 2 => 5
    | _ => 6)

/-- The deferred trap that is taken first. -/
def firstDeferred (l : List Trap) : Option Trap :=
  l.foldl (fun m t =>
    match m with
    | none => some t
    | some u => if t.order.1 < u.order.1 ∨ (t.order.1 = u.order.1 ∧ t.order.2 < u.order.2) then some t else some u) none

/-- A core that would issue its next bundle takes a deferred trap instead. DEDUCED, log 26. -/
def deferredDue (s : State) (q : Nat) : Bool :=
  let c := s.core q
  !c.deferred.isEmpty && c.trapReq.isNone && c.settled && (c.run == .running || c.run == .atRgn) && decide ((if c.walksBack then c.issueAt else c.issueAt + headerIdle c.curBundle) ≤ s.pcc)

/-- The bundle that a core would issue next: in a walk the one to be walked back, or SPAN's before it has begun (R243, R275). -/
def nextWalked (c : CoreSt) : Nat :=
  match c.arch.walking, c.rev with
  | true, some w => if w.phase = 1 then (w.forward c).pc else if w.phase = 2 then w.first else c.arch.pc
  | _, _ => c.arch.pc

/-- R275: the trap names the bundle that the core would issue, and so does sr.rvs in a walk (R243, R344). -/
def deferredTrap (s : State) (q : Nat) : State :=
  match firstDeferred (s.core q).deferred with
  | none => s
  | some t =>
    if !(deferredDue s q) then s
    else
      let b := nextWalked (s.core q)
      takeTrap (s.modCore q fun c =>
          { c with deferred := c.deferred.erase t, run := .running, arch := if c.arch.walking then c.arch.rvsAt b else c.arch }) q
        { t with tpc := b }

/-- R275. -/
def execDeferredTrap (s : State) : Host.Outcome State Fault Refusal := .next (deferredTrap s s.arg.a)

/-! ### Engines that end a request of a core (R185, R366, R422, R435) -/

/-- The overlay load of a core whose bundle has committed; older range operations come first (R365). -/
def ovlReady (s : State) (q : Nat) : Option (Nat × Nat × Word × Word) :=
  (s.core q).actions.findSome? fun a => match a.2 with
    | .ovl asid va spec val => if a.1 < (s.core q).frontier && !((s.core q).rangePending a.1 true) then some (asid, va, spec, val) else none
    | _ => none

/-- R435: the shadow plane is loaded and tagged, or stays invalid; the flag follows. -/
def ovlComplete (s : State) (q : Nat) : State :=
  match ovlReady s q with
  | none => s
  | some (asid, va, spec, val) =>
    let d := quadDie q
    let s1 := s.modCore q fun c => { c with ovlBusy := false, actions := c.actions.filter fun a => match a.2 with
      | .ovl _ _ _ _ => false
      | _ => true }
    let word (v : Word) : WordRef := { spec := spec, val := v, quad := q, asid := asid }
    match overlayRead s1 d asid 4 va with
    | (t, some bs) =>
      let u := t.modCore q fun c =>
        { putPlane c (1 - c.active) bs with tags := sset none c.tags (1 - c.active) (some (va, asid)) }
      (writeWord u d (word val)).1
    | (t, none) => (writeWord t d (word (val ||| 0x8000000000000000))).1

/-- R435. -/
def execOvlComplete (s : State) : Host.Outcome State Fault Refusal := .next (ovlComplete s s.arg.a)

/-- A prefetch's token is written where its spec was translated to. -/
def writeToken (s : State) (d : Nat) (f : Prefetch) : State :=
  if f.token.spec = 0 ∨ specLocal f.token.spec then (writeWord s d f.token).1
  else
    let t := engRelease s d
    let w := placeWrite t d 1 f.place false (clockList (t.die d).vc) lineFuel ((bytesOf f.token.val 8).map some)
    if engineLate t d then engineTimeout w.2 d f.place
    else if w.1 = 0 then noteAcks t d w.2 else w.2

/-- R366: the fills of the oldest prefetch of a die are made, and its token is written where its spec was translated to.
DEDUCED, log 44. -/
def pfrComplete (s : State) (d : Nat) : State :=
  match (s.die d).prefetches with
  | [] => s
  | f :: r =>
    let s1 := s.modDie d fun x => { x with prefetches := r }
    writeToken s1 d f

/-- R366. -/
def execPfrComplete (s : State) : Host.Outcome State Fault Refusal := .next (pfrComplete s s.arg.a)

/-- R422: the oldest table request that is due takes effect on every die, and the SF die writes its word. -/
def sftabSwitch (s : State) : State :=
  match s.sftabs with
  | [] => s
  | l :: r =>
    if s.pcc < l.due then s
    else
      let s1 := { s with sftabs := r }
      let s2 := match l.image with
        | some bs => { s1 with tables := sset [] s1.tables l.n bs }
        | none => s1
      (writeWord s2 9 l.word).1

/-- R422. -/
def execSftabSwitch (s : State) : Host.Outcome State Fault Refusal := .next (sftabSwitch s)

/-- Cycles a line of a causal page stays (R185). -/
def lineLife : Nat := 4096

/-- A line's time is over. -/
def RdcLine.expired (l : RdcLine) (pcc : Nat) : Bool := !l.place.soft && decide (l.filled + lineLife ≤ pcc)

/-- R185. -/
def rdcLineExpiry (s : State) (d n : Nat) : State :=
  match rdcFind (s.die d).rdc n with
  | some l => if l.expired s.pcc then dropLine s d n else s
  | none => s

/-- R185. -/
def execRdcLineExpiry (s : State) : Host.Outcome State Fault Refusal := .next (rdcLineExpiry s s.arg.a s.arg.b)

end Sys2Proof.Machine
end

