-- ==== Sys2Proof/Machine/Monitor.lean ====
section
/-! DEFINITION. The gwyn monitor: breakpoints, the clock, and what it shows without changing it (R20, R274, R445, R448). -/

namespace Sys2Proof.Machine

/-- R445: the package clock stops when bundle b issues on quad q. -/
def execGwynBreak (s : State) : Host.Outcome State Fault Refusal :=
  .next (s.modCore s.arg.a fun c => { c with breaks := if c.breaks.contains s.arg.b then c.breaks else c.breaks ++ [s.arg.b] })

/-- R445: run starts the clock. -/
def execGwynRun (s : State) : Host.Outcome State Fault Refusal := .next (clockResume s)

/-- R445: cont resumes the clock. -/
def execGwynCont (s : State) : Host.Outcome State Fault Refusal := .next (clockResume s)

/-- The monitor shows bytes. -/
def showBytes (s : State) (bs : List Byte) : State := { s with hostOut := s.hostOut ++ [.shown bs] }

/-- The bytes of what print names: a register, or lanes first to last of a width in bits. -/
def viewBytes (s : State) (q : Nat) (v : GwynView) : List Byte :=
  let c := s.core q
  match v with
  | .scalar n => bytesOf (c.arch.rx (n % 64)) 8
  | .pred n => bytesOf (c.arch.rp (n % 32)) 64
  | .system n => match sysRead s q n with
    | some w => bytesOf w 8
    | none => []
  | .generator n => bytesOf (sget 0 c.arch.gens (n % 16)) 128
  | .vector cell row first last width =>
    ((rowBytes (sget 0 (s.cell q cell).acc row)).drop (first * width / 8)).take ((last + 1 - first) * width / 8)

/-- R445. -/
def execGwynPrint (s : State) : Host.Outcome State Fault Refusal := .next (showBytes s (viewBytes s s.arg.a s.arg.view))

/-- R445: elements as a .bp read of the control die finds them; no cache keeps a trace of it. -/
def memBytes (s : State) (q va len : Nat) : List Byte :=
  match engReadRange s 0 1 (s.core q).asid (runFuel len) va len with
  | (_, .ok x) => x.1
  | (_, .error _) => []

/-- R445. -/
def execGwynMem (s : State) : Host.Outcome State Fault Refusal :=
  .next (showBytes s (memBytes s s.arg.a s.arg.b (s.arg.c * s.arg.d / 8)))

/-- R448: elements of a cell's scratchpad. -/
def execGwynSpm (s : State) : Host.Outcome State Fault Refusal :=
  .next (showBytes s ((s.cell s.arg.a s.arg.b).spmBytes s.arg.c (s.arg.d * s.arg.e / 8)))

/-- The line that holds a virtual address in the cache of a die, with the offset of its byte there. -/
def heldLine (s : State) (d q va : Nat) : Option (RdcLine × Nat) :=
  match translate s (.core q) (s.core q).asid va 0 with
  | (_, .ok p) => (rdcFind (s.die d).rdc (p.pa / 128)).map fun l => (l, p.pa % 128)
  | (_, .error _) => none

/-- Bytes from a virtual address on as the cache of a die holds them, up to the first line that it does not hold (DESIGN CHOICE,
log 54). -/
def heldBytes (s : State) (d q : Nat) : Nat → Nat → Nat → List Byte
  | 0, _, _ => []
  | fuel + 1, va, len =>
    if len = 0 then []
    else
      match heldLine s d q va with
      | some (l, off) => l.bytes off (min len (128 - off)) ++ heldBytes s d q fuel (va + min len (128 - off)) (len - min len (128 - off))
      | none => []

/-- R448: the line that holds an address in the cache of a die, under the address space of a core: whether it is there, its dirty bytes,
and len bytes from the address on as the cache holds them. -/
def rdcReport (s : State) (d q va len : Nat) : HostMsg :=
  match heldLine s d q va with
  | some (l, _) => .rdcLine true l.dirty (heldBytes s d q (len / 128 + 2) va len)
  | none => .rdcLine false 0 []

/-- R448: d elements of e bits; none asks for no data. -/
def execGwynRdc (s : State) : Host.Outcome State Fault Refusal :=
  .next { s with hostOut := s.hostOut ++ [rdcReport s s.arg.a s.arg.b s.arg.c (s.arg.d * s.arg.e / 8)] }

/-- R274: the monitor is attached over JTAG or PCIe. -/
def execMonitorAttach (s : State) : Host.Outcome State Fault Refusal := .next { s with monitor := true }

/-- R274. -/
def execMonitorDetach (s : State) : Host.Outcome State Fault Refusal := .next { s with monitor := false }

end Sys2Proof.Machine
end

