-- ==== Sys2Proof/Machine/Dispatch.lean ====
section
/-! DEFINITION. The meaning of every step of the opcode table: one call each. -/

namespace Sys2Proof.Machine

/-- The meaning of one step of the part. -/
def exec (i : Instr) (s : State) : Host.Outcome State Fault Refusal :=
  match i with
  | .nop => Sys2Proof.Machine.execNop s
  | .hint n => Sys2Proof.Machine.execHint n s
  | .add f => Sys2Proof.Machine.execAdd f s
  | .sub f => Sys2Proof.Machine.execSub f s
  | .mul f => Sys2Proof.Machine.execMul f s
  | .mulh f => Sys2Proof.Machine.execMulh f s
  | .mulhn f => Sys2Proof.Machine.execMulhn f s
  | .div f => Sys2Proof.Machine.execDiv f s
  | .divn f => Sys2Proof.Machine.execDivn f s
  | .rem f => Sys2Proof.Machine.execRem f s
  | .remn f => Sys2Proof.Machine.execRemn f s
  | .andx f => Sys2Proof.Machine.execAndx f s
  | .orx f => Sys2Proof.Machine.execOrx f s
  | .xorx f => Sys2Proof.Machine.execXorx f s
  | .andn f => Sys2Proof.Machine.execAndn f s
  | .shl f => Sys2Proof.Machine.execShl f s
  | .shr f => Sys2Proof.Machine.execShr f s
  | .sra f => Sys2Proof.Machine.execSra f s
  | .rot f => Sys2Proof.Machine.execRot f s
  | .clz f => Sys2Proof.Machine.execClz f s
  | .ctz f => Sys2Proof.Machine.execCtz f s
  | .popc f => Sys2Proof.Machine.execPopc f s
  | .min f => Sys2Proof.Machine.execMin f s
  | .max f => Sys2Proof.Machine.execMax f s
  | .minn f => Sys2Proof.Machine.execMinn f s
  | .maxn f => Sys2Proof.Machine.execMaxn f s
  | .ext f => Sys2Proof.Machine.execExt f s
  | .extn f => Sys2Proof.Machine.execExtn f s
  | .ins f => Sys2Proof.Machine.execIns f s
  | .sel f => Sys2Proof.Machine.execSel f s
  | .pcmp f => Sys2Proof.Machine.execPcmp f s
  | .plog f => Sys2Proof.Machine.execPlog f s
  | .xtop f => Sys2Proof.Machine.execXtop f s
  | .ptox f => Sys2Proof.Machine.execPtox f s
  | .addi f => Sys2Proof.Machine.execAddi f s
  | .andi f => Sys2Proof.Machine.execAndi f s
  | .ori f => Sys2Proof.Machine.execOri f s
  | .xori f => Sys2Proof.Machine.execXori f s
  | .shli f => Sys2Proof.Machine.execShli f s
  | .shri f => Sys2Proof.Machine.execShri f s
  | .srai f => Sys2Proof.Machine.execSrai f s
  | .roti f => Sys2Proof.Machine.execRoti f s
  | .lea f => Sys2Proof.Machine.execLea f s
  | .pcmpiEq f => Sys2Proof.Machine.execPcmpiEq f s
  | .pcmpiNe f => Sys2Proof.Machine.execPcmpiNe f s
  | .pcmpiLt f => Sys2Proof.Machine.execPcmpiLt f s
  | .pcmpiLe f => Sys2Proof.Machine.execPcmpiLe f s
  | .pcmpiGt f => Sys2Proof.Machine.execPcmpiGt f s
  | .pcmpiGe f => Sys2Proof.Machine.execPcmpiGe f s
  | .pcmpiLtn f => Sys2Proof.Machine.execPcmpiLtn f s
  | .pcmpiLen f => Sys2Proof.Machine.execPcmpiLen f s
  | .pcmpiGtn f => Sys2Proof.Machine.execPcmpiGtn f s
  | .pcmpiGen f => Sys2Proof.Machine.execPcmpiGen f s
  | .li f => Sys2Proof.Machine.execLi f s
  | .lih f => Sys2Proof.Machine.execLih f s
  | .ldb f => Sys2Proof.Machine.execLdb f s
  | .ldbn f => Sys2Proof.Machine.execLdbn f s
  | .ldh f => Sys2Proof.Machine.execLdh f s
  | .ldhn f => Sys2Proof.Machine.execLdhn f s
  | .ldw f => Sys2Proof.Machine.execLdw f s
  | .ldwn f => Sys2Proof.Machine.execLdwn f s
  | .ldd f => Sys2Proof.Machine.execLdd f s
  | .stb f => Sys2Proof.Machine.execStb f s
  | .sth f => Sys2Proof.Machine.execSth f s
  | .stw f => Sys2Proof.Machine.execStw f s
  | .std f => Sys2Proof.Machine.execStd f s
  | .ldbAcq f => Sys2Proof.Machine.execLdbAcq f s
  | .ldbnAcq f => Sys2Proof.Machine.execLdbnAcq f s
  | .ldhAcq f => Sys2Proof.Machine.execLdhAcq f s
  | .ldhnAcq f => Sys2Proof.Machine.execLdhnAcq f s
  | .ldwAcq f => Sys2Proof.Machine.execLdwAcq f s
  | .ldwnAcq f => Sys2Proof.Machine.execLdwnAcq f s
  | .lddAcq f => Sys2Proof.Machine.execLddAcq f s
  | .stbRel f => Sys2Proof.Machine.execStbRel f s
  | .sthRel f => Sys2Proof.Machine.execSthRel f s
  | .stwRel f => Sys2Proof.Machine.execStwRel f s
  | .stdRel f => Sys2Proof.Machine.execStdRel f s
  | .amo f => Sys2Proof.Machine.execAmo f s
  | .cas f => Sys2Proof.Machine.execCas f s
  | .red f => Sys2Proof.Machine.execRed f s
  | .fenceAcq f => Sys2Proof.Machine.execFenceAcq f s
  | .fenceRel f => Sys2Proof.Machine.execFenceRel f s
  | .fenceFull f => Sys2Proof.Machine.execFenceFull f s
  | .fenceRed f => Sys2Proof.Machine.execFenceRed f s
  | .fenceEng f => Sys2Proof.Machine.execFenceEng f s
  | .waita f => Sys2Proof.Machine.execWaita f s
  | .cwb f => Sys2Proof.Machine.execCwb f s
  | .cinv f => Sys2Proof.Machine.execCinv f s
  | .cwbi f => Sys2Proof.Machine.execCwbi f s
  | .pfr f => Sys2Proof.Machine.execPfr f s
  | .fadd f => Sys2Proof.Machine.execFadd f s
  | .fsub f => Sys2Proof.Machine.execFsub f s
  | .fmul f => Sys2Proof.Machine.execFmul f s
  | .ffma f => Sys2Proof.Machine.execFfma f s
  | .fdiv f => Sys2Proof.Machine.execFdiv f s
  | .fsqrt f => Sys2Proof.Machine.execFsqrt f s
  | .fmin f => Sys2Proof.Machine.execFmin f s
  | .fmax f => Sys2Proof.Machine.execFmax f s
  | .fcmp f => Sys2Proof.Machine.execFcmp f s
  | .fcvt f => Sys2Proof.Machine.execFcvt f s
  | .br f => Sys2Proof.Machine.execBr f s
  | .brl f => Sys2Proof.Machine.execBrl f s
  | .jr f => Sys2Proof.Machine.execJr f s
  | .jrl f => Sys2Proof.Machine.execJrl f s
  | .loop f => Sys2Proof.Machine.execLoop f s
  | .loopx f => Sys2Proof.Machine.execLoopx f s
  | .idle f => Sys2Proof.Machine.execIdle f s
  | .seg f => Sys2Proof.Machine.execSeg f s
  | .key f => Sys2Proof.Machine.execKey f s
  | .rgn f => Sys2Proof.Machine.execRgn f s
  | .tend f => Sys2Proof.Machine.execTend f s
  | .isync f => Sys2Proof.Machine.execIsync f s
  | .sysr f => Sys2Proof.Machine.execSysr f s
  | .sysw f => Sys2Proof.Machine.execSysw f s
  | .trap f => Sys2Proof.Machine.execTrap f s
  | .tret f => Sys2Proof.Machine.execTret f s
  | .brk f => Sys2Proof.Machine.execBrk f s
  | .vmin f => Sys2Proof.Machine.execVmin f s
  | .vmax f => Sys2Proof.Machine.execVmax f s
  | .vabs f => Sys2Proof.Machine.execVabs f s
  | .vneg f => Sys2Proof.Machine.execVneg f s
  | .vclamp f => Sys2Proof.Machine.execVclamp f s
  | .viadd f => Sys2Proof.Machine.execViadd f s
  | .visub f => Sys2Proof.Machine.execVisub f s
  | .vimul f => Sys2Proof.Machine.execVimul f s
  | .vimulh f => Sys2Proof.Machine.execVimulh f s
  | .vand f => Sys2Proof.Machine.execVand f s
  | .vor f => Sys2Proof.Machine.execVor f s
  | .vxor f => Sys2Proof.Machine.execVxor f s
  | .vandn f => Sys2Proof.Machine.execVandn f s
  | .vshl f => Sys2Proof.Machine.execVshl f s
  | .vshr f => Sys2Proof.Machine.execVshr f s
  | .vsra f => Sys2Proof.Machine.execVsra f s
  | .vadd rm f => Sys2Proof.Machine.execVadd rm f s
  | .vsub rm f => Sys2Proof.Machine.execVsub rm f s
  | .vmul rm f => Sys2Proof.Machine.execVmul rm f s
  | .vfma rm f => Sys2Proof.Machine.execVfma rm f s
  | .vfnma rm f => Sys2Proof.Machine.execVfnma rm f s
  | .vscale rm f => Sys2Proof.Machine.execVscale rm f s
  | .vrcp rm f => Sys2Proof.Machine.execVrcp rm f s
  | .vrsq rm f => Sys2Proof.Machine.execVrsq rm f s
  | .vexp2 rm f => Sys2Proof.Machine.execVexp2 rm f s
  | .vlog2 rm f => Sys2Proof.Machine.execVlog2 rm f s
  | .vcvt rm f => Sys2Proof.Machine.execVcvt rm f s
  | .vcvtfx rm f => Sys2Proof.Machine.execVcvtfx rm f s
  | .vscan rm f => Sys2Proof.Machine.execVscan rm f s
  | .vsegsum rm f => Sys2Proof.Machine.execVsegsum rm f s
  | .vred rm f => Sys2Proof.Machine.execVred rm f s
  | .vimin f => Sys2Proof.Machine.execVimin f s
  | .vimax f => Sys2Proof.Machine.execVimax f s
  | .viminn f => Sys2Proof.Machine.execViminn f s
  | .vimaxn f => Sys2Proof.Machine.execVimaxn f s
  | .vsel f => Sys2Proof.Machine.execVsel f s
  | .vmov f => Sys2Proof.Machine.execVmov f s
  | .vbcast f => Sys2Proof.Machine.execVbcast f s
  | .viota f => Sys2Proof.Machine.execViota f s
  | .vperm f => Sys2Proof.Machine.execVperm f s
  | .vrot f => Sys2Proof.Machine.execVrot f s
  | .vcxs f => Sys2Proof.Machine.execVcxs f s
  | .vextr f => Sys2Proof.Machine.execVextr f s
  | .vins f => Sys2Proof.Machine.execVins f s
  | .vcmpr f => Sys2Proof.Machine.execVcmpr f s
  | .vpcnt f => Sys2Proof.Machine.execVpcnt f s
  | .vrng f => Sys2Proof.Machine.execVrng f s
  | .vtma f => Sys2Proof.Machine.execVtma f s
  | .vtmm f => Sys2Proof.Machine.execVtmm f s
  | .vtmf f => Sys2Proof.Machine.execVtmf f s
  | .vcmpEq f => Sys2Proof.Machine.execVcmpEq f s
  | .vcmpNe f => Sys2Proof.Machine.execVcmpNe f s
  | .vcmpLt f => Sys2Proof.Machine.execVcmpLt f s
  | .vcmpLe f => Sys2Proof.Machine.execVcmpLe f s
  | .vcmpGt f => Sys2Proof.Machine.execVcmpGt f s
  | .vcmpGe f => Sys2Proof.Machine.execVcmpGe f s
  | .vicmpEq f => Sys2Proof.Machine.execVicmpEq f s
  | .vicmpNe f => Sys2Proof.Machine.execVicmpNe f s
  | .vicmpLt f => Sys2Proof.Machine.execVicmpLt f s
  | .vicmpLe f => Sys2Proof.Machine.execVicmpLe f s
  | .vicmpGt f => Sys2Proof.Machine.execVicmpGt f s
  | .vicmpGe f => Sys2Proof.Machine.execVicmpGe f s
  | .vicmpLtn f => Sys2Proof.Machine.execVicmpLtn f s
  | .vicmpLen f => Sys2Proof.Machine.execVicmpLen f s
  | .vicmpGtn f => Sys2Proof.Machine.execVicmpGtn f s
  | .vicmpGen f => Sys2Proof.Machine.execVicmpGen f s
  | .tld f => Sys2Proof.Machine.execTld f s
  | .tst f => Sys2Proof.Machine.execTst f s
  | .tfill f => Sys2Proof.Machine.execTfill f s
  | .tzero f => Sys2Proof.Machine.execTzero f s
  | .wld f => Sys2Proof.Machine.execWld f s
  | .mma f => Sys2Proof.Machine.execMma f s
  | .mmas f => Sys2Proof.Machine.execMmas f s
  | .azero f => Sys2Proof.Machine.execAzero f s
  | .drain f => Sys2Proof.Machine.execDrain f s
  | .fpush f => Sys2Proof.Machine.execFpush f s
  | .tstat f => Sys2Proof.Machine.execTstat f s
  | .tclr f => Sys2Proof.Machine.execTclr f s
  | .trsum f => Sys2Proof.Machine.execTrsum f s
  | .tcsum f => Sys2Proof.Machine.execTcsum f s
  | .xfer f => Sys2Proof.Machine.execXfer f s
  | .xferRow f => Sys2Proof.Machine.execXferRow f s
  | .sfop f => Sys2Proof.Machine.execSfop f s
  | .sftab f => Sys2Proof.Machine.execSftab f s
  | .span f => Sys2Proof.Machine.execSpan f s
  | .spend f => Sys2Proof.Machine.execSpend f s
  | .rev f => Sys2Proof.Machine.execRev f s
  | .rpush f => Sys2Proof.Machine.execRpush f s
  | .rpop f => Sys2Proof.Machine.execRpop f s
  | .rseed f => Sys2Proof.Machine.execRseed f s
  | .psend f => Sys2Proof.Machine.execPsend f s
  | .psendG f => Sys2Proof.Machine.execPsendG f s
  | .precv f => Sys2Proof.Machine.execPrecv f s
  | .precvG f => Sys2Proof.Machine.execPrecvG f s
  | .coll f => Sys2Proof.Machine.execColl f s
  | .shpin f => Sys2Proof.Machine.execShpin f s
  | .shrel f => Sys2Proof.Machine.execShrel f s
  | .nnq f => Sys2Proof.Machine.execNnq f s
  | .tspawn f => Sys2Proof.Machine.execTspawn f s
  | .natm f => Sys2Proof.Machine.execNatm f s
  | .ovl f => Sys2Proof.Machine.execOvl f s
  | .pswap f => Sys2Proof.Machine.execPswap f s
  | .pbind f => Sys2Proof.Machine.execPbind f s
  | .pbindOff f => Sys2Proof.Machine.execPbindOff f s
  | .pparm f => Sys2Proof.Machine.execPparm f s
  | .phase f => Sys2Proof.Machine.execPhase f s
  | .unassignedOpcode bits => Sys2Proof.Machine.execUnassignedOpcode bits s
  | .coldReset => Sys2Proof.Machine.execColdReset s
  | .coldResetRequest => Sys2Proof.Machine.execColdResetRequest s
  | .imagePushWrite => Sys2Proof.Machine.execImagePushWrite s
  | .debugHalt => Sys2Proof.Machine.execDebugHalt s
  | .clockResume => Sys2Proof.Machine.execClockResume s
  | .droopDetect => Sys2Proof.Machine.execDroopDetect s
  | .stretchEpisodeEnd => Sys2Proof.Machine.execStretchEpisodeEnd s
  | .thermalWarning => Sys2Proof.Machine.execThermalWarning s
  | .thermalTrip => Sys2Proof.Machine.execThermalTrip s
  | .requestTimeout => Sys2Proof.Machine.execRequestTimeout s
  | .replyReceive => Sys2Proof.Machine.execReplyReceive s
  | .flitReceive => Sys2Proof.Machine.execFlitReceive s
  | .nakReceive => Sys2Proof.Machine.execNakReceive s
  | .portRetrain => Sys2Proof.Machine.execPortRetrain s
  | .timeFlitReceive => Sys2Proof.Machine.execTimeFlitReceive s
  | .ppsEdge => Sys2Proof.Machine.execPpsEdge s
  | .explorationRequest => Sys2Proof.Machine.execExplorationRequest s
  | .explorationStart => Sys2Proof.Machine.execExplorationStart s
  | .exploreProbe => Sys2Proof.Machine.execExploreProbe s
  | .exploreReport => Sys2Proof.Machine.execExploreReport s
  | .explorationEnd => Sys2Proof.Machine.execExplorationEnd s
  | .keySlotLoad => Sys2Proof.Machine.execKeySlotLoad s
  | .keySlotClear => Sys2Proof.Machine.execKeySlotClear s
  | .registerWrite => Sys2Proof.Machine.execRegisterWrite s
  | .counterWrap => Sys2Proof.Machine.execCounterWrap s
  | .dieLogTailWrite => Sys2Proof.Machine.execDieLogTailWrite s
  | .stackLogTailWrite => Sys2Proof.Machine.execStackLogTailWrite s
  | .slipLogTailWrite => Sys2Proof.Machine.execSlipLogTailWrite s
  | .hostBar4Read => Sys2Proof.Machine.execHostBar4Read s
  | .hostBar4Write => Sys2Proof.Machine.execHostBar4Write s
  | .spdmGetVersion => Sys2Proof.Machine.execSpdmGetVersion s
  | .spdmGetCapabilities => Sys2Proof.Machine.execSpdmGetCapabilities s
  | .spdmNegotiateAlgorithms => Sys2Proof.Machine.execSpdmNegotiateAlgorithms s
  | .spdmGetDigests => Sys2Proof.Machine.execSpdmGetDigests s
  | .spdmGetCertificate => Sys2Proof.Machine.execSpdmGetCertificate s
  | .spdmChallenge => Sys2Proof.Machine.execSpdmChallenge s
  | .spdmGetMeasurements => Sys2Proof.Machine.execSpdmGetMeasurements s
  | .spdmUnsupported => Sys2Proof.Machine.execSpdmUnsupported s
  | .launchSlotWrite => Sys2Proof.Machine.execLaunchSlotWrite s
  | .entryCommit => Sys2Proof.Machine.execEntryCommit s
  | .ptpTimeSet => Sys2Proof.Machine.execPtpTimeSet s
  | .foriginWrite => Sys2Proof.Machine.execForiginWrite s
  | .frameOriginSwitch => Sys2Proof.Machine.execFrameOriginSwitch s
  | .loaderStart => Sys2Proof.Machine.execLoaderStart s
  | .loaderUnload => Sys2Proof.Machine.execLoaderUnload s
  | .hostDepDecrement => Sys2Proof.Machine.execHostDepDecrement s
  | .arrivalEntryWrite => Sys2Proof.Machine.execArrivalEntryWrite s
  | .arrivalMatch => Sys2Proof.Machine.execArrivalMatch s
  | .tlbShootdown => Sys2Proof.Machine.execTlbShootdown s
  | .replayRelease => Sys2Proof.Machine.execReplayRelease s
  | .replayDiscard => Sys2Proof.Machine.execReplayDiscard s
  | .frameBoundary => Sys2Proof.Machine.execFrameBoundary s
  | .heldBoundaryOpen => Sys2Proof.Machine.execHeldBoundaryOpen s
  | .entryRelease => Sys2Proof.Machine.execEntryRelease s
  | .quadGrant => Sys2Proof.Machine.execQuadGrant s
  | .taskStart => Sys2Proof.Machine.execTaskStart s
  | .poolNextRun => Sys2Proof.Machine.execPoolNextRun s
  | .runComplete => Sys2Proof.Machine.execRunComplete s
  | .entryComplete => Sys2Proof.Machine.execEntryComplete s
  | .entryFail => Sys2Proof.Machine.execEntryFail s
  | .preemptRequest => Sys2Proof.Machine.execPreemptRequest s
  | .contextSave => Sys2Proof.Machine.execContextSave s
  | .preemptResume => Sys2Proof.Machine.execPreemptResume s
  | .commandStart => Sys2Proof.Machine.execCommandStart s
  | .timedArrival => Sys2Proof.Machine.execTimedArrival s
  | .portRowRead => Sys2Proof.Machine.execPortRowRead s
  | .portEntryWrite => Sys2Proof.Machine.execPortEntryWrite s
  | .loadReply => Sys2Proof.Machine.execLoadReply s
  | .waitaReturn => Sys2Proof.Machine.execWaitaReturn s
  | .trapEntry => Sys2Proof.Machine.execTrapEntry s
  | .deferredTrap => Sys2Proof.Machine.execDeferredTrap s
  | .residualHold => Sys2Proof.Machine.execResidualHold s
  | .residualHoldEnd => Sys2Proof.Machine.execResidualHoldEnd s
  | .spillBatch => Sys2Proof.Machine.execSpillBatch s
  | .spillComplete => Sys2Proof.Machine.execSpillComplete s
  | .runAheadRead => Sys2Proof.Machine.execRunAheadRead s
  | .demandReadReturn => Sys2Proof.Machine.execDemandReadReturn s
  | .bteChunk => Sys2Proof.Machine.execBteChunk s
  | .bteCommandComplete => Sys2Proof.Machine.execBteCommandComplete s
  | .ceRecordAccept => Sys2Proof.Machine.execCeRecordAccept s
  | .ceTransferEmit => Sys2Proof.Machine.execCeTransferEmit s
  | .ceTransferReceive => Sys2Proof.Machine.execCeTransferReceive s
  | .ceAcknowledge => Sys2Proof.Machine.execCeAcknowledge s
  | .codedBlockArrive => Sys2Proof.Machine.execCodedBlockArrive s
  | .codedPacketDecode => Sys2Proof.Machine.execCodedPacketDecode s
  | .fallbackRequest => Sys2Proof.Machine.execFallbackRequest s
  | .pairRowDeliver => Sys2Proof.Machine.execPairRowDeliver s
  | .pairCreditReturn => Sys2Proof.Machine.execPairCreditReturn s
  | .sftabSwitch => Sys2Proof.Machine.execSftabSwitch s
  | .ovlComplete => Sys2Proof.Machine.execOvlComplete s
  | .pfrComplete => Sys2Proof.Machine.execPfrComplete s
  | .rdcLineExpiry => Sys2Proof.Machine.execRdcLineExpiry s
  | .stackRd => Sys2Proof.Machine.execStackRd s
  | .stackWr => Sys2Proof.Machine.execStackWr s
  | .stackWrm => Sys2Proof.Machine.execStackWrm s
  | .stackAtom => Sys2Proof.Machine.execStackAtom s
  | .stackRed => Sys2Proof.Machine.execStackRed s
  | .stackReduce => Sys2Proof.Machine.execStackReduce s
  | .stackSrch => Sys2Proof.Machine.execStackSrch s
  | .stackZfill => Sys2Proof.Machine.execStackZfill s
  | .ingressGrant => Sys2Proof.Machine.execIngressGrant s
  | .ingressAging => Sys2Proof.Machine.execIngressAging s
  | .granuleReadResolve => Sys2Proof.Machine.execGranuleReadResolve s
  | .writeDrain => Sys2Proof.Machine.execWriteDrain s
  | .starvationTimeout => Sys2Proof.Machine.execStarvationTimeout s
  | .redBatchAck => Sys2Proof.Machine.execRedBatchAck s
  | .redAckTimeout => Sys2Proof.Machine.execRedAckTimeout s
  | .reduceChunk => Sys2Proof.Machine.execReduceChunk s
  | .eccError => Sys2Proof.Machine.execEccError s
  | .migrationPoll => Sys2Proof.Machine.execMigrationPoll s
  | .migrateToFar => Sys2Proof.Machine.execMigrateToFar s
  | .migrateToNear => Sys2Proof.Machine.execMigrateToNear s
  | .migrateFetch => Sys2Proof.Machine.execMigrateFetch s
  | .migrateBadOp => Sys2Proof.Machine.execMigrateBadOp s
  | .searchRound => Sys2Proof.Machine.execSearchRound s
  | .listMessage => Sys2Proof.Machine.execListMessage s
  | .distMessage => Sys2Proof.Machine.execDistMessage s
  | .searchComplete => Sys2Proof.Machine.execSearchComplete s
  | .gwynBreak => Sys2Proof.Machine.execGwynBreak s
  | .gwynRun => Sys2Proof.Machine.execGwynRun s
  | .gwynCont => Sys2Proof.Machine.execGwynCont s
  | .gwynPrint => Sys2Proof.Machine.execGwynPrint s
  | .gwynMem => Sys2Proof.Machine.execGwynMem s
  | .gwynSpm => Sys2Proof.Machine.execGwynSpm s
  | .gwynRdc => Sys2Proof.Machine.execGwynRdc s
  | .resendFromStaging => Sys2Proof.Machine.execResendFromStaging s
  | .monitorAttach => Sys2Proof.Machine.execMonitorAttach s
  | .monitorDetach => Sys2Proof.Machine.execMonitorDetach s

end Sys2Proof.Machine
end

