-- ==== Sys2Proof/Machine/Time.lean ====
section
/-! DEFINITION. What happens without a step of its own: committed effects leave their core, waits end, a core may issue or must
wait, time passes (R144, R145, R149, R151, R154, R171, R350, R351). -/

namespace Sys2Proof.Machine

/-! ### Committed effects leave their core (R149, R188, R365, R366, R368, R422, R430 to R433) -/

/-- Requests a CE's input queue and a die's search dispatcher hold (R430, R432). -/
def requestRoom : Nat := 64

/-- A line of a cache whose bytes of a mask have been dealt with: the other dirty ones stay, in a line that keeps what home holds beside
them, or, after CWB, as it is. -/
def keepLater (s : State) (d n kind : Nat) (later : BitVec 128) : State :=
  match rdcFind (s.die d).rdc n with
  | none => s
  | some m =>
    let k := { m with dirty := m.dirty &&& later }
    if kind ≠ 0 ∧ k.dirty = 0 then dropLine s d n
    else s.modDie d fun x => { x with rdc := sinsert (serase x.rdc n) n (if kind = 0 then k else k.refresh s 0 128) }

/-- A range operation on the line of a physical address, as the cache stood at its issue (R364, R365): the bytes dirty then are written
back (CWB, CWBI), and the line goes (CINV, CWBI) unless it was filled since; bytes made dirty since stay. DEDUCED, log 68. -/
def rangeLine (s : State) (d kind issued : Nat) (dirty : List (Nat × BitVec 128)) (pa : Nat) : State :=
  let n := pa / 128
  match rdcFind (s.die d).rdc n with
  | none => s
  | some l =>
    let then_ := (dirty.filter fun x => x.1 == n).foldl (fun m x => m ||| x.2) 0
    let t := if kind = 1 then s else writeBackLine s d { l with dirty := l.dirty &&& then_ }
    if kind ≠ 0 ∧ issued < l.filled ∧ l.dirty &&& then_ = 0 then t else keepLater t d n kind (l.dirty &&& ~~~then_)

/-- A range operation of core q from a virtual address up to its last byte, line by line; pages that do not translate are passed over
(R364). -/
def rangeLines (s : State) (q d kind asid issued : Nat) (dirty : List (Nat × BitVec 128)) : Nat → Nat → Nat → State
  | 0, _, _ => s
  | n + 1, va, last =>
    if last < va then s
    else
      match translate s (.core q) asid va 0 with
      | (t, .error _) => rangeLines t q d kind asid issued dirty n (va / 4096 * 4096 + 4096) last
      | (t, .ok p) => rangeLines (rangeLine t d kind issued dirty p.pa) q d kind asid issued dirty n (va / 128 * 128 + 128) last

/-- The write-backs of a core's range operation count as its writes: their homes' counters are noted (R365). -/
def noteBacks (old : State) (q : Nat) (s : State) : State :=
  (List.range 10).foldl (fun t h => if (t.die h).applied = (old.die h).applied then t else noteApplied t q h (t.die h).applied) s

/-- The table image an SFTAB names, if it can be read and is well formed (R422). -/
def readTable (s : State) (asid va : Nat) : State × Option (List Byte) :=
  match engReadRange s 9 1 asid 4 va 8264 with
  | (t, .ok (bs, false)) => (t, if tableOk bs then some bs else none)
  | (t, _) => (t, none)

/-- Cycles from the check of a table image to its effect (R422). -/
def tableDelay : Nat := 38

/-- Older stores of a core have left it. -/
def storesSent (c : CoreSt) (bid : Nat) : Bool := !(c.lsq.any fun m => m.kind == .store && m.phase == 0 && decide (m.bid < bid))

/-- The earlier accesses that a TSPAWN's release covers, .st stores among them, are performed (R193, R433). -/
def earlierDone (c : CoreSt) (bid : Nat) : Bool :=
  !(c.lsq.any fun m => decide (m.bid < bid) && m.open_ && m.kind != .red) && !(c.rangePending bid true)

/-- An effect whose engine reads memory as it leaves its core waits while a request of that die's engines goes unanswered (R25). -/
def Action.waits (s : State) (q : Nat) : Action → Bool
  | .nnq d _ _ _ _ => engineWaits s d
  | .sftab _ _ _ _ _ _ => engineWaits s 9
  | .pfr d _ _ len _ _ _ _ => len == 0 && engineWaits s d
  | .replay d _ _ => engineWaits s d
  | _ => false

/-- One committed effect of bundle bid leaves core q, unless it must wait. -/
def releaseAction (s : State) (q bid : Nat) (a : Action) : Option State :=
  let c := s.core q
  match a with
  | .go d ch quad data asid image =>
    if (s.channel d ch).queue.length < channelRoom then some (captureGo s d ch quad asid data image) else none
  | .ce d quad kind x y z cfg asid task =>
    if (s.die d).ceIn.length < requestRoom then
      some (s.modDie d fun e =>
        { e with ceIn := e.ceIn ++ [{ kind := kind, quad := quad, asid := asid, task := task, a := x, b := y, c := z, cfg := cfg }] })
    else none
  | .nnq d quad va len asid => if (s.die d).nnq.length < requestRoom then some (dispatchQuery s d quad asid va len) else none
  | .sftab quad n va spec val asid =>
    let r := readTable s asid va
    let w : WordRef := { spec := spec, val := if r.2.isSome then val else val ||| 0x8000000000000000, quad := quad, asid := asid }
    some { r.1 with sftabs := r.1.sftabs ++ [{ due := s.pcc + tableDelay, n := n, image := r.2, word := w }] }
  | .pfr d quad va len spec token place asid =>
    let p : Prefetch :=
      { quad := quad, asid := asid, va := va, len := len, place := place,
        token := { spec := spec, val := BitVec.ofNat 64 token, quad := quad, asid := asid } }
    some (if len = 0 then writeToken s d p else s.modDie d fun x => { x with prefetches := x.prefetches ++ [p] })
  | .spawn quad slot pd image asid bound =>
    if earlierDone c bid then
      let t := coreRelease s q
      some { t with spawns := t.spawns ++ [{ since := s.pcc, quad := quad, slot := slot, pd := pd, image := image, asid := asid, bound := bound }] }
    else none
  | .rangeOp rdc kind va len asid issued dirty =>
    if storesSent c bid then some (noteBacks s q (rangeLines s q rdc kind asid issued dirty (len / 128 + 2) va (va + len - 1))) else none
  | .replay d ch discard => some (if discard then replayDiscard s d ch else replayRelease s d ch)
  | .ovl _ _ _ _ => none

/-- The committed effects of a core leave it in order, up to the first that must wait. -/
def releaseAll (s : State) (q : Nat) : List (Nat × Action) → State
  | [] => s
  | a :: r =>
    if a.2.isOvl then releaseAll s q r
    else if (if a.2.isGo then (s.core q).checked else (s.core q).frontier) ≤ a.1 || a.2.waits s q then s
    else
      match releaseAction s q a.1 a.2 with
      | none => s
      | some t => releaseAll (t.modCore q fun c => { c with actions := c.actions.erase a }) q r

/-! ### Waits of a core that end (R338, R359, R436) -/

/-- Every result of a core is written and no load, template read, TSTAT or spawn is out (R338). -/
def resultsDone (c : CoreSt) : Bool :=
  c.arch.pend.isEmpty && c.pendPreds.isEmpty && c.tstats.isEmpty && !(c.lsq.any fun m => match m.kind with
    | .load | .atom | .tmpl => true
    | .store | .red => false)

/-- The planes are swapped beside RGN, and the region's entry is the bundle that issues next (R436). -/
def swapPlanes (c : CoreSt) (target : Nat) : CoreSt :=
  { c with
    active := 1 - c.active
    sync := none
    stalled := true
    arch := { c.arch with
      pc := target
      rgn := (c.arch.rgn &&& ~~~(0x7FF : BitVec 24)) ||| BitVec.ofNat 24 target } }

/-- A wait of core q ends when its condition holds. -/
def endWait (s : State) (q : Nat) : State :=
  let c := s.core q
  match c.sync with
  | none => s
  | some (.fence kind scope upto) =>
    if (decide (upto < c.bid) || (upto == c.bid && c.trapReq.isSome)) && !(fenceWaits c kind upto) then endFence s q kind scope upto else s
  | some (.isync from_) =>
    if c.slot == 0 && cellsDone s q && resultsDone c && !c.ovlBusy && decide (from_ + 2 ≤ s.pcc) then
      s.modCore q fun c => { c with sync := none, stalled := true }
    else s
  | some (.pswap target) =>
    if c.run == .running && c.slot == 0 && cellsDone s q && !c.ovlBusy && decide (c.bid ≤ c.frontier) then
      s.modCore q fun c => swapPlanes c target
    else s

/-- The bundles that no longer trap: committed, with no residual granule of theirs still to write, and not the youngest that asked for
spilling (R232). -/
def CoreSt.past (c : CoreSt) (granules : List Nat) (bid : Nat) : Bool :=
  !(decide (c.frontier ≤ bid) || granules.contains bid || c.lastRes == some bid)

/-- The bundles of the commands in a quad's queues that have residual granules to write. -/
def granuleBundles (s : State) (q : Nat) : List Nat :=
  [0, 1, 2, 3].flatMap fun j =>
    let x := s.cell q j
    ((x.qMat ++ x.qVec ++ x.qSf).filter fun k => decide (0 < k.resLen)).map fun k => k.bid

/-- What a bundle did can still be undone: it or an older one may yet trap. -/
def CoreSt.undone (c : CoreSt) (granules : List Nat) (bid : Nat) : Bool :=
  c.snaps.any (fun p => decide (p.1 ≤ bid) && !(c.past granules p.1)) || !(c.past granules bid)

/-- The registers of a bundle that no longer traps need no copy, and what it wrote elsewhere is not put back, nor what it overwrote
there of another core's bundle. -/
def trimSnaps (s : State) (q : Nat) : State :=
  let c := s.core q
  if c.snaps.isEmpty && c.undo.isEmpty then s
  else
    let gs := granuleBundles s q
    let s1 := (c.undo.filter fun w => !(c.undone gs w.bid)).foldl (fun t w => forgetPlace t q w.due w.dst) s
    let s2 := [0, 1, 2, 3].foldl (fun t j =>
      if (t.cell q j).ended.isEmpty then t else t.modCell q j fun x => { x with ended := x.ended.filter fun e => c.undone gs e.1 }) s1
    s2.modCore q fun x =>
      { x with snaps := x.snaps.filter fun p => !(c.past gs p.1), undo := x.undo.filter fun w => c.undone gs w.bid }

/-- What core q does beside its bundles; while an exploration runs its traffic waits (R37). -/
def pumpCore (s : State) (q : Nat) : State :=
  let s1 := if s.explRunning then s else
    let t := releaseAll s q (s.core q).actions
    sendAll t q (t.core q).lsq
  trimSnaps (endWait s1 q) q

/-- Everything that comes about between steps. -/
def pump (s : State) : State :=
  let s1 := decideSpawns (tlbSettle (keyUpdate s))
  let s2 := s1.preempts.foldl (fun t p => if preemptLost t p.1 p.2 then dropPreempt t p.1 p.2 else t) s1
  s2.cores.foldl (fun t p => pumpCore t p.1) s2

/-! ### When a core may issue (R144, R151, R154, R350, R351) -/

/-- The slots of the bundle a core is at. -/
def CoreSt.slots (c : CoreSt) : List Instr := [SlotKind.a, .b, .v, .t, .e].map c.slotInstr

/-- The guard of a slot as it stands; per-lane guards count as true. -/
def Arch.slotLive (a : Arch) (i : Instr) : Bool :=
  match cmdMask i with
  | some _ => true
  | none => a.live i

/-- Registers a slot reads: its guard, and its operands unless it is quashed. -/
def slotReads (c : CoreSt) (i : Instr) : List RegRef :=
  .p (guardReg i).1.toNat :: (if c.arch.slotLive i then operandReads i else [])

/-- Registers a slot writes. -/
def slotWrites (c : CoreSt) (i : Instr) : List RegRef :=
  if c.arch.slotLive i then
    match i, destReg i with
    | .tstat f, _ => [.p (nfield (c.arch.rx f.xs.toNat) 0 5)]
    | _, some r => [r]
    | _, none => []
  else []

/-- What slot B asks of the request limits: a global request, a RED, or neither. -/
def slotRequest (a : Arch) (i : Instr) : Option Bool :=
  let global (ea : Word) : Option Bool := match spaceOf ea with
    | .global _ => some false
    | _ => none
  match i with
  | .ldb f | .ldbn f | .stb f => global (plainEa a f 1)
  | .ldh f | .ldhn f | .sth f => global (plainEa a f 2)
  | .ldw f | .ldwn f | .stw f => global (plainEa a f 4)
  | .ldd f | .std f => global (plainEa a f 8)
  | .ldbAcq f | .ldbnAcq f | .ldhAcq f | .ldhnAcq f | .ldwAcq f | .ldwnAcq f | .lddAcq f | .stbRel f | .sthRel f | .stwRel f
  | .stdRel f => global (a.rx f.a.toNat + a.rx f.b.toNat)
  | .amo _ | .cas _ => some false
  | .waita f => if specLocal (a.rx f.a.toNat) then none else some false
  | .red _ => some true
  | _ => none

/-- The limits of outstanding requests leave room for the bundle (R351). -/
def requestsFit (c : CoreSt) : Bool :=
  let i := c.slotInstr .b
  if c.arch.live i then
    match slotRequest c.arch i with
    | some false =>
      decide ((c.lsq.filter fun m => m.open_ && m.kind != .red).length + (if c.waita.isSome then 1 else 0) < 64)
    | some true => decide ((c.lsq.filter fun m => m.open_ && m.kind == .red).length < 512)
    | none => true
  else true

/-- Effects of all cores that wait to leave them and go to the same queue: each has its place there. -/
def waitingActions (s : State) (same : Action → Bool) : Nat :=
  s.cores.foldl (fun n c => n + (c.2.actions.filter fun a => same a.2).length) 0

/-- Engine queues the bundle enters have room, and no OVL is in flight for another one (R368, R430, R432, R435). -/
def enginesFit (s : State) (q : Nat) : Bool :=
  let c := s.core q
  let d := quadDie q
  let b := match c.slotInstr .b with
    | .std f =>
      match spaceOf (plainEa c.arch f 8) with
      | .go ch => !(c.arch.live (.std f)) || decide ((s.channel d ch).queue.length + waitingActions s (fun a => match a with
          | .go e n _ _ _ _ => e == d && n == ch
          | _ => false) < channelRoom)
      | _ => true
    | _ => true
  let e := c.slotInstr .e
  let ceFits := decide ((s.die d).ceIn.length + waitingActions s (fun a => match a with
    | .ce e _ _ _ _ _ _ _ _ => e == d
    | _ => false) < requestRoom)
  b && (!(c.arch.live e) || (match e with
    | .coll _ | .shpin _ | .shrel _ => ceFits
    | .nnq _ => decide ((s.die d).nnq.length + waitingActions s (fun a => match a with
        | .nnq e _ _ _ _ => e == d
        | _ => false) < requestRoom)
    | .ovl _ => !c.ovlBusy
    | _ => true))

/-- The queue of a cell that a slot's command enters. -/
def slotQueue (k : SlotKind) : Nat :=
  match k with
  | .t => 0
  | .v => 1
  | _ => 2

/-- Every cell queue the bundle enters has room (R151, R154). -/
def queuesFit (s : State) (q : Nat) : Bool :=
  let c := s.core q
  [SlotKind.t, .v, .e].all fun k =>
    match queueMask (c.slotInstr k) with
    | none => true
    | some cm => (cellsOf cm).all fun j => decide (((s.cell q j).queueOf (slotQueue k)).length < 16)

/-- The lane of an interlocked send holds credits for its rows (R429). -/
def creditsFit (c : CoreSt) : Bool :=
  let fits (f : EV) (back : Bool) : Bool :=
    decide (sget 0 c.arch.credits (laneKey (nfield f.fn 0 3) back) + (cellsOf f.cm).length ≤ 16)
  match c.slotInstr .e with
  | .psend f => fits f false
  | .psendG f => fits f true
  | _ => true

/-- The bundle a core is at must wait, by an interlocked stall. -/
def bundleStalls (s : State) (q : Nat) : Bool :=
  let c := s.core q
  let is := c.slots
  is.any (fun i => (slotReads c i ++ slotWrites c i).any (pendingReg c)) || !(requestsFit c) || !(enginesFit s q)
    || (c.interlocked && (is.any (fun i => (slotReads c i).any (notWritten s q)) || !(queuesFit s q) || !(creditsFit c)))

/-- A reverse bundle must wait for a register it reads (R152, R154). -/
def reverseStalls (s : State) (q : Nat) : Bool :=
  let c := s.core q
  match c.rev with
  | some w =>
    let f := w.forward c
    w.phase == 1 && [SlotKind.a, .b, .v, .t, .e].any fun k => (slotReads c (f.slot c k)).any fun r => pendingReg c r || notWritten s q r
  | none => false

/-- A core is under way: no trap is to be taken before its next bundle (R273, R275), and neither a hold nor a WAITA keeps it. -/
def CoreSt.going (c : CoreSt) : Bool :=
  c.run == .running && c.trapReq.isNone && c.deferred.isEmpty && c.hold.isNone && c.waita.isNone

/-- Nothing that a core asked for holds up its next bundle. -/
def CoreSt.free (c : CoreSt) : Bool := c.going && c.sync.isNone

/-- The first cycle in which the next bundle could issue (R144). -/
def CoreSt.naturalAt (c : CoreSt) : Nat := if c.walksBack then c.issueAt else c.issueAt + headerIdle c.curBundle

/-- The core is inside a bundle: its registers have been noted for it. -/
def CoreSt.inBundle (c : CoreSt) : Bool := c.slot != 0 || c.snaps.any fun p => p.1 == c.bid

/-- A core at slot E of its bundle waits with its REV (R425). -/
def atRevWait (s : State) (q : Nat) : Bool :=
  let c := s.core q
  c.slot == 4 && (match c.slotInstr .e with
    | .rev _ => !c.arch.walking && revWaits s q
    | _ => false)

/-- A core that goes on with the bundle it is in. -/
def midBundle (s : State) (q : Nat) : Bool :=
  let c := s.core q
  c.run == .running && c.inBundle && !c.walksBack && !(atRevWait s q)

/-- A core that issues its next bundle now. -/
def issues (s : State) (q : Nat) : Bool :=
  let c := s.core q
  c.free && decide (c.naturalAt ≤ s.pcc) &&
    (if c.walksBack then !(revWaits s q) && !(reverseStalls s q) else !c.inBundle && !(bundleStalls s q))

/-- A core waits past its cycle by an interlocked stall. -/
def stalls (s : State) (q : Nat) : Bool :=
  let c := s.core q
  c.going && (atRevWait s q || decide (c.naturalAt ≤ s.pcc))

/-- The bundle is about to issue: a stall that ends makes this cycle the time base (R145), a walk's replay shows its bundle in sr.rvs, and
the registers are noted; a trap finds sr.rvs at the bundle that trapped (R243, R344). The bundle counts as event 0x100 (R46) as it
begins, so one that traps in a slot counts too; a SYSR of the bundle's own finds it counted (DESIGN CHOICE, log 22). -/
def prepare (s : State) (q : Nat) : State :=
  (if (s.core q).walksBack then s else countQuad s q 0x100 1).modCore q fun c =>
    let tb := if c.stalled then s.pcc else c.arch.tbase
    if c.walksBack then { c with slot := 4, issueAt := s.pcc + 1, stalled := false, brkSkip := false, arch := { c.arch with tbase := tb } }
    else
      let a := { c.arch with tbase := tb }
      let b := if a.walking then a.rvsAt a.pc else a
      { c with snaps := c.snaps ++ [(c.bid, b, c.rev)], stalled := false, brkSkip := false, arch := b }

/-! ### A cycle passes (R20 to R24, R46, R60, R171, R233) -/

/-- PTP units of one cycle: 5/6 ns, or 15/16 ns when stretched, with the rate where the device disciplines its own time (R24, R60). -/
def cycleUnits (s : State) : Nat :=
  if stretchedNow s then 45 * 2 ^ 40
  else 40 * 2 ^ 40

/-- The rate's share of a cycle, where nothing outside disciplines time. DESIGN CHOICE, log 12. -/
def rateUnits (s : State) : Int :=
  if s.ptpSource = 0 ∨ s.ptpSource = 3 then (if stretchedNow s then 45 else 40) * s.ptpRate.toInt else 0

/-- Time outside the package clock moves on by one cycle's length. -/
def passTime (s : State) : State :=
  { s with
    ptp := ((s.ptp + cycleUnits s : Int) + rateUnits s).toNat
    wall := s.wall + (if stretchedNow s then 45 else 40) }

/-- A quad is held, or a granule of it has begun to wait: nothing of it moves (R233). -/
def heldQuad (s : State) (q : Nat) : Bool := (s.core q).hold.isSome || [0, 1, 2, 3].any (holdDue s q)

/-- A core lets the idle cycles of its next bundle's header pass (R144). -/
def CoreSt.headerIdles (c : CoreSt) (pcc : Nat) : Bool :=
  c.going && !c.inBundle && decide (c.issueAt ≤ pcc) && decide (pcc < c.naturalAt)

/-- The events a quad counts in a cycle (R46). -/
def countQuadCycle (s : State) (q : Nat) : State :=
  let held := heldQuad s q
  let t1 := countQuad s q 0x001 1
  let t2 := if (s.core q).headerIdles s.pcc && !held then countQuad t1 q 0x101 1 else t1
  let t3 := if stalls s q && !held then countQuad t2 q 0x102 1 else t2
  if held then countQuad t3 q 0x104 1 else t3

/-- The events every die and quad counts in a cycle (R46). -/
def countCycle (s : State) : State :=
  let stretched := if stretchedNow s then 1 else 0
  let begun := if s.episode.any fun e => e.1 == s.pcc then 1 else 0
  let s1 := s.dies.foldl (fun t p => countDie (countDie (countDie t p.1 0x001 1) p.1 0x002 stretched) p.1 0x004 begun) s
  s1.cores.foldl (fun t p => countQuadCycle t p.1) s1

/-- The reads of a cycle's end, cell by cell; what a hold keeps does nothing. -/
def allReads (s : State) : State :=
  s.cells.foldl (fun t p => if heldQuad t (p.1 / 4) then t else cellReads t (p.1 / 4) (p.1 % 4)) s

/-- The results and writes due in a new cycle: the host's first, then the cores', then the cells' (R47, R171). -/
def allWrites (s : State) : State :=
  let s0 := hostResults s
  let s1 := s0.cores.foldl (fun t p => if heldQuad t p.1 then t else applyDue t p.1) s0
  s1.cells.foldl (fun t p => if heldQuad t (p.1 / 4) then t else cellWrites t (p.1 / 4) (p.1 % 4)) s1

/-- The end of a cycle: Trestle's decrements are over, streaming reads are made, the count rises, results due in the new cycle are
written. -/
def tick (s0 : State) : State :=
  let s1 := allReads (endTrestleCycle s0)
  let s2 := s1.cores.foldl (fun t p => if stalls s1 p.1 && !(heldQuad s1 p.1) then t.modCore p.1 fun c => { c with stalled := true } else t)
    (countCycle s1)
  allWrites { passTime s2 with pcc := s2.pcc + 1 }

end Sys2Proof.Machine
end

