-- ==== Sys2Proof/Machine/Pick.lean ====
section
/-! DEFINITION. Which step the machine takes next: an act of the outside world that waits, the boot, the bundle a core is in, a
step that is due at the present cycle, the bundle a core issues, a step of the untimed parts, or time passing (DESIGN CHOICE, log 5). -/

namespace Sys2Proof.Machine

/-- What happens next: a step of the part on a prepared state, or a state that needs no instruction: time has passed, or an act of the
outside world has been answered, put off or passed over. -/
inductive Pick where
  | act (i : Instr) (s : State)
  | rest (s : State)
  deriving DecidableEq, Repr

/-- A step and the operands it names. -/
abbrev Act := Instr × EvArg

/-- A step with up to three operands. -/
def act (i : Instr) (a b c : Nat) : Act := (i, { EvArg.none with a := a, b := b, c := c })

/-- The step as it is taken. -/
def Act.on (x : Act) (s : State) : Pick := .act x.1 { s with arg := x.2 }

/-- A step if it is due. -/
def when_ (b : Bool) (x : Act) : Option Act := if b then some x else none

/-! ### The outside world (R41) -/

/-- A register of BAR0 brings the step about; in the recovery state BAR0 has only the boot registers and the push window (R41), and BAR2
stays as it is. DEDUCED, log 51. -/
def hidden (i : Instr) (x : EvArg) : Bool :=
  match i with
  | .registerWrite => decide (x.a < 0x04000000) && !(x.a == 0x08 || decide (0x03000000 ≤ x.a))
  | .explorationRequest | .keySlotLoad | .keySlotClear | .dieLogTailWrite | .stackLogTailWrite | .slipLogTailWrite | .ptpTimeSet
  | .foriginWrite | .loaderStart | .loaderUnload | .hostDepDecrement | .arrivalEntryWrite | .tlbShootdown | .replayRelease
  | .replayDiscard => true
  | _ => false

/-- The act needs traffic between dies or packages, which waits while an exploration runs (R37). -/
def crossing : Instr → Bool
  | .hostBar4Read | .hostBar4Write | .loaderStart | .tlbShootdown => true
  | _ => false

/-- An act of the outside world, or the consequence of a step. One that names no unit of the device does nothing. DESIGN CHOICE,
log 58. -/
def pickInput (s : State) (i : Instr) (x : EvArg) : Pick :=
  if !(wfEvent x i) || (s.bootState == 3 && hidden i x) then .rest s else .act i { s with arg := x }

/-- The first act that need not wait, and the others (R37). -/
def firstInput (explores : Bool) : List (Instr × EvArg) → Option ((Instr × EvArg) × List (Instr × EvArg))
  | [] => none
  | x :: r => if explores && crossing x.1 then (firstInput explores r).map fun y => (y.1, x :: y.2) else some (x, r)

/-! ### Steps that are due at the present cycle -/

/-- Each cell that holds anything: its quad and its number. -/
def State.cellList (s : State) : List (Nat × Nat) := s.cells.map fun p => (p.1 / 4, p.1 % 4)

/-- Holds, rows of output ports, arrivals, rows and credits of lanes, starts, rows of input ports: what a quad has to do in a cycle
before its cores issue. -/
def quadDue (s : State) : Option Act :=
  (s.cellList.findSome? fun c => when_ (holdDue s c.1 c.2) (act .residualHold c.1 c.2 0))
  <|> (s.cellList.findSome? fun c => [6, 7].findSome? fun p => when_ (portWriteDue s c.1 c.2 p) (act .portEntryWrite c.1 c.2 p))
  <|> (s.arrivals.findSome? fun a => when_ (decide (a.due ≤ s.pcc) && arrivalDue s a.quad) (act .timedArrival a.quad 0 0))
  <|> (s.laneMsgs.findSome? fun m => when_ ((laneDue s m.quad false).isSome) (act .pairRowDeliver m.quad 0 0))
  <|> (s.laneMsgs.findSome? fun m => when_ ((laneDue s m.quad true).isSome) (act .pairCreditReturn m.quad 0 0))
  <|> (s.laneMsgs.findSome? fun m => when_ (decide (m.due ≤ s.pcc) && (s.core m.quad).hold.isSome && arrivalDue s m.quad)
        (act .timedArrival m.quad 0 0))
  <|> (s.cellList.findSome? fun c => [0, 1, 2].findSome? fun n => match queueTurn s c.1 c.2 n with
        | .idle => none
        | _ => some (act .commandStart c.1 c.2 n))
  <|> (s.cellList.findSome? fun c => [0, 1, 2, 3, 4, 5].findSome? fun p => when_ (portReadDue s c.1 c.2 p) (act .portRowRead c.1 c.2 p))
  <|> (s.cores.findSome? fun p => when_ (holdEndDue s p.1) (act .residualHoldEnd p.1 0 0))

/-- A flood-exploration flit on a lane of this package: a probe or a report at the router it reaches. -/
def explDue (s : State) : Option Act :=
  match s.explFlits with
  | [] => none
  | x :: _ => some (if explKind x.2.2 = 0 then .exploreProbe else .exploreReport, { EvArg.none with a := x.1, b := x.2.1, wide := x.2.2 })

/-- What the package has to do in a cycle: tables, cache lines, time-outs, stretching, exploration. -/
def packageDue (s : State) : Option Act :=
  (match s.sftabs with
    | l :: _ => when_ (decide (l.due ≤ s.pcc)) (act .sftabSwitch 0 0 0)
    | [] => none)
  <|> (s.dies.findSome? fun d => d.2.rdc.findSome? fun l => when_ (l.2.expired s.pcc) (act .rdcLineExpiry d.1 l.1 0))
  <|> (s.cores.findSome? fun p => p.2.lsq.findSome? fun m => when_ (m.lateBy s) (act .requestTimeout p.1 m.tag 0))
  <|> (s.ports.findSome? fun p => when_ p.2.mustRetrain (act .portRetrain p.1 (if Config.retrains p.1 s.fresh then 1 else 0) 0))
  <|> when_ (episodeOver s) (act .stretchEpisodeEnd 0 0 0)
  <|> when_ (explorationDue s) (act .explorationStart 0 0 0)
  <|> when_ (explorationOver s) (act .explorationEnd 0 0 0)
  <|> explDue s

/-- Gangs of the entries, each with its slot. -/
def State.gangList (s : State) : List (Nat × Gang) := s.entries.flatMap fun p => p.2.gangs.map fun g => (p.1, g)

/-- What Trestle has to do in a cycle; the record of a loop nest is read when no exploration runs (R37). -/
def trestleDue (s : State) : Option Act :=
  when_ (heldOpenDue s) (act .heldBoundaryOpen 0 0 0)
  <|> when_ (switchDue s) (act .frameOriginSwitch 0 0 0)
  <|> when_ (boundaryDue s) (act .frameBoundary 0 0 0)
  <|> (s.entries.findSome? fun p => p.2.failReq.map fun f => act .entryFail p.1 f.1 f.2)
  <|> (s.gangList.findSome? fun g => when_ (runDone s g.2) (act .runComplete g.1 g.2.id 0))
  <|> (s.entries.findSome? fun p => when_ (p.2.st == .completing) (act .entryComplete p.1 0 0))
  <|> (s.entries.findSome? fun p => when_ (releaseDue s p.1 && !(s.explRunning && imgNest p.2.image)) (act .entryRelease p.1 0 0))
  <|> (s.gangList.findSome? fun g => when_ (g.2.startDue s.pcc) (act .taskStart g.1 g.2.id 0))
  <|> (s.gangList.findSome? fun g => when_ (g.2.nextDue s.pcc) (act .poolNextRun g.1 (g.2.quads.headD 0) 0))
  <|> (s.gangList.findSome? fun g => when_ (g.2.resumeDue s.pcc) (act .preemptResume g.1 g.2.id 0))
  <|> (s.preempts.findSome? fun p => match (s.entry p.1).gang p.2 with
        | some g => when_ (saveDue s g) (act .contextSave p.1 p.2 0)
        | none => none)

/-- The walk of the ranking, last of what Trestle does in a cycle (R123). -/
def walkDue (s : State) : Bool := s.entries.any (fun p => p.2.ranked) && grantReady s

/-- Traps to be taken and a WAITA's read. -/
def coreDue (s : State) : Option Act :=
  (s.cores.findSome? fun p => when_ (trapEntryDue s p.1) (act .trapEntry p.1 0 0))
  <|> (s.cores.findSome? fun p => when_ (deferredDue s p.1) (act .deferredTrap p.1 0 0))
  <|> (s.cores.findSome? fun p => when_ (waitaDue s p.1) (act .waitaReturn p.1 0 0))

/-- The step that is due first. -/
def dueAct (s : State) : Option Act := quadDue s <|> packageDue s <|> trestleDue s <|> coreDue s

/-- A step that is due is taken; an exploration flit of another kind is dropped (R37). -/
def takeDue (s : State) (x : Act) : Pick :=
  match x.1, s.explFlits with
  | .exploreProbe, _ :: r => x.on { s with explFlits := r }
  | .exploreReport, f :: r => if explKind f.2.2 = 1 then x.on { s with explFlits := r } else .rest { s with explFlits := r }
  | _, _ => x.on s

/-! ### Bundles -/

/-- Core q goes on with the slot it is at. -/
def slotPick (s : State) (q : Nat) : Pick :=
  let c := s.core q
  .act (decodeSlot (slotAt c.slot) c.slotBits) { s with cur := q }

/-- The core that is inside a bundle, the lowest first: a bundle's slots follow one another with nothing between (R309). -/
def midCore (s : State) : Option Nat := s.cores.findSome? fun p => if midBundle s p.1 then some p.1 else none

/-- A breakpoint stands at the bundle a core is about to issue (R445). -/
def breaksHere (c : CoreSt) : Bool := !c.walksBack && !c.brkSkip && c.breaks.contains c.arch.pc

/-- Core q issues: before an RGN it may stop for a pre-emption, at a breakpoint the clock stops, else its first slot acts. -/
def issuePick (s : State) (q : Nat) : Pick :=
  let c := s.core q
  if c.stopsHere then .rest (s.modCore q fun c => { c with run := .atRgn })
  else if breaksHere c then
    let t := s.modCore q fun c => { c with brkSkip := true }
    .act .debugHalt { t with hostOut := t.hostOut ++ [.stopped q c.arch.pc], arg := EvArg.none }
  else slotPick (prepare s q) q

/-- The core that issues, the lowest first. -/
def issueCore (s : State) : Option Nat := s.cores.findSome? fun p => if issues s p.1 then some p.1 else none

/-! ### Steps of the untimed parts -/

/-- The step of a request that a stack performs next. -/
def requestStep (op : Nat) : Instr :=
  match op with
  | 0 => .stackRd
  | 1 => .stackWr
  | 2 => .stackWrm
  | 3 => .stackAtom
  | 4 => .stackRed
  | 5 => .stackReduce
  | 6 => .stackSrch
  | _ => .stackZfill

/-- The step of a migration engine. -/
def migrateAct (op k : Nat) : Act :=
  act (match op with
    | 1 => .migrateToFar
    | 2 => .migrateToNear
    | 3 => .migrateFetch
    | _ => .migrateBadOp) k 0 0

/-- Steps that a test finds possible. -/
def only (b : Bool) (x : Act) : List Act := if b then [x] else []

/-- The channels whose ingress or queues have something. -/
def chanList (x : StackSt) : List Nat :=
  (x.ingress.flatMap fun p => (p.2.take 1).map Req.chan) ++ x.chans.map fun p => p.1

/-- Cores that wait for the acknowledgement of a RED of stack k. -/
def redCores (x : StackSt) : List Nat := x.redPend.foldl (fun l r => if r.die = 0 ∧ !(l.contains r.agent) then l ++ [r.agent] else l) []

/-- The step of a search query; its result goes out while no exploration runs. -/
def queryActs (k : Nat) (free : Bool) (q : Query) : List Act :=
  match q.status with
  | some _ => only free (act .searchComplete k q.id 0)
  | none => only (q.waiting == 0) (act .searchRound k q.id 0)

/-- A message between search units may be served: while an exploration runs, only one within a die (R37). -/
def withinDie (s : State) (k home : Nat) : Bool := !s.explRunning || k / 2 == home / 2

/-- What a stack can do (R77 to R90, R95, R96, R107 to R118); while an exploration runs, nothing that needs another die (R37). -/
def stackActs (s : State) (k : Nat) : List Act :=
  let x := s.stack k
  let free := !s.explRunning
  let each (due : State → Nat → Nat → Bool) (i : Instr) : List Act := (chanList x).flatMap fun n => only (due s k n) (act i k n 0)
  each (fun s k n => (agedClass s (s.stack k) n).isSome) .ingressAging ++ each grantDue .ingressGrant
    ++ (match x.accepted with
      | r :: _ => [act (requestStep r.op) k 0 0]
      | [] => [])
    ++ each resolveDue .granuleReadResolve ++ each starvationDue .starvationTimeout ++ each drainDue .writeDrain
    ++ ((redCores x).flatMap fun q => only (batchDue s k q) (act .redBatchAck k q 0) ++ only (ackDue s k q) (act .redAckTimeout k q 0))
    ++ only (free && !x.reduce.isEmpty) (act .reduceChunk k 0 0)
    ++ only (x.listReq.head?.any fun m => withinDie s k m.home) (act .listMessage k 0 0)
    ++ only (x.distReq.head?.any fun m => withinDie s k m.home) (act .distMessage k 0 0)
    ++ x.queries.flatMap (queryActs k free)
    ++ only (free && pollDue s k) (act .migrationPoll k 0 0)
    ++ (match migOp s k with
      | some op => only (free && migrateDue s k) (migrateAct op k)
      | none => [])

/-- What the engines of a die can do; they wait while a request of theirs goes unanswered (R25, R249 to R263, R278, R366, R370). -/
def dieActs (s : State) (d : Nat) : List Act :=
  let x := s.die d
  if engineWaits s d then [] else
  (x.channels.flatMap fun c => only (chunkDue s d c.1) (act .bteChunk d c.1 0) ++ only (completeDue s d c.1) (act .bteCommandComplete d c.1 0))
    ++ only (!x.ceIn.isEmpty) (act .ceRecordAccept d 0 0) ++ only (emitDue s d) (act .ceTransferEmit d 0 0)
    ++ only (!x.prefetches.isEmpty) (act .pfrComplete d 0 0)

/-- What messages between collective engines bring about (R251, R256, R261, R263). -/
def messageActs (s : State) (d : Nat) : List Act :=
  if engineWaits s d then [] else
  only (arrivedXfer s d).isSome (act .ceTransferReceive d 0 0) ++ only (s.msgs.any (ackFor d)) (act .ceAcknowledge d 0 0)
    ++ only (s.msgs.any (packetFor s d) && bufferFree s d) (act .codedPacketDecode d 0 0)
    ++ only (s.msgs.any (fallbackFor d)) (act .fallbackRequest d 0 0)

/-- What the untimed parts of a quad can do (R232, R242, R349, R435). -/
def quadActs (s : State) : List Act :=
  (s.cores.flatMap fun p => only (answered s p.1).isSome (act .loadReply p.1 0 0))
    ++ (s.cores.flatMap fun p => only ((ovlReady s p.1).isSome && !(engineWaits s (quadDie p.1))) (act .ovlComplete p.1 0 0))
    ++ (s.cellList.flatMap fun c => if engineWaits s (quadDie c.1) then [] else
      only (spillDue s c.1 c.2) (act .spillBatch c.1 c.2 0)
        ++ only (s.cell c.1 c.2).batch.isSome (act .spillComplete c.1 c.2 0)
        ++ only (demandDue s c.1 c.2) (act .demandReadReturn c.1 c.2 0)
        ++ only (aheadDue s c.1 c.2) (act .runAheadRead c.1 c.2 0))

/-- The steps the untimed parts can take now; while an exploration runs their traffic between dies waits (R37). -/
def untimedActs (s : State) : List Act :=
  let replies := (List.range s.replies.length).map fun k => act .replyReceive k 0 0
  let here := s.hbm.flatMap fun p => stackActs s p.1
  if s.explRunning then here
  else
    replies ++ quadActs s ++ here ++ (s.dies.flatMap fun p => dieActs s p.1)
      ++ (if s.msgs.isEmpty then [] else
        only (s.msgs.any (blockHere s)) (act .codedBlockArrive 0 0 0) ++ (List.range 10).flatMap (messageActs s))

/-- Steps that may be taken and need not: a pre-emption that its rule allows (R138), a WAITA's read before its latest cycle (R363). -/
def optionalActs (s : State) : List Act :=
  (s.entries.flatMap fun p => if p.2.ranked then
      s.entries.flatMap fun v => only (v.2.gangs.any (preemptable s p.1 v.1)) (act .preemptRequest p.1 v.1 0)
    else [])
  ++ s.cores.flatMap fun p => only (waitaReads s p.1 && ((s.core p.1).waita.all fun w => w.lost.isNone)) (act .waitaReturn p.1 0 0)

/-- The step of the untimed parts that is taken: the first, unless the next choice names another or lets time pass (DESIGN CHOICE, log 5). -/
def chooseAct (s : State) (must may : List Act) : Option Pick :=
  match s.choices with
  | [] => must.head?.map fun x => x.on s
  | 0 :: r => must.head?.map fun x => x.on { s with choices := r }
  | (k + 1) :: r =>
    if must.isEmpty && may.isEmpty then none
    else
      match (must ++ may)[k]? with
      | some x => some (x.on { s with choices := r })
      | none => none

/-- Time passes: a choice to let it pass is used up. -/
def passPick (s : State) (must may : List Act) : Pick :=
  match s.choices with
  | (_ + 1) :: r => if must.isEmpty && may.isEmpty then .rest (tick s) else .rest (tick { s with choices := r })
  | _ => .rest (tick s)

/-! ### The next step -/

/-- With the package clock stopped only the stacks work, and time outside passes (R20). DEDUCED, log 52. -/
def pickStopped (s : State) : Pick :=
  let must := s.hbm.flatMap fun p => stackActs s p.1
  match chooseAct s must [] with
  | some x => x
  | none =>
    match s.choices with
    | (_ + 1) :: r => if must.isEmpty then .rest (passTime s) else .rest (passTime { s with choices := r })
    | _ => .rest (passTime s)

/-- The next step of a part whose clock runs. -/
def pickRunning (s0 : State) : Pick :=
  let s := pump s0
  match midCore s with
  | some q => slotPick s q
  | none =>
    match dueAct s with
    | some x => takeDue s x
    | none =>
      match issueCore s with
      | some q => issuePick s q
      | none =>
        let must := untimedActs s
        let may := optionalActs s
        match chooseAct s must may with
        | some x => x
        | none =>
          if !s.tagged.isEmpty then (act .arrivalMatch 0 0 0).on s
          else if walkDue s then (act .quadGrant 0 0 0).on s
          else passPick s must may

/-- The part's own next step. -/
def pickOwn (s : State) : Pick := if s.clockOn then pickRunning s else pickStopped s

/-- The boot ROM has still to run after a cold reset, or a reset is asked for (R39, R42). -/
def resetDue (s : State) : Bool := (s.bootState == 1 && s.bootStep == 0) || s.resetReq

/-- An act of the outside world that is due by the wall clock comes among the inputs. -/
def pickLater (s : State) : Pick :=
  match s.later with
  | (t, i, x) :: r => if t ≤ s.wall then .rest { s with later := r, inputs := s.inputs ++ [(i, x)] } else pickOwn s
  | [] => pickOwn s

/-- The next step: a reset, what the host asks, an act of the outside world, or the part's own. DESIGN CHOICE, logs 5, 58. -/
def pick (s : State) : Pick :=
  if resetDue s then .act .coldReset s
  else
    match s.hostAsks with
    | x :: r => .rest (hostAsk { s with hostAsks := r } x)
    | [] =>
      match firstInput s.explRunning s.inputs with
      | some ((i, x), r) => pickInput { s with inputs := r } i x
      | none => pickLater s

end Sys2Proof.Machine
end

