-- ==== Sys2Proof/Machine/Step.lean ====
section
/-! DEFINITION. One step of the machine, and the placing of an instruction where the next step runs it. -/

namespace Sys2Proof.Machine

/-- One step: the meaning of the step that is picked, on the state prepared for it. -/
def step (s : State) : Host.Outcome State Fault Refusal :=
  match pick s with
  | .act i t => exec i t
  | .rest t => .next t

/-- The state whose next step runs the first busy slot of the bundle w: the bundle stands in the active plane of core 0 at its
pc, the core runs and issues now, the device is booted, and nothing from outside is pending (DEDUCED, log 6). -/
def State.withFetchWord (s : State) (_nbits w : Nat) : State :=
  let b : Bundle := BitVec.ofNat 256 w
  let s1 := s.modCore 0 fun c =>
    { c with
      run := .running
      slot := firstBusySlot b
      issueAt := s.pcc
      snaps := c.snaps ++ [(c.bid, c.arch, c.rev)]
      planes := sset 0 c.planes (2048 * c.active + c.arch.pc % 2048) b }
  { s1 with bootState := 2, resetReq := false, clockOn := true, hostAsks := [], inputs := [], later := [] }

end Sys2Proof.Machine
end

