-- ==== Sys2Proof/Safety.lean ====
section
/-! DEFINITION. The terms the statements use: when a slot runs, what the shared ends of a slot leave, canonical form, and what
stays as it was. -/

namespace Sys2Proof.Safety

open Sys2Proof.Machine

/-! ### Canonical form -/

/-- Global memory and the tables of units are in canonical form, so that equal contents are equal data. -/
def Canonical (s : State) : Prop :=
  Memory.wf s.mem = true ∧ swf CoreSt.reset s.cores = true ∧ swf CellSt.reset s.cells = true
    ∧ swf DieSt.reset s.dies = true ∧ swf StackSt.reset s.hbm = true ∧ swf Entry.free s.entries = true

/-- Every byte, key and poison mark of global memory reads as before. -/
def SameMemory (s t : State) : Prop :=
  (∀ a, t.rawByte a = s.rawByte a) ∧ (∀ g, sget none t.keyTag g = sget none s.keyTag g)
    ∧ (∀ g, sget false t.poison g = sget false s.poison g)

/-- No line of a die's remote-data cache is dirty: a walk that reads a table as .bp then writes nothing back (R175, R184). -/
def NoDirtyLine (s : State) (d : Nat) : Prop := ∀ l ∈ (s.die d).rdc, l.2.dirty = 0

/-- Every byte of global memory reads as before. -/
def SameBytes (s t : State) : Prop := ∀ a, t.rawByte a = s.rawByte a

/-- exec answers a next state, and that state is as said. -/
def Leads (i : Instr) (s : State) (holds : State → Prop) : Prop := ∃ t, exec i s = .next t ∧ holds t

/-- Nothing but the cores has changed. -/
def OnlyCores (s t : State) : Prop := { t with cores := s.cores } = s

/-- Nothing but the cores and the cells has changed. -/
def OnlyQuads (s t : State) : Prop := { t with cores := s.cores, cells := s.cells } = s

/-! ### The step -/

/-- The device runs its own steps: its boot ROM has started and no reset is asked for, its clock runs, and no act of the outside world is
pending or due. -/
def Undisturbed (s : State) : Prop :=
  resetDue s = false ∧ s.hostAsks = [] ∧ s.inputs = [] ∧ s.clockOn = true ∧ (∀ x ∈ s.later, s.wall < x.1)

/-! ### A slot that runs -/

/-- The instructions of slots A and B whose whole effect is the result of one register or predicate. -/
def computes : Instr → Bool
  | .add _ | .sub _ | .mul _ | .mulh _ | .mulhn _ | .div _ | .divn _ | .rem _ | .remn _ | .andx _ | .orx _
  | .xorx _ | .andn _ | .shl _ | .shr _ | .sra _ | .rot _ | .clz _ | .ctz _ | .popc _ | .min _ | .max _
  | .minn _ | .maxn _ | .ext _ | .extn _ | .ins _ | .sel _ | .pcmp _ | .plog _ | .xtop _ | .ptox _
  | .addi _ | .andi _ | .ori _ | .xori _ | .shli _ | .shri _ | .srai _ | .roti _ | .lea _ | .pcmpiEq _
  | .pcmpiNe _ | .pcmpiLt _ | .pcmpiLe _ | .pcmpiGt _ | .pcmpiGe _ | .pcmpiLtn _ | .pcmpiLen _
  | .pcmpiGtn _ | .pcmpiGen _ | .li _ | .lih _ | .fadd _ | .fsub _ | .fmul _ | .ffma _ | .fdiv _ | .fsqrt _
  | .fmin _ | .fmax _ | .fcmp _ | .fcvt _ => true
  | _ => false

/-- The encoding raises no ILL: a comparison code below 10 (R322), a floating-point type but 3 (R325), no reserved rounding mode
(R208), no conversion 7 (R328). -/
def encodingOk : Instr → Bool
  | .pcmp f => decide (f.fn.toNat % 16 < 10)
  | .fadd f | .fsub f | .fmul f | .ffma f | .fdiv f | .fsqrt f => fpType f != 3 && decide (nfield f.fn 0 3 < 6)
  | .fmin f | .fmax f | .fcmp f => fpType f != 3
  | .fcvt f => fpType f != 3 && decide (nfield f.fn 0 3 < 6) && nfield f.fn 5 3 != 7
  | _ => true

/-- The checks that every slot shares pass: no rule of an open span forbids the instruction, and under sr.erc no register it
reads is still to be written (R172, R225). live says whether its operands count beside its guard. -/
def admitted (s : State) (i : Instr) (live : Bool) : Bool :=
  (spanCheck (s.core s.cur) i live).isNone &&
    !((s.core s.cur).arch.erc &&
      (RegRef.p (guardReg i).1.toNat :: (if live then operandReads i else [])).any (notWritten s s.cur))

/-- A slot with a scalar guard runs: the shared checks pass and the guard is true (R299). -/
def Runs (s : State) (i : Instr) : Prop := admitted s i true = true ∧ liveGuard s i = true

/-- The registers of the core whose slot is under execution. -/
def regs (s : State) : Arch := (s.core s.cur).arch

/-- What a slot leaves that writes one scalar register: the result is under way with its latency (R313), an open span remembers
the register (R225), and the next slot follows. -/
def scalarResult (s : State) (i : Instr) (lat : Nat) (d : BitVec 6) (v : Word) : State :=
  nextSlot (writeX (noteWrite s s.cur i) s.cur lat d.toNat v) s.cur

/-- What a slot leaves that writes the bits of a mask of one predicate. -/
def predResult (s : State) (d : BitVec 6) (v mask : Pred) : State :=
  nextSlot (writeP s s.cur 1 (predNo d) v mask) s.cur

/-- What a scalar floating-point slot leaves: its draw is counted, then as an integer result (R468). -/
def floatResult (s : State) (i : Instr) (lat : Nat) (d : BitVec 6) (v : Nat) : State :=
  nextSlot (writeX (advanceDraw (noteWrite s s.cur i) s.cur i) s.cur lat d.toNat (BitVec.ofNat 64 v)) s.cur

/-- What a control slot leaves that changes the core under execution. -/
def coreResult (s : State) (f : CoreSt → CoreSt) : State := nextSlot (s.modCore s.cur f) s.cur

/-- Nothing of the core belongs to a span, a walk or a handler. -/
def Plain (s : State) : Prop :=
  (s.core s.cur).spanNow = none ∧ (regs s).walking = false ∧ (s.core s.cur).rev = none ∧ (regs s).erc = false

/-- The slots that translate global addresses when they issue (R174). -/
def translates : Instr → Bool
  | .ldb _ | .ldbn _ | .ldh _ | .ldhn _ | .ldw _ | .ldwn _ | .ldd _ | .stb _ | .sth _ | .stw _ | .std _
  | .ldbAcq _ | .ldbnAcq _ | .ldhAcq _ | .ldhnAcq _ | .ldwAcq _ | .ldwnAcq _ | .lddAcq _ | .stbRel _
  | .sthRel _ | .stwRel _ | .stdRel _ | .amo _ | .cas _ | .red _ | .waita _ | .cinv _ | .cwbi _ | .pfr _
  | .coll _ | .shpin _ | .shrel _ | .nnq _ | .ovl _ | .sftab _ => true
  | _ => false

/-- The conditions of R322 by their code. -/
def condition (cond : Nat) (a b : Word) : Bool :=
  match cond with
  | 0 => decide (a = b)
  | 1 => decide (a ≠ b)
  | 2 => decide (a.toInt < b.toInt)
  | 3 => decide (a.toInt ≤ b.toInt)
  | 4 => decide (b.toInt < a.toInt)
  | 5 => decide (b.toInt ≤ a.toInt)
  | 6 => decide (a.toNat < b.toNat)
  | 7 => decide (a.toNat ≤ b.toNat)
  | 8 => decide (b.toNat < a.toNat)
  | 9 => decide (b.toNat ≤ a.toNat)
  | _ => false

/-- The numbers of R340. -/
def registerNumber (n : Nat) : Bool :=
  decide (n ≤ 0x0B) || (decide (0x10 ≤ n) && decide (n ≤ 0x17)) || (decide (0x20 ≤ n) && decide (n ≤ 0x27))
    || (decide (0xC0 ≤ n) && decide (n ≤ 0xD0)) || n == 0xE0 || n == 0xE4

/-- An instruction with a scalar guard that enters no cell queue (R299). -/
def guarded (i : Instr) : Bool :=
  (computes i && (match i with | .li _ | .lih _ => false | _ => true)) ||
  (match i with
  | .ldb _ | .ldbn _ | .ldh _ | .ldhn _ | .ldw _ | .ldwn _ | .ldd _ | .stb _ | .sth _ | .stw _ | .std _
  | .ldbAcq _ | .ldbnAcq _ | .ldhAcq _ | .ldhnAcq _ | .ldwAcq _ | .ldwnAcq _ | .lddAcq _ | .stbRel _
  | .sthRel _ | .stwRel _ | .stdRel _ | .amo _ | .cas _ | .red _ | .fenceAcq _ | .fenceRel _ | .fenceFull _
  | .fenceRed _ | .fenceEng _ | .waita _ | .cwb _ | .cinv _ | .cwbi _ | .pfr _
  | .br _ | .brl _ | .jr _ | .jrl _ | .loop _ | .loopx _ | .idle _ | .seg _ | .rgn _ | .tend _ | .isync _
  | .sysr _ | .sysw _ | .tret _
  | .sftab _ | .span _ | .coll _ | .shpin _ | .shrel _ | .nnq _ | .tspawn _ | .natm _ | .ovl _ | .pparm _ => true
  | _ => false)

/-- The encoding of such an instruction raises ILL: codes of R208, R322, R325, R328, a loop of count or offset 0 (R330), a number
absent from R340, reserved fields of R348, R354, R355, R359 and R361. -/
def guardedIll : Instr → Bool
  | .loop f => f.imm == 0 || f.a == 0
  | .loopx f => f.imm.toNat % 2048 == 0
  | .sysr f | .sysw f => !(registerNumber (f.imm.toNat % 4096))
  | .ldbAcq f | .ldbnAcq f | .ldhAcq f | .ldhnAcq f | .ldwAcq f | .ldwnAcq f | .lddAcq f | .stbRel f
  | .sthRel f | .stwRel f | .stdRel f => decide (2 ≤ nfield f.fn 0 2) || nfield f.fn 2 2 == 3
  | .amo f => nfield f.fn 0 4 == 7 || decide (11 ≤ nfield f.fn 0 4) || nfield f.fn 6 2 == 3
  | .red f => nfield f.fn 0 4 == 6 || nfield f.fn 0 4 == 7 || decide (11 ≤ nfield f.fn 0 4)
  | .cas f => nfield f.fn 6 2 == 3
  | .fenceAcq f | .fenceRel f | .fenceFull f | .fenceRed f | .fenceEng f => nfield f.fn 4 2 == 3
  | .waita f => decide (5 ≤ nfield f.fn 0 3) || nfield f.fn 4 2 == 3
  | i => !(encodingOk i)

/-! ### Commands of cells -/

/-- The command a request puts into each queue outside a span. -/
def commandOf (s : State) (r : CellReq) : Cmd := makeCmd (s.core s.cur) s.pcc (s.lead s.cur) r 0 0 0

/-- The state in which a command stands at the end of a queue of each cell of a list, and the counts of ports and format words
have been taken. -/
def queued (s : State) (r : CellReq) (js : List Nat) : State :=
  js.foldl (fun t j => (t.modCell s.cur j fun x => enqueue x r.queue (commandOf s r)).modArch s.cur fun a => takeCounts a r j) s

/-- A request finds port entries, format words and room in every queue it enters (R151, R165, R166). -/
def hasRoom (s : State) (r : CellReq) : Bool :=
  ((cellsOf r.cm).findSome? (countTrap (regs s) r)).isNone &&
    ((s.core s.cur).interlocked || !((cellsOf r.cm).any fun j => decide (16 ≤ ((s.cell s.cur j).queueOf r.queue).length)))

end Sys2Proof.Safety
end

