-- ==== Sys2Proof/Certificates/Slice0/Obligations.lean ====
section
/-! DEFINITION. The statements for the provers. -/

open Sys2Proof Sys2Proof.Machine Sys2Proof.Safety

/-! ### Encoding -/

/-- Every instruction that may stand in a slot is what the decoder reads from its encoding: no bit of an operand is dropped (R286 to
R293, R303 to R307). -/
def Obligations.SlotRoundTrip : Prop :=
  ∀ (k : SlotKind) (i : Instr), wfSlot k i = true → ∃ w, encode i = some w ∧ w.toNat < 2 ^ slotWidth k ∧ decodeSlot k w = i

/-- Every word of a slot that is no NOP and no hint is the encoding of what it decodes to, which is well formed; NOP and the hints
ignore the bits beyond the opcode (R303, R308). -/
def Obligations.WordRoundTrip : Prop :=
  ∀ (k : SlotKind) (w : BitVec 48), w.toNat < 2 ^ slotWidth k →
    wfSlot k (decodeSlot k w) = true ∧
    (if slotOp w = 0 then decodeSlot k w = .nop
     else if 0xF0 ≤ slotOp w then decodeSlot k w = .hint (w.extractLsb' 0 4)
     else encode (decodeSlot k w) = some w)

/-- The words of the spec's worked examples: the loop of chapter 13 (0x00_0030_8084), ADD x5, x5, x9 (0x00_0091_4501) and VADD.f32
v1, v2, q0 under p2 (0x0140_0040_1F10) of chapter 12, and an unassigned opcode. -/
def Obligations.DecodedWords : Prop :=
  decodeSlot .a 0x0000308084 = .loop { ng := 0, pg := 0, imm := 3, a := 2, d := 0 } ∧
  decodeSlot .a 0x0000914501 = .add { fn := 0, ng := 0, pg := 0, b := 9, a := 5, d := 5 } ∧
  decodeSlot .b 0x0000914501 = .add { fn := 0, ng := 0, pg := 0, b := 9, a := 5, d := 5 } ∧
  decodeSlot .v 0x014000401F10 = .vadd 0 { ty := 0, ng := 0, pg := 2, b := 256, a := 2, d := 1, cm := 0xF } ∧
  decodeSlot .a 0x0000308040 = .unassignedOpcode 0x0000308040 ∧
  decodeSlot .b 0x0000308084 = .unassignedOpcode 0x0000308084

/-! ### The step -/

/-- A step runs the decoded slot: a core inside a bundle goes on with the slot it is at; a core that issues notes its registers and
runs slot A of the bundle at its pc (R286, R309); outside a bundle a step that is due at the present cycle comes first. What else
comes about between steps is pump's part.
An act of the outside world on units that exist runs as the next step, the first that an exploration does not keep back (R37); one that
names a unit the device does not have does nothing (DESIGN CHOICE, log 58), and in the recovery state the registers of BAR0 beyond the
boot registers act on nothing (R41). -/
def Obligations.StepRunsDecoded : Prop :=
  (∀ (s : State), Undisturbed s → ∀ q,
     (midCore (pump s) = some q →
       step s = exec (decodeSlot (slotAt ((pump s).core q).slot)
           (bundleSlot (slotAt ((pump s).core q).slot) (((pump s).core q).bundleAt ((pump s).core q).arch.pc)))
         { pump s with cur := q }) ∧
     (midCore (pump s) = none → dueAct (pump s) = none → issueCore (pump s) = some q →
       ((pump s).core q).stopsHere = false → breaksHere ((pump s).core q) = false →
       step s = exec (decodeSlot (slotAt ((prepare (pump s) q).core q).slot)
           (bundleSlot (slotAt ((prepare (pump s) q).core q).slot)
             (((prepare (pump s) q).core q).bundleAt ((prepare (pump s) q).core q).arch.pc)))
         { prepare (pump s) q with cur := q }) ∧
     (∀ (i : Instr) (x : EvArg), midCore (pump s) = none → dueAct (pump s) = some (i, x) → i ≠ .exploreProbe → i ≠ .exploreReport →
       step s = exec i { pump s with arg := x })) ∧
  (∀ (s : State), resetDue s = false → s.hostAsks = [] → ∀ (i : Instr) (x : EvArg) (r : List (Instr × EvArg)),
     firstInput s.explRunning s.inputs = some ((i, x), r) →
     (wfEvent x i = true → ¬ (s.bootState = 3 ∧ hidden i x = true) → step s = exec i { s with inputs := r, arg := x }) ∧
     (wfEvent x i = true → s.bootState = 3 → hidden i x = true → step s = .next { s with inputs := r }) ∧
     (wfEvent x i = false → step s = .next { s with inputs := r }))

/-- A bundle placed for the first step runs at once: whatever the word, the step after reset is the meaning of the first slot of it
that is no NOP. -/
def Obligations.FetchedWord : Prop :=
  ∀ (n w : Nat), ∃ i, decodeTableWord n w = some i ∧
    ((State.reset.withFetchWord n w).core 0).curBundle = BitVec.ofNat 256 w ∧
    step (State.reset.withFetchWord n w) = exec i (State.reset.withFetchWord n w)

/-- The machine never refuses and never stops with a fault: every instruction of every program runs, and every act of the outside
world is answered, one that names a unit the device does not have by being passed over (DESIGN CHOICE, log 58). -/
def Obligations.NeverStops : Prop := ∀ (s : State), ∃ t, step s = .next t

/-! ### Reset -/

/-- Right after reset: the part boots with PCC 0 (R19), every launch slot is free and no key is valid; every stream core stands with
the reset values of R234, R272, R281, R340 and R468: time base 0, sr.erc and sr.lchk 0, no trap vector, no region, loop counters 0,
residual stacks empty; the event selects hold halt_freeze (R46), every request time-out 0x0100_0000 (R26).
The registers a program can name read 0 right after reset: a choice of the model where the spec gives none (DESIGN CHOICE, log 2). Global memory
lists nothing (DESIGN CHOICE, log 1), and all tables are in canonical form. -/
def Obligations.ResetValues : Prop :=
  (State.reset.pcc = 0 ∧ State.reset.bootState = 1 ∧ State.reset.frame = 0 ∧ State.reset.pkgNum = 0xFFFF ∧
   (∀ k, State.reset.keyOf k = none) ∧ (∀ i, (State.reset.entry i).st = .free) ∧
   (∀ d, (State.reset.die d).rto = 0x01000000) ∧
   (∀ q, (State.reset.core q).run = .stopped ∧
     (∀ n, n ≤ 0xE4 → n ≠ 3 → ¬ (0x24 ≤ n ∧ n ≤ 0x27) → sysRead State.reset q n ≠ none → sysRead State.reset q n = some 0) ∧
     (∀ n, 0x24 ≤ n → n ≤ 0x27 → sysRead State.reset q n = some 0x800))) ∧
  (Canonical State.reset ∧ (∀ a, State.reset.rawByte a = 0) ∧
   (∀ q n, (State.reset.core q).arch.rx n = 0) ∧ (∀ q n, 0 < n → (State.reset.core q).arch.rp n = 0))

/-! ### Invariants and frames over all instructions -/

/-- Global memory keeps its canonical form in every step. -/
def Obligations.MemoryStaysCanonical : Prop :=
  ∀ (s t : State), Memory.wf s.mem = true → step s = .next t → Memory.wf t.mem = true

/-- No slot instruction but REV touches global memory, its keys or its poison when it issues, whatever it is and whether it traps or
not: stores, atomics and engine requests act there by later steps of the units that perform them (R149, R349). REV reads residual
records as an engine does, and a slot that translates a global address may walk the page tables; both write a dirty cache line back first
(R175, R184), so the second clause, for such slots, says it where the cache of the walker's die holds no dirty line. -/
def Obligations.SlotsLeaveMemory : Prop :=
  ∀ (k : SlotKind) (i : Instr) (s t : State), wfSlot k i = true → (∀ f, i ≠ .rev f) → exec i s = .next t →
    (translates i = false ∨ NoDirtyLine s (quadDie s.cur)) → SameMemory s t

/-! ### Results and their cycles -/

/-- x0 reads zero and writes to it are discarded; p0 reads all ones and writes to it are discarded; a predicate field ignores
bit 5 (R294).
Results of slots A and B of one bundle that reach one register in one cycle: slot B's stands, whichever was noted first (R309). Of two
bundles whose results reach it in one cycle the younger one's stands: R309 speaks of one bundle only (DESIGN CHOICE, log 71). -/
def Obligations.RegisterWrites : Prop :=
  (∀ (s : State) (q lat : Nat) (a : Arch) (v : Word) (p m : Pred) (f : BitVec 6),
     a.rx 0 = 0 ∧ a.rp 0 = BitVec.allOnes 512 ∧ writeX s q lat 0 v = s ∧ writeP s q lat 0 p m = s ∧ predNo f = (f.extractLsb' 0 5).toNat) ∧
  (∀ (s : State) (q n b1 r1 b2 r2 due : Nat) (v w : Word), r1 < 5 → r2 < 5 → (b1 < b2 ∨ b1 = b2 ∧ r1 < r2) → due ≤ s.pcc →
     (∀ (l : List PendWrite),
       (l = [{ due := due, rank := r1, bid := b1, dst := .x n, val := wide v }, { due := due, rank := r2, bid := b2, dst := .x n, val := wide w }] ∨
        l = [{ due := due, rank := r2, bid := b2, dst := .x n, val := wide w }, { due := due, rank := r1, bid := b1, dst := .x n, val := wide v }]) →
       let t := applyDue (s.modArch q fun a => { a with pend := l }) q
       sget 0 (t.core q).arch.x n = w ∧ (t.core q).arch.pend = []))

/-- A scalar or predicate result is not seen before its cycle and is seen from it on; no other register changes, and no other core
(R171, R313). -/
def Obligations.ResultTiming : Prop :=
  ∀ (s : State) (q lat n : Nat) (v : Word) (p m : Pred), (s.core q).arch.pend = [] → n ≠ 0 →
    (∀ (c : Nat), c < s.pcc + lat → ∀ o r,
      ((applyDue { writeX s q lat n v with pcc := c } q).core o).arch.rx r = (s.core o).arch.rx r ∧
      ((applyDue { writeX s q lat n v with pcc := c } q).core o).arch.rp r = (s.core o).arch.rp r ∧
      ((applyDue { writeP s q lat n p m with pcc := c } q).core o).arch.rx r = (s.core o).arch.rx r ∧
      ((applyDue { writeP s q lat n p m with pcc := c } q).core o).arch.rp r = (s.core o).arch.rp r) ∧
    (∀ (c : Nat), s.pcc + lat ≤ c →
      (∀ r, ((applyDue { writeX s q lat n v with pcc := c } q).core q).arch.rx r = if r = n then v else (s.core q).arch.rx r) ∧
      (∀ r, ((applyDue { writeX s q lat n v with pcc := c } q).core q).arch.rp r = (s.core q).arch.rp r) ∧
      (∀ r, ((applyDue { writeP s q lat n p m with pcc := c } q).core q).arch.rp r =
        if r = n then ((s.core q).arch.rp r &&& ~~~m) ||| (p &&& m) else (s.core q).arch.rp r) ∧
      (∀ r, ((applyDue { writeP s q lat n p m with pcc := c } q).core q).arch.rx r = (s.core q).arch.rx r) ∧
      (∀ o, o ≠ q → (applyDue { writeX s q lat n v with pcc := c } q).core o = s.core o ∧
        (applyDue { writeP s q lat n p m with pcc := c } q).core o = s.core o) ∧
      SameMemory s (applyDue { writeX s q lat n v with pcc := c } q) ∧ SameMemory s (applyDue { writeP s q lat n p m with pcc := c } q))

/-- The frame of the instructions that compute one register or predicate: when such a slot runs in slot A or B, only the core under
execution changes, and of it the slot number, the results under way, and what an open span remembers. Every result goes to the
instruction's destination, or is the advance of sr.sctr by a draw. Scalar registers, predicates, loop counters, special registers,
LDM, cells and every byte of memory stay as they were; the bundle does not end, so the pc stays too. -/
def Obligations.RegisterFrame : Prop :=
  ∀ (s : State) (i : Instr), computes i = true → Runs s i → encodingOk i = true → (s.core s.cur).slot < 2 →
    ∃ (t : State) (new : List PendWrite) (sw : List Nat), exec i s = .next t ∧ OnlyCores s t ∧ SameMemory s t ∧
      (∀ q, q ≠ s.cur → t.core q = s.core q) ∧
      t.core s.cur = { s.core s.cur with
        slot := (s.core s.cur).slot + 1
        arch := { regs s with pend := (regs s).pend ++ new, spanWrites := sw } } ∧
      ((s.core s.cur).spanNow = none → sw = (regs s).spanWrites) ∧
      (∀ w ∈ new, s.pcc < w.due ∧ w.bid = (s.core s.cur).bid ∧
        ((∃ n, w.dst = .x n ∧ destReg i = some (.x n)) ∨ (∃ n m, w.dst = .p n m ∧ destReg i = some (.p n) ∧ n ≠ 0) ∨
          (w.dst = .sys 7 ∧ drawsScalar (regs s) i = true)))

/-! ### Integer instructions (R316 to R324) -/

/-- The register instructions of R316 without the divisions: the value of each, written with the latency of R313. -/
def Obligations.RegisterArithmetic : Prop :=
  ∀ (s : State) (f : SR),
    let a := (regs s).rx f.a.toNat
    let b := (regs s).rx f.b.toNat
    let n := b.toNat % 64
    (Runs s (.add f) → exec (.add f) s = .next (scalarResult s (.add f) 1 f.d (a + b))) ∧
    (Runs s (.sub f) → exec (.sub f) s = .next (scalarResult s (.sub f) 1 f.d (a - b))) ∧
    (Runs s (.mul f) → exec (.mul f) s = .next (scalarResult s (.mul f) 3 f.d (a * b))) ∧
    (Runs s (.mulh f) → exec (.mulh f) s =
      .next (scalarResult s (.mulh f) 3 f.d ((a.signExtend 128 * b.signExtend 128).extractLsb' 64 64))) ∧
    (Runs s (.mulhn f) → exec (.mulhn f) s =
      .next (scalarResult s (.mulhn f) 3 f.d ((a.setWidth 128 * b.setWidth 128).extractLsb' 64 64))) ∧
    (Runs s (.andx f) → exec (.andx f) s = .next (scalarResult s (.andx f) 1 f.d (a &&& b))) ∧
    (Runs s (.orx f) → exec (.orx f) s = .next (scalarResult s (.orx f) 1 f.d (a ||| b))) ∧
    (Runs s (.xorx f) → exec (.xorx f) s = .next (scalarResult s (.xorx f) 1 f.d (a ^^^ b))) ∧
    (Runs s (.andn f) → exec (.andn f) s = .next (scalarResult s (.andn f) 1 f.d (a &&& ~~~b))) ∧
    (Runs s (.shl f) → exec (.shl f) s = .next (scalarResult s (.shl f) 1 f.d (a <<< n))) ∧
    (Runs s (.shr f) → exec (.shr f) s = .next (scalarResult s (.shr f) 1 f.d (a >>> n))) ∧
    (Runs s (.sra f) → exec (.sra f) s = .next (scalarResult s (.sra f) 1 f.d (a.sshiftRight n))) ∧
    (Runs s (.rot f) → exec (.rot f) s = .next (scalarResult s (.rot f) 1 f.d ((a <<< n) ||| (a >>> (64 - n))))) ∧
    (Runs s (.min f) → exec (.min f) s = .next (scalarResult s (.min f) 1 f.d (if a.toInt ≤ b.toInt then a else b))) ∧
    (Runs s (.max f) → exec (.max f) s = .next (scalarResult s (.max f) 1 f.d (if a.toInt ≤ b.toInt then b else a))) ∧
    (Runs s (.minn f) → exec (.minn f) s = .next (scalarResult s (.minn f) 1 f.d (if a.toNat ≤ b.toNat then a else b))) ∧
    (Runs s (.maxn f) → exec (.maxn f) s = .next (scalarResult s (.maxn f) 1 f.d (if a.toNat ≤ b.toNat then b else a))) ∧
    (Runs s (.clz f) → exec (.clz f) s = .next (scalarResult s (.clz f) 1 f.d
      (BitVec.ofNat 64 ((List.range 64).takeWhile fun j => !(a.getMsbD j)).length))) ∧
    (Runs s (.ctz f) → exec (.ctz f) s = .next (scalarResult s (.ctz f) 1 f.d
      (BitVec.ofNat 64 ((List.range 64).takeWhile fun j => !(a.getLsbD j)).length))) ∧
    (Runs s (.popc f) → exec (.popc f) s = .next (scalarResult s (.popc f) 1 f.d
      (BitVec.ofNat 64 ((List.range 64).countP fun j => a.getLsbD j))))

/-- R317: the four divisions, for every input; none traps. -/
def Obligations.Division : Prop :=
  ∀ (s : State) (f : SR),
    let a := (regs s).rx f.a.toNat
    let b := (regs s).rx f.b.toNat
    (Runs s (.div f) → exec (.div f) s = .next (scalarResult s (.div f) 18 f.d
      (if b = 0 then 0xFFFFFFFFFFFFFFFF
       else if a = 0x8000000000000000 ∧ b = 0xFFFFFFFFFFFFFFFF then 0x8000000000000000
       else BitVec.ofInt 64 (a.toInt.tdiv b.toInt)))) ∧
    (Runs s (.rem f) → exec (.rem f) s = .next (scalarResult s (.rem f) 18 f.d
      (if b = 0 then a
       else if a = 0x8000000000000000 ∧ b = 0xFFFFFFFFFFFFFFFF then 0
       else BitVec.ofInt 64 (a.toInt - b.toInt * a.toInt.tdiv b.toInt)))) ∧
    (Runs s (.divn f) → exec (.divn f) s = .next (scalarResult s (.divn f) 18 f.d
      (if b = 0 then BitVec.ofNat 64 (2 ^ 64 - 1) else BitVec.ofNat 64 (a.toNat / b.toNat)))) ∧
    (Runs s (.remn f) → exec (.remn f) s = .next (scalarResult s (.remn f) 18 f.d
      (if b = 0 then a else BitVec.ofNat 64 (a.toNat % b.toNat))))

/-- R318: EXT, EXTN and INS take their position from the b field and their width from fn[5:0]. -/
def Obligations.BitFields : Prop :=
  ∀ (s : State) (f : SR),
    let a := (regs s).rx f.a.toNat
    let d := (regs s).rx f.d.toNat
    let pos := f.b.toNat
    let w := min (f.fn.toNat % 64 + 1) (64 - pos)
    let ones : Word := BitVec.ofNat 64 (2 ^ w - 1)
    (Runs s (.ext f) → exec (.ext f) s = .next (scalarResult s (.ext f) 1 f.d ((a.extractLsb' pos w).signExtend 64))) ∧
    (Runs s (.extn f) → exec (.extn f) s = .next (scalarResult s (.extn f) 1 f.d ((a >>> pos) &&& ones))) ∧
    (Runs s (.ins f) → exec (.ins f) s =
      .next (scalarResult s (.ins f) 1 f.d ((d &&& ~~~(ones <<< pos)) ||| ((a &&& ones) <<< pos))))

/-- R319: SEL takes x(a) where bit 0 of p(fn[4:0]), inverted by fn[5], is 1, and x(b) otherwise.
R323: PLOG writes t[2 a_j + b_j] to every bit j.
R324: XTOP writes x(a) to chunk k of p(d), or to every chunk; PTOX reads chunk k of p(a). -/
def Obligations.SelectAndPredicates : Prop :=
  (∀ (s : State) (f : SR), Runs s (.sel f) →
     exec (.sel f) s = .next (scalarResult s (.sel f) 1 f.d
       (if ((regs s).rp (f.fn.extractLsb' 0 5).toNat).getLsbD 0 ^^ f.fn.getLsbD 5 then (regs s).rx f.a.toNat
        else (regs s).rx f.b.toNat))) ∧
  (∀ (s : State) (f : SR), Runs s (.plog f) →
     ∃ v, exec (.plog f) s = .next (predResult s f.d v (BitVec.allOnes 512)) ∧
       ∀ j, j < 512 → v.getLsbD j =
         f.fn.getLsbD (2 * (((regs s).rp (f.a.toNat % 32)).getLsbD j).toNat + (((regs s).rp (f.b.toNat % 32)).getLsbD j).toNat)) ∧
  (∀ (s : State) (f : SR),
     let k := (f.fn.extractLsb' 0 3).toNat
     (Runs s (.xtop f) → ∃ v m, exec (.xtop f) s = .next (predResult s f.d v m) ∧
       ∀ j, j < 512 → m.getLsbD j = (f.fn.getLsbD 3 || decide (j / 64 = k)) ∧
         (m.getLsbD j = true → v.getLsbD j = ((regs s).rx f.a.toNat).getLsbD (j % 64))) ∧
     (Runs s (.ptox f) → exec (.ptox f) s =
       .next (scalarResult s (.ptox f) 1 f.d (((regs s).rp (f.a.toNat % 32)).extractLsb' (64 * k) 64))))

/-- R320: the instructions with an immediate, which is sign-extended (R314); shifts take its low six bits.
R321: LI and LIH take no guard. LIH over the low half that LI leaves is any signed value of 52 bits; in the bundle of the LI it
reads d from before it. -/
def Obligations.Immediates : Prop :=
  (∀ (s : State) (f : SI),
     let a := (regs s).rx f.a.toNat
     let m : Word := f.imm.signExtend 64
     let n := (f.imm.extractLsb' 0 6).toNat
     (Runs s (.addi f) → exec (.addi f) s = .next (scalarResult s (.addi f) 1 f.d (a + m))) ∧
     (Runs s (.andi f) → exec (.andi f) s = .next (scalarResult s (.andi f) 1 f.d (a &&& m))) ∧
     (Runs s (.ori f) → exec (.ori f) s = .next (scalarResult s (.ori f) 1 f.d (a ||| m))) ∧
     (Runs s (.xori f) → exec (.xori f) s = .next (scalarResult s (.xori f) 1 f.d (a ^^^ m))) ∧
     (Runs s (.shli f) → exec (.shli f) s = .next (scalarResult s (.shli f) 1 f.d (a <<< n))) ∧
     (Runs s (.shri f) → exec (.shri f) s = .next (scalarResult s (.shri f) 1 f.d (a >>> n))) ∧
     (Runs s (.srai f) → exec (.srai f) s = .next (scalarResult s (.srai f) 1 f.d (a.sshiftRight n))) ∧
     (Runs s (.roti f) → exec (.roti f) s = .next (scalarResult s (.roti f) 1 f.d ((a <<< n) ||| (a >>> (64 - n))))) ∧
     (Runs s (.lea f) → exec (.lea f) s = .next (scalarResult s (.lea f) 1 f.d (a + 64 * m)))) ∧
  (∀ (s : State) (f : SL),
     (admitted s (.li f) true = true → exec (.li f) s = .next (scalarResult s (.li f) 1 f.d (f.imm.signExtend 64))) ∧
     (admitted s (.lih f) true = true → exec (.lih f) s =
       .next (scalarResult s (.lih f) 1 f.d ((f.imm.signExtend 64 <<< 26) ||| ((regs s).rx f.d.toNat &&& 0x3FFFFFF)))) ∧
     (∀ lo : BitVec 26, (f.imm.signExtend 64 <<< 26) ||| (lo.signExtend 64 &&& 0x3FFFFFF) = (f.imm ++ lo : BitVec (26 + 26)).signExtend 64) ∧
     (∀ v n, (s.core s.cur).slot < 4 → (regs (scalarResult s (.li f) 1 f.d v)).rx n = (regs s).rx n))

/-- R322: PCMP and PCMPI write the result of their condition to all 512 bits; PCMP codes 10 to 15 raise ILL whatever the guard. -/
def Obligations.Comparisons : Prop :=
  (∀ (s : State) (f : SR),
    let a := (regs s).rx f.a.toNat
    let b := (regs s).rx f.b.toNat
    let c := f.fn.toNat % 16
    (c < 10 → Runs s (.pcmp f) → exec (.pcmp f) s = .next (predResult s f.d (predOf (condition c a b)) (BitVec.allOnes 512))) ∧
    (10 ≤ c → exec (.pcmp f) s = .next (illTrap s s.cur))) ∧
  (∀ (s : State) (f : SI),
    let a := (regs s).rx f.a.toNat
    let m : Word := f.imm.signExtend 64
    let n : Word := f.imm.setWidth 64
    let all := BitVec.allOnes 512
    (Runs s (.pcmpiEq f) → exec (.pcmpiEq f) s = .next (predResult s f.d (predOf (condition 0 a m)) all)) ∧
    (Runs s (.pcmpiNe f) → exec (.pcmpiNe f) s = .next (predResult s f.d (predOf (condition 1 a m)) all)) ∧
    (Runs s (.pcmpiLt f) → exec (.pcmpiLt f) s = .next (predResult s f.d (predOf (condition 2 a m)) all)) ∧
    (Runs s (.pcmpiLe f) → exec (.pcmpiLe f) s = .next (predResult s f.d (predOf (condition 3 a m)) all)) ∧
    (Runs s (.pcmpiGt f) → exec (.pcmpiGt f) s = .next (predResult s f.d (predOf (condition 4 a m)) all)) ∧
    (Runs s (.pcmpiGe f) → exec (.pcmpiGe f) s = .next (predResult s f.d (predOf (condition 5 a m)) all)) ∧
    (Runs s (.pcmpiLtn f) → exec (.pcmpiLtn f) s = .next (predResult s f.d (predOf (condition 6 a n)) all)) ∧
    (Runs s (.pcmpiLen f) → exec (.pcmpiLen f) s = .next (predResult s f.d (predOf (condition 7 a n)) all)) ∧
    (Runs s (.pcmpiGtn f) → exec (.pcmpiGtn f) s = .next (predResult s f.d (predOf (condition 8 a n)) all)) ∧
    (Runs s (.pcmpiGen f) → exec (.pcmpiGen f) s = .next (predResult s f.d (predOf (condition 9 a n)) all)))

/-! ### Scalar floating point (R325 to R328, R468) -/

/-- The scalar floating-point instructions write the result of their operation on the low bits of their sources, rounded once by the
mode of fn[2:0] with the scalar draw; operand type 3, and a reserved mode of one that rounds, raise ILL.
R326: infinities, zeros and signs of division and square root, and the sum of opposite zeros in f32. -/
def Obligations.ScalarFloat : Prop :=
  (∀ (s : State) (f : SR),
     let t := tyFmt (fpType f)
     let m := rmode (nfield f.fn 0 3)
     let u := scalarDraw (s.core s.cur)
     let a := fpSource f ((regs s).rx f.a.toNat)
     let b := fpSource f ((regs s).rx f.b.toNat)
     let d := fpSource f ((regs s).rx f.d.toNat)
     let run (i : Instr) (lat v : Nat) : Prop :=
       (encodingOk i = true → Runs s i → exec i s = .next (floatResult s i lat f.d v)) ∧
         (encodingOk i = false → exec i s = .next (illTrap s s.cur))
     run (.fadd f) 4 (t.add m u a b) ∧ run (.fsub f) 4 (t.sub m u a b) ∧ run (.fmul f) 4 (t.mul m u a b) ∧
     run (.ffma f) 4 (t.fma m u a b d false) ∧ run (.fdiv f) 18 (t.div m u a b) ∧ run (.fsqrt f) 18 (t.sqrt m u a) ∧
     run (.fmin f) 1 (t.minMax false a b) ∧ run (.fmax f) 1 (t.minMax true a b) ∧
     run (.fcvt f) 4 (fcvtValue f ((regs s).rx f.a.toNat) m u) ∧
     (encodingOk (.fcmp f) = true → Runs s (.fcmp f) → exec (.fcmp f) s =
       .next (predResult s f.d (predOf (t.cmp (nfield f.fn 5 3) a b)) (BitVec.allOnes 512))) ∧
     (encodingOk (.fcmp f) = false → exec (.fcmp f) s = .next (illTrap s s.cur))) ∧
  (∀ (m : RMode) (u : Nat), u < 2 ^ 16 →
     Fmt.f32.div m u 0x3F800000 0 = 0x7F800000 ∧ Fmt.f32.div m u 0xBF800000 0 = 0xFF800000 ∧
     Fmt.f32.div m u 0 0 = 0x7FC00000 ∧ Fmt.f32.div m u 0x7F800000 0xFF800000 = 0x7FC00000 ∧
     Fmt.f32.sqrt m u 0x80000000 = 0x80000000 ∧ Fmt.f32.sqrt m u 0xBF800000 = 0x7FC00000 ∧
     Fmt.f32.sqrt m u 0x40800000 = 0x40000000 ∧ Fmt.f32.add m u 0x3F800000 0x3F800000 = 0x40000000 ∧
     Fmt.f32.mul m u 0xC0000000 0x40400000 = 0xC0C00000 ∧
     (let zero : Nat := if m = .rdn then 0x80000000 else 0
      Fmt.f32.add m u 0 0x80000000 = zero ∧ Fmt.f32.add m u 0x80000000 0 = zero ∧ Fmt.f32.add m u 0x3F800000 0xBF800000 = zero ∧
      Fmt.f32.sub m u 0x40400000 0x40400000 = zero ∧ Fmt.f32.add m u 0x80000000 0x80000000 = 0x80000000))

/-- Every code of a floating-point format but a NaN stands for a value that rounds to that code again, in every mode and whether
or not the conversion saturates (R201 to R203, R209): decoding and rounding agree on all finite values, zeros and infinities. -/
def Obligations.FloatCodesRoundTrip : Prop :=
  ∀ (f : Fmt), f ∈ [Fmt.f32, .bf16, .f16, .e5m2, .e4m3, .e2m1] → ∀ (m : RMode) (sat : Bool) (c u : Nat), c < 2 ^ f.width → u < 2 ^ 16 →
    (f.decode c).isNaN = false → (f.ofVal m sat (f.decode c) u).1 = c

/-! ### Guards, NOP and unassigned opcodes (R299, R303, R308) -/

/-- R299: an instruction of format S.R, S.I or E.R that enters no cell queue reads bit 0 of p(pg) XOR ng at issue; with a false
guard it is quashed: the next slot follows and nothing else happens. The only other thing it can do is raise ILL for its
encoding, whatever the guard, or fail the span checks (R225, R302). -/
def Obligations.QuashedSlots : Prop :=
  ∀ (s : State) (i : Instr), guarded i = true →
    (liveGuard s i = (((regs s).rp (guardReg i).1.toNat).getLsbD 0 ^^ ((guardReg i).2 == 1))) ∧
    (guardedIll i = true → exec i s = .next (illTrap s s.cur)) ∧
    (guardedIll i = false → liveGuard s i = false → (regs s).walking = false → admitted s i false = true →
      exec i s = .next (nextSlot s s.cur)) ∧
    (guardedIll i = false → ∀ n, spanCheck (s.core s.cur) i (liveGuard s i) = some n → (regs s).walking = false →
      exec i s = .next (spanFault s s.cur n 0))

/-- R303, R308: NOP and the hints do nothing but let the next slot follow, hint 0 beside its entry in the debug trace; an unassigned
opcode raises ILL. -/
def Obligations.NopAndHints : Prop :=
  ∀ (s : State) (n : BitVec 4) (w : BitVec 48),
    (admitted s .nop true = true → exec .nop s = .next (nextSlot s s.cur)) ∧
    (admitted s (.hint n) true = true → n ≠ 0 → exec (.hint n) s = .next (nextSlot s s.cur)) ∧
    (admitted s (.hint 0) true = true → exec (.hint 0) s =
      .next (coreResult s fun c => { c with trace := c.trace ++ [(c.arch.pc, s.pcc)] })) ∧
    exec (.unassignedOpcode w) s = .next (illTrap s s.cur)

/-! ### Control (R329 to R344) -/

/-- R329: the branch instructions, the link they write, and the cost of a taken branch. -/
def Obligations.Branches : Prop :=
  ∀ (s : State),
    let n := (regs s).pc
    let takes (g : Nat) : State := s.modCore s.cur fun c => { c with taken := some g }
    let link (d : BitVec 6) (g : Nat) : State := nextSlot (writeX (takes g) s.cur 1 d.toNat (BitVec.ofNat 64 ((n + 1) % 2048))) s.cur
    let falls (i : Instr) : Prop := admitted s i false = true → liveGuard s i = false → exec i s = .next (nextSlot s s.cur)
    (∀ f : SI, let g := (n + f.imm.toNat) % 2048
      (Runs s (.br f) → exec (.br f) s = .next (nextSlot (takes g) s.cur)) ∧
      (Runs s (.brl f) → exec (.brl f) s = .next (link f.d g)) ∧ falls (.br f) ∧ falls (.brl f)) ∧
    (∀ f : SR, let g := (((regs s).rx f.a.toNat).extractLsb' 0 11).toNat
      (Runs s (.jr f) → exec (.jr f) s = .next (nextSlot (takes g) s.cur)) ∧
      (Runs s (.jrl f) → exec (.jrl f) s = .next (link f.d g)) ∧ falls (.jr f) ∧ falls (.jrl f)) ∧
    (∀ (c : CoreSt) (pcc g : Nat), c.taken = some g → c.keyBase = none →
      (endBundle c pcc).issueAt = max (pcc + 1 + 2 + c.idleAdd) c.issueAt)

/-- R331: what LOOP and LOOPX set, with their count and last-bundle offset of R330; a quashed one changes no counter. -/
def Obligations.LoopOpen : Prop :=
  ∀ (s : State),
    let c := s.core s.cur
    let opens (i : Instr) (n m o : Nat) : Prop :=
      Runs s i → c.slot = 0 → c.arch.pc < 2048 → ∃ t, exec i s = .next t ∧ OnlyCores s t ∧ (∀ q, q ≠ s.cur → t.core q = s.core q) ∧
        (let u := t.core s.cur
         u = { c with slot := 1, taken := u.taken, arch := { c.arch with lc := u.arch.lc, spanLoops := u.arch.spanLoops } } ∧
         (∀ k, k ≠ n → sget LoopCtr.zero u.arch.lc k = sget LoopCtr.zero c.arch.lc k) ∧
         (let l := sget LoopCtr.zero u.arch.lc n
          l.first.toNat = (c.arch.pc + 1) % 2048 ∧ l.last.toNat = (c.arch.pc + o) % 2048 ∧
          (m = 0 → l.active = false ∧ u.taken = some ((c.arch.pc + o + 1) % 2048)) ∧
          (m ≠ 0 → l.active = true ∧ l.value.toNat = m - 1 ∧ u.taken = c.taken)))
    (∀ f : SI, (f.imm ≠ 0 → f.a ≠ 0 → opens (.loop f) (f.d.extractLsb' 0 2).toNat f.imm.toNat f.a.toNat) ∧
      (f.imm = 0 ∨ f.a = 0 → exec (.loop f) s = .next (illTrap s s.cur))) ∧
    (∀ f : SI, let o := (f.imm.extractLsb' 0 11).toNat
      (o ≠ 0 → opens (.loopx f) (f.d.extractLsb' 0 2).toNat (((regs s).rx f.a.toNat).extractLsb' 0 32).toNat o) ∧
      (o = 0 → exec (.loopx f) s = .next (illTrap s s.cur))) ∧
    (∀ f : SI, f.imm ≠ 0 → f.a ≠ 0 → admitted s (.loop f) false = true → liveGuard s (.loop f) = false →
      exec (.loop f) s = .next (nextSlot s s.cur)) ∧
    (∀ f : SI, f.imm.toNat % 2048 ≠ 0 → admitted s (.loopx f) false = true → liveGuard s (.loopx f) = false →
      exec (.loopx f) s = .next (nextSlot s s.cur))

/-- R332: the choice of the next bundle at the end of a bundle: a taken branch leaves the counters, a back edge of the lowest counter
that is not at zero, exits below it, else the bundle that follows; TEND ends issue without a test. -/
def Obligations.LoopTest : Prop :=
  ∀ (c : CoreSt) (pcc : Nat),
    let e := c.arch.pc
    let u := endBundle c pcc
    let l (n : Nat) := sget LoopCtr.zero c.arch.lc n
    let m (n : Nat) := sget LoopCtr.zero u.arch.lc n
    let hit (n : Nat) : Bool := (l n).active && (l n).last.toNat == e
    (∀ g, c.taken = some g → u.arch.pc = g % 2048 ∧ ∀ n, m n = l n) ∧
    (c.taken = none → c.ending = true → u.run = .ended ∧ ∀ n, m n = l n) ∧
    (c.taken = none → c.ending = false →
      (∀ n, n < 4 → hit n = true → (l n).value ≠ 0 → (∀ k, k < n → hit k = true → (l k).value = 0) →
        u.arch.pc = (l n).first.toNat ∧ m n = { l n with value := (l n).value - 1 } ∧
        (∀ k, k < n → m k = if hit k then { l k with active := false } else l k) ∧ (∀ k, n < k → m k = l k)) ∧
      ((∀ n, n < 4 → hit n = true → (l n).value = 0) → u.arch.pc = (e + 1) % 2048 ∧
        ∀ k, m k = if k < 4 ∧ hit k = true then { l k with active := false } else l k) ∧
      (c.keyBase = none → u.issueAt = max (pcc + 1 + c.idleAdd) c.issueAt))

/-- R333 to R335: IDLE holds the next bundle off by x(a) + n cycles without moving the time base; SEG makes its issue cycle the time
base for its own bundle's commands; KEY makes the task start plus c the earliest next issue and, when that cycle comes, the time
base of what follows, and slips with TIMING 5 when it issues later than that. -/
def Obligations.TimeControl : Prop :=
  ∀ (s : State), (regs s).walking = false →
    (∀ f : SI, Runs s (.idle f) → exec (.idle f) s = .next (coreResult s fun c =>
      { c with idleAdd := (((regs s).rx f.a.toNat + f.imm.setWidth 64).extractLsb' 0 32).toNat })) ∧
    (∀ f : SI, Runs s (.seg f) → exec (.seg f) s = .next (coreResult s fun c => { c with arch := { c.arch with tbase := s.pcc } })) ∧
    (∀ f : SL, admitted s (.key f) true = true →
      let k := (s.core s.cur).taskStart + f.imm.toNat
      let told := s.modCore s.cur fun c => { c with trace := c.trace ++ [(f.d.toNat, s.pcc)] }
      (s.pcc ≤ k → exec (.key f) s = .next (coreResult told fun c => { c with keyBase := some k })) ∧
      (k < s.pcc → exec (.key f) s = .next (slotTrap told s.cur 9 (timingTval 5 0 3 f.d.toNat s.pcc)))) ∧
    (∀ (c : CoreSt) (pcc k : Nat), c.taken = none →
      (endBundle { c with keyBase := none } pcc).arch.tbase = c.arch.tbase ∧
      (endBundle { c with keyBase := none } pcc).issueAt = max (pcc + 1 + c.idleAdd) c.issueAt ∧
      (let w : PendWrite := { due := max (pcc + 1) k, rank := 0, bid := c.bid, dst := .tbase, val := BitVec.ofNat 1024 k }
       let u := endBundle { c with keyBase := some k } pcc
       u.arch.tbase = c.arch.tbase ∧ u.arch.pend = c.arch.pend ++ [w] ∧ k ≤ u.issueAt ∧
       (∀ (t : State) (q : Nat), k < 2 ^ 64 → ((putResult t q w).core q).arch.tbase = k)))

/-- R336 to R338: RGN captures a well-formed record and names it in sr.rgn, and raises ILL with the address for another; TEND ends the
run with its bundle; ISYNC holds the next bundle until cells, results and overlay loads are done and two cycles have passed,
as a stall that moves the time base. -/
def Obligations.RgnTendIsync : Prop :=
  ∀ (s : State), (regs s).walking = false →
    (∀ f : SI, Runs s (.rgn f) →
      let w := (regs s).rx f.a.toNat + BitVec.ofNat 64 (64 * f.imm.toNat)
      let r : BitVec 512 := bitsOfBytes 512 ((regs s).ldmBytes w.toNat 64)
      (w.toNat < 0x40000 → w.toNat % 64 = 0 → rgnOk r = true → (regs s).pc < 2048 →
        exec (.rgn f) s = .next (coreResult s fun c => { c with arch := { c.arch with
          rgnRec := r, rgn := BitVec.ofNat 12 (w.toNat / 64) ++ (1#1 : BitVec 1) ++ BitVec.ofNat 11 c.arch.pc } })) ∧
      (0x40000 ≤ w.toNat ∨ w.toNat % 64 ≠ 0 ∨ rgnOk r = false → exec (.rgn f) s = .next (slotTrap s s.cur 1 w))) ∧
    (∀ f : SI, Runs s (.tend f) → exec (.tend f) s = .next (coreResult s fun c => { c with ending := true })) ∧
    (∀ f : SI, Runs s (.isync f) → exec (.isync f) s = .next (coreResult s fun c => { c with sync := some (.isync s.pcc) })) ∧
    (∀ (c : CoreSt) (pcc : Nat), c.ending = true → (endBundle c pcc).run = .ended) ∧
    (∀ q from_, (s.core q).sync = some (.isync from_) →
      ((s.core q).slot = 0 → cellsDone s q = true → resultsDone (s.core q) = true → (s.core q).ovlBusy = false → from_ + 2 ≤ s.pcc →
        endWait s q = s.modCore q fun c => { c with sync := none, stalled := true }) ∧
      (cellsDone s q = false ∨ resultsDone (s.core q) = false ∨ (s.core q).ovlBusy = true ∨ s.pcc < from_ + 2 → endWait s q = s))

/-- R339: SYSR writes the register of R340 it names; SYSW writes it a cycle after issue; a number absent from R340 raises ILL, a
residual register inside a span or walk SPAN. SYSW of sr.rqctl (0x17) with release or discard also has the replay queue it selects
released or discarded when its bundle commits (R280). -/
def Obligations.SystemAccess : Prop :=
  ∀ (s : State) (f : SI),
    let n := (f.imm.extractLsb' 0 12).toNat
    let v := (regs s).rx f.a.toNat
    let w : PendWrite := { due := s.pcc + 1, rank := 2, bid := (s.core s.cur).bid, dst := .sys n, val := v.setWidth 1024 }
    (registerNumber n = true → ∃ w, sysRead s s.cur n = some w ∧
      (Runs s (.sysr f) → exec (.sysr f) s = .next (nextSlot (writeX s s.cur 1 f.d.toNat w) s.cur))) ∧
    (registerNumber n = false → sysRead s s.cur n = none ∧ exec (.sysr f) s = .next (illTrap s s.cur) ∧
      exec (.sysw f) s = .next (illTrap s s.cur)) ∧
    (registerNumber n = true → Runs s (.sysw f) →
      (0xC0 ≤ n → n ≤ 0xD0 → (regs s).inSpan = true ∨ (regs s).revActive = true → exec (.sysw f) s = .next (spanFault s s.cur 4 0)) ∧
      ((n < 0xC0 ∨ 0xD0 < n ∨ (regs s).inSpan = false ∧ (regs s).revActive = false) → (regs s).walking = false → n ≠ 0x17 →
        exec (.sysw f) s = .next (coreResult s fun c => { c with arch := { c.arch with pend := c.arch.pend ++ [w] } })) ∧
      (n = 0x17 → (regs s).walking = false → exec (.sysw f) s = .next (coreResult s fun c => { c with
        arch := { c.arch with pend := c.arch.pend ++ [w] }
        actions := c.actions ++ if v.getLsbD 5 || v.getLsbD 6 then
          [(c.bid, .replay (quadDie s.cur) (rqChan (v.extractLsb' 0 5)) (v.getLsbD 6))] else [] })))

/-- The access codes of R340: what a written register reads as, its reserved bits 0; read-only registers ignore a write; no register
but the written one changes. -/
def Obligations.SystemRegisters : Prop :=
  ∀ (s : State) (q n : Nat) (w : Word),
    (∀ x ∈ ([(0x04, 1), (0x05, 1), (0x06, 0xFFFFFFFFFFFFFFFF), (0x07, 0xFFFFFFFFFFFFFFFF), (0x08, 0x7FFFFFFFFFFFFF), (0x09, 0x7FFFFFFFFFFFFF),
        (0x0A, 0x7FFFFFFFFFFFFF), (0x0B, 0x7FFFFFFFFFFFFF), (0x10, 0xFFF), (0x11, 0x7FF), (0x14, 0xFFFFFFFFFFFFFFFF), (0x16, 0x0000FFFFFFFFF000),
        (0x20, 0xFFFFFFFFFFFF), (0x21, 0xFFFFFFFFFFFF), (0x22, 0xFFFFFFFFFFFF), (0x23, 0xFFFFFFFFFFFF), (0xC0, 0xFFFFFFFFFF), (0xC1, 0xFFFFFFFFFF),
        (0xC2, 0xFFFFFFFFFF), (0xC3, 0xFFFFFFFFFF), (0xC4, 0xFFFFFFFFFF), (0xC5, 0xFFFFFFFFFF), (0xC6, 0xFFFFFFFFFF), (0xC7, 0xFFFFFFFFFF),
        (0xC8, 0x1FFF0FFF), (0xC9, 0x1FFF0FFF), (0xCA, 0x1FFF0FFF), (0xCB, 0x1FFF0FFF), (0xCC, 0xFFFFFFFFFFFFF000), (0xCD, 0xFFFFFFFFFFFFF000),
        (0xCE, 0xFFFFFFFFFFFFF000), (0xCF, 0xFFFFFFFFFFFFF000), (0xE0, 0x7FFF), (0xE4, 3)] : List (Nat × Word)),
      x.1 = n → sysRead (sysWrite s q n w) q n = some (w &&& x.2)) ∧
    (n ∈ ([0x00, 0x01, 0x02, 0x03, 0x12, 0x13, 0x15, 0xD0] : List Nat) → sysWrite s q n w = s) ∧
    (0x24 ≤ n → n ≤ 0x27 → ∀ old, sysRead s q n = some old →
      sysRead (sysWrite s q n w) q n = some ((w &&& 0x2FFF) ||| (if old.getLsbD 12 && !(w.getLsbD 12) then 0x1000 else 0))) ∧
    (∀ m, m ≠ n → sysRead (sysWrite s q n w) q m = sysRead s q m) ∧ SameMemory s (sysWrite s q n w)

/-! ### Traps (R150, R272 to R277, R342 to R344) -/

/-- R150: a trap cancels its bundle and every younger one: their queued commands, accesses and effects not yet sent go, older ones
stay, the registers are those of the bundle's start, and no byte of memory changes. A read of the trapping bundle's own slot B, whose
failing check comes before those of slots V, T and E (R273), is still answered first (DEDUCED, log 26). -/
def Obligations.PreciseTraps : Prop :=
  ∀ (s : State) (q : Nat) (t : Trap),
    let c := s.core q
    let u := raiseTrap s q t
    let older (b : Nat) : Bool := decide (b < c.bid)
    SameMemory s u ∧ (∀ o, o ≠ q → { u.core o with undo := (s.core o).undo } = s.core o) ∧
    (t.red = false → (u.core q).lsq = c.lsq.filter (fun m => older m.bid) ++ if 2 ≤ c.slot then c.ownChecks else []) ∧ (u.core q).actions = c.actions.filter (fun a => older a.1) ∧
    (∀ w ∈ (u.core q).arch.pend, c.snaps.find? (fun p => p.1 == c.bid) ≠ none → w.bid < c.bid) ∧
    (∀ a w, c.snaps.find? (fun p => p.1 == c.bid) = some (c.bid, a, w) → ∀ n,
      (u.core q).arch.rx n = a.rx n ∧ (u.core q).arch.rp n = a.rp n ∧ (u.core q).arch.ldm = a.ldm ∧ (u.core q).arch.gens = a.gens ∧
        (u.core q).arch.lc = a.lc) ∧
    (∀ j, j < 4 → (u.cell q j).qMat = (s.cell q j).qMat.filter (fun k => older k.bid) ∧
      (u.cell q j).qVec = (s.cell q j).qVec.filter (fun k => older k.bid) ∧ (u.cell q j).qSf = (s.cell q j).qSf.filter (fun k => older k.bid) ∧
      (u.cell q j).acc = (s.cell q j).acc ∧ (u.cell q j).tiles = (s.cell q j).tiles ∧ (u.cell q j).spm = (s.cell q j).spm)

/-- Taking a trap (R272, R274, R277): sr.tpc, sr.tcause and sr.tval are recorded; with sr.tvec.enable and no handler running the core
enters the handler at sr.tvec.bundle, no earlier than 4 cycles on, as a stall; otherwise it halts and its entry is to fail
with cause 2; TIMING never enters a handler and fails it with cause 1. No other register changes, and no other core; of a core that
halts sr.rvs shows no span or walk in progress any more (DEDUCED, log 39). -/
def Obligations.TrapEntry : Prop :=
  ∀ (s : State) (q : Nat) (t : Trap),
    let c := s.core q
    let u := (takeTrap s q t).core q
    let enters := c.arch.tvec.getLsbD 11 = true ∧ c.arch.inHandler = false ∧ t.cause ≠ 9
    SameMemory s (takeTrap s q t) ∧ (∀ o, o ≠ q → (takeTrap s q t).core o = s.core o) ∧
    u.arch.tpc = BitVec.ofNat 11 t.tpc ∧ u.arch.tval = t.tval ∧
    (t.cause < 32 → t.slot < 8 → t.origin < 4 → t.cell < 4 → t.chan < 16 →
      nfield u.arch.tcause 0 5 = t.cause ∧ nfield u.arch.tcause 5 3 = t.slot ∧ nfield u.arch.tcause 8 2 = t.origin ∧
      nfield u.arch.tcause 10 2 = t.cell ∧ nfield u.arch.tcause 12 4 = t.chan ∧ u.arch.tcause.getLsbD 16 = t.ce ∧
      u.arch.tcause.getLsbD 17 = t.gstep ∧ u.arch.tcause.getLsbD 18 = c.arch.revActive ∧ nfield u.arch.tcause 19 12 = 0 ∧
      nfield u.arch.tcause 32 32 = 0 ∧ (u.arch.inHandler = true ↔ enters ∨ c.arch.inHandler = true)) ∧
    { u.arch with tpc := c.arch.tpc, tcause := c.arch.tcause, tval := c.arch.tval, pc := c.arch.pc, rvs := c.arch.rvs } = c.arch ∧
    (enters → u.arch.pc = (c.arch.tvec.extractLsb' 0 11).toNat ∧ u.issueAt = s.pcc + 4 ∧ u.stalled = true ∧ u.run = c.run ∧
      u.arch.rvs = c.arch.rvs) ∧
    (¬ enters → u.run = .halted ∧ u.arch.pc = c.arch.pc ∧ u.arch.rvs = c.arch.rvs &&& ~~~(0x3800 : BitVec 39) ∧ ∀ k, c.task = some k → (s.entry k.slot).failReq = none →
      ((takeTrap s q t).entry k.slot).failReq = some (q, if t.cause = 9 then 1 else 2))

/-- R342, R343: TRAP and BRK take no guard, commit with their bundle and leave a trap of cause 16 or 15 with the code in sr.tval; it is
taken when the bundle and all older ones have committed, and names the bundle that follows in program order; with the monitor
attached BRK stops the package clock instead.
R275: a core that would issue its next bundle takes the deferred trap detected first, against that bundle; the others stay; in a walk
that bundle is the one to be walked back or replayed next, and sr.rvs names it (R243, R344). -/
def Obligations.SoftAndDeferredTraps : Prop :=
  (∀ (s : State),
     (∀ f : SL, (regs s).walking = false →
       let r (cause : Nat) : Trap := { cause := cause, slot := 0, origin := 0, cell := 0, chan := 0, ce := false, gstep := false,
                                       tval := (f.imm.extractLsb' 0 16).setWidth 64, tpc := 2048, seen := s.pcc }
       let left (cause : Nat) (c : CoreSt) : CoreSt := { c with trapReq := some (r cause) }
       (admitted s (.trap f) true = true → exec (.trap f) s = .next (coreResult s (left 16))) ∧
       (admitted s (.brk f) true = true → exec (.brk f) s = .next (coreResult s (left 15)))) ∧
     (∀ (q : Nat) (t : Trap), s.arg.a = q → (s.core q).trapReq = some t → trapEntryDue s q = true →
       let named : Trap := if t.tpc = 2048 then { t with tpc := (s.core q).arch.pc } else t
       (t.cause ≠ 15 ∨ s.monitor = false →
         exec .trapEntry s = .next (takeTrap (s.modCore q fun c => { c with run := .running }) q named)) ∧
       (t.cause = 15 → s.monitor = true → ∃ u, exec .trapEntry s = .next u ∧ u.clockOn = false ∧ u.debugHalt = true ∧
         (u.core q).trapReq = none ∧ (u.core q).arch.tpc = BitVec.ofNat 11 named.tpc ∧ (u.core q).arch.tval = t.tval ∧ SameMemory s u))) ∧
  (∀ (s : State) (t : Trap), let q := s.arg.a
     firstDeferred (s.core q).deferred = some t → deferredDue s q = true →
       let b := nextWalked (s.core q)
       exec .deferredTrap s = .next (takeTrap (s.modCore q fun c => { c with
         deferred := c.deferred.erase t, run := .running, arch := if c.arch.walking then c.arch.rvsAt b else c.arch }) q { t with tpc := b }) ∧
       ((s.core q).arch.walking = false → b = (s.core q).arch.pc) ∧ t ∈ (s.core q).deferred ∧ ∀ o ∈ (s.core q).deferred, t.seen ≤ o.seen)

/-- R344: TRET in a handler ends it with its bundle and resumes at sr.tpc, interlocked after a stall, and a batch of residual records that
has faulted is tried again (R232); outside one it raises PRIV. -/
def Obligations.TrapReturn : Prop :=
  ∀ (s : State) (f : SI), Runs s (.tret f) →
    ((regs s).inHandler = true → ∃ g, exec (.tret f) s =
        .next (nextSlot ([0, 1, 2, 3].foldl (fun u j => u.modCell s.cur j fun x => { x with spillStop := false })
          (s.modCore s.cur fun c => { c with taken := some g, lockNext := true, stalled := true })) s.cur) ∧
      ((regs s).tcause.getLsbD 18 = false → g = (regs s).tpc.toNat)) ∧
    ((regs s).inHandler = false → exec (.tret f) s = .next (slotTrap s s.cur 2 0)) ∧
    (∀ (c : CoreSt) (pcc g : Nat), c.lockNext = true → c.taken = some g →
      (endBundle c pcc).arch.inHandler = false ∧ (endBundle c pcc).arch.pc = g % 2048 ∧ (endBundle c pcc).locked = true ∧
      (endBundle c pcc).stalled = c.stalled)

/-! ### Slot B: memory (R345 to R366) -/

/-- The window of LDM (R345, R347): an aligned plain load reads its bytes little-endian, sign- or zero-extended, four cycles later; an
aligned plain store writes the low bytes of x(d) a cycle later, which a load of the same bytes then gives back; a misaligned
access raises ALIGN, an address in no space PROT with kind 6.
The windows of the BTE (R345, R367, R368): LDD of a template word joins the core's queue with that word as its answer, STD writes it a
cycle after issue, and no other word changes; STD of a go word raises PRIV, then ALIGN, or its command, the template with the offsets
added, joins the channel's queue when its bundle commits; a template never written is refused; no other load or store has these
spaces. -/
def Obligations.LocalAccess : Prop :=
  ∀ (s : State) (f : SI),
    let loads : List ((SI → Instr) × Nat × Bool) :=
      [(.ldb, 1, true), (.ldbn, 1, false), (.ldh, 2, true), (.ldhn, 2, false), (.ldw, 4, true), (.ldwn, 4, false), (.ldd, 8, false)]
    let stores : List ((SI → Instr) × Nat) := [(.stb, 1), (.sth, 2), (.stw, 4), (.std, 8)]
    let ea (n : Nat) : Word := (regs s).rx f.a.toNat + BitVec.ofNat 64 n * (f.imm.extractLsb' 2 12).signExtend 64
    let bad (i : Instr) (n : Nat) : Prop := Runs s i →
      ((0xFFFFF00000000000 ≤ (ea n).toNat ∧ (ea n).toNat < 0xFFFFF00000040000 ∨ (ea n).toNat < 2 ^ 48) → (ea n).toNat % n ≠ 0 →
        exec i s = .next (slotTrap s s.cur 3 (BitVec.ofNat 64 ((ea n).toNat % 2 ^ 48)))) ∧
      (2 ^ 48 ≤ (ea n).toNat → (ea n).toNat < 0xFFFFF00000000000 →
        exec i s = .next (slotTrap s s.cur 5 (kindTval (ea n).toNat 6 0)))
    (∀ x ∈ loads, bad (x.1 f) x.2.1 ∧ ∀ o, o + x.2.1 ≤ 0x40000 → o % x.2.1 = 0 → (ea x.2.1).toNat = 0xFFFFF00000000000 + o →
      Runs s (x.1 f) →
      let v : BitVec (8 * x.2.1) := bitsOfBytes (8 * x.2.1) ((regs s).ldmBytes o x.2.1)
      exec (x.1 f) s = .next (nextSlot (writeX s s.cur 4 f.d.toNat (if x.2.2 then v.signExtend 64 else v.setWidth 64)) s.cur)) ∧
    (∀ x ∈ stores, bad (x.1 f) x.2 ∧ ∀ o, o + x.2 ≤ 0x40000 → o % x.2 = 0 → (ea x.2).toNat = 0xFFFFF00000000000 + o →
      Runs s (x.1 f) →
      let w : PendWrite := { due := s.pcc + 1, rank := (s.core s.cur).slot, bid := (s.core s.cur).bid, dst := .ldm o x.2,
                             val := ((regs s).rx f.d.toNat).setWidth 1024 }
      exec (x.1 f) s = .next (coreResult s fun c => { c with arch := { c.arch with pend := c.arch.pend ++ [w] } }) ∧
      bitsOfBytes (8 * x.2) (((applyWrite s s.cur w).core s.cur).arch.ldmBytes o x.2) = ((regs s).rx f.d.toNat).setWidth (8 * x.2) ∧
      (∀ p, p + 1 ≤ o ∨ o + x.2 ≤ p → ((applyWrite s s.cur w).core s.cur).arch.ldmBytes p 1 = (regs s).ldmBytes p 1)) ∧
    (let q := s.cur
     let c := s.core q
     let word (u : State) (t n : Nat) : Word := (sget 0 (u.die (quadDie q)).templates t).extractLsb' (64 * n) 64
     let absent (i : Instr) (n : Nat) : Prop := Runs s i → exec i s = .next (slotTrap s q 5 (kindTval (ea n).toNat 6 0))
     (∀ t n, t < 256 → n < 8 → (ea 8).toNat = 0xFFFFF10000010000 + 64 * t + 8 * n →
       (Runs s (.ldd f) → ∃ m : MemOp,
         exec (.ldd f) s = .next (nextSlot (s.modCore q fun c => { c with lsq := c.lsq ++ [m], nextTag := c.nextTag + 1 }) q) ∧
         m.kind = .tmpl ∧ m.bid = c.bid ∧ m.dst = f.d.toNat ∧ m.phase = 2 ∧ m.result = word s t n ∧ m.status = 0 ∧ m.pois = false) ∧
       (Runs s (.std f) →
         let w : PendWrite := { due := s.pcc + 1, rank := c.slot, bid := c.bid, dst := .template t n,
                                val := ((regs s).rx f.d.toNat).setWidth 1024 }
         exec (.std f) s = .next (coreResult s fun c => { c with arch := { c.arch with pend := c.arch.pend ++ [w] } }) ∧
         word (applyWrite s q w) t n = (regs s).rx f.d.toNat ∧
         ∀ u k, k < 8 → u ≠ t ∨ k ≠ n → word (applyWrite s q w) u k = word s u k)) ∧
     (∀ ch, ch < 16 → (ea 8).toNat = 0xFFFFF10000000000 + 0x100 * ch → Runs s (.std f) →
       let data := (regs s).rx f.d.toNat
       let m := sget 0 (s.die (quadDie q)).templates (nfield data 0 8)
       (m.getLsbD 463 = true → 4 ≤ ch → exec (.std f) s = .next (slotTrap s q 2 (BitVec.ofNat 64 ((ea 8).toNat % 2 ^ 48)))) ∧
       (m.getLsbD 463 = false ∨ ch < 4 →
         (goOk m data = false → exec (.std f) s = .next (slotTrap s q 3 (BitVec.ofNat 64 ((ea 8).toNat % 2 ^ 48)))) ∧
         (goOk m data = true → exec (.std f) s = .next (coreResult s fun c =>
           { c with actions := c.actions ++ [(c.bid, .go (quadDie q) ch q data c.asid m)] })))) ∧
     (∀ d ch asid data m, tmplSpace (tmplSrc m) = 0 → tmplSpace (tmplDst m) = 0 → tmplKind m = 0 →
       let u := captureGo s d ch q asid data m
       ∃ k : BteCmd, (u.channel d ch).queue = (s.channel d ch).queue ++ [k] ∧ k.tmpl = m ∧ k.quad = q ∧ k.asid = asid ∧
         k.src = (nfield (tmplSrc m) 0 48 : Int) + 32 * (data.extractLsb' 8 28).toInt ∧
         k.dst = (nfield (tmplDst m) 0 48 : Int) + 32 * (data.extractLsb' 36 28).toInt) ∧
     (∀ data, goOk 0 data = false) ∧
     (∀ n, let window (a : Nat) : Prop := 0xFFFFF10000010000 ≤ a ∧ a < 0xFFFFF10000014000
       let go (a : Nat) : Prop := 0xFFFFF10000000000 ≤ a ∧ a < 0xFFFFF10000001000 ∧ a % 256 = 0
       (∀ x ∈ loads, x.2.1 = n → go (ea n).toNat ∨ window (ea n).toNat ∧ n ≠ 8 → absent (x.1 f) n) ∧
       (∀ x ∈ stores, x.2 = n → n ≠ 8 → go (ea n).toNat ∨ window (ea n).toNat → absent (x.1 f) n)))

/-- Global accesses of slot B (R348 to R358): a form whose address is below 2^48 and aligned is translated with right R, W or both;
where that fails it raises the fault of R178, otherwise its operation joins the end of the core's queue with what its encoding
says, and the slot ends. No memory changes at issue: the home performs the access. -/
def Obligations.GlobalAccess : Prop :=
  ∀ (s : State),
    let q := s.cur
    let c := s.core q
    let queues (i : Instr) (ea : Word) (n need : Nat) (what : MemOp → Prop) : Prop :=
      Runs s i → ea.toNat < 2 ^ 48 → ea.toNat % n = 0 →
      (∀ t p, translate s (.core q) c.asid ea.toNat need = (t, .ok p) → ∃ m,
        exec i s = .next (nextSlot (t.modCore q fun c => { c with lsq := c.lsq ++ [m], nextTag := c.nextTag + 1 }) q) ∧
        m.va = ea.toNat ∧ m.len = n ∧ m.place = p ∧ m.bid = c.bid ∧ m.bundle = c.arch.pc ∧ m.phase = 0 ∧
        m.tag + 4096 * m.gen = c.nextTag % 65536 ∧ what m) ∧
      (∀ t k st, translate s (.core q) c.asid ea.toNat need = (t, .error (k, st)) →
        exec i s = .next (slotTrap t q (kindCause k) (kindTval ea.toNat k st)))
    (∀ f : SI,
      let ea (n : Nat) : Word := c.arch.rx f.a.toNat + BitVec.ofNat 64 n * (f.imm.extractLsb' 2 12).signExtend 64
      let pol := (f.imm.extractLsb' 0 2).toNat
      (∀ x ∈ ([(.ldb, 1, true), (.ldbn, 1, false), (.ldh, 2, true), (.ldhn, 2, false), (.ldw, 4, true), (.ldwn, 4, false),
          (.ldd, 8, false)] : List ((SI → Instr) × Nat × Bool)),
        queues (x.1 f) (ea x.2.1) x.2.1 1 fun m =>
          m.kind = .load ∧ m.dst = f.d.toNat ∧ m.signed = x.2.2 ∧ m.policy = pol ∧ m.acq = false) ∧
      (∀ x ∈ ([(.stb, 1), (.sth, 2), (.stw, 4), (.std, 8)] : List ((SI → Instr) × Nat)),
        queues (x.1 f) (ea x.2) x.2 2 fun m => m.kind = .store ∧ m.data = c.arch.rx f.d.toNat ∧ m.policy = pol ∧ m.rel = false)) ∧
    (∀ f : SR,
      let ea : Word := c.arch.rx f.a.toNat + c.arch.rx f.b.toNat
      let pol := (f.fn.extractLsb' 0 2).toNat
      let scope := (f.fn.extractLsb' 2 2).toNat
      (pol < 2 → scope < 3 → ∀ x ∈ ([(.ldbAcq, 1, true), (.ldbnAcq, 1, false), (.ldhAcq, 2, true), (.ldhnAcq, 2, false),
          (.ldwAcq, 4, true), (.ldwnAcq, 4, false), (.lddAcq, 8, false)] : List ((SR → Instr) × Nat × Bool)),
        queues (x.1 f) ea x.2.1 1 fun m =>
          m.kind = .load ∧ m.dst = f.d.toNat ∧ m.signed = x.2.2 ∧ m.policy = pol ∧ m.acq = true ∧ m.scope = scope) ∧
      (pol < 2 → scope < 3 → ∀ x ∈ ([(.stbRel, 1), (.sthRel, 2), (.stwRel, 4), (.stdRel, 8)] : List ((SR → Instr) × Nat)),
        queues (x.1 f) ea x.2 2 fun m =>
          m.kind = .store ∧ m.data = c.arch.rx f.d.toNat ∧ m.policy = pol ∧ m.rel = true ∧ m.scope = scope) ∧
      (guardedIll (.amo f) = false → queues (.amo f) (c.arch.rx f.a.toNat) 4 3 fun m =>
        m.kind = .atom ∧ m.dst = f.d.toNat ∧ m.data = c.arch.rx f.b.toNat ∧ m.fn + (if m.flt then 8 else 0) = f.fn.toNat % 16 ∧
          m.acq = f.fn.getLsbD 4 ∧ m.rel = f.fn.getLsbD 5 ∧ m.scope = f.fn.toNat / 64) ∧
      (guardedIll (.cas f) = false → queues (.cas f) (c.arch.rx f.a.toNat) 4 3 fun m =>
        m.kind = .atom ∧ m.fn = 7 ∧ m.dst = f.d.toNat ∧ m.data = c.arch.rx f.b.toNat ∧ m.cmp = (c.arch.rx f.d.toNat).setWidth 32 ∧
          m.acq = f.fn.getLsbD 4 ∧ m.rel = f.fn.getLsbD 5 ∧ m.scope = f.fn.toNat / 64) ∧
      (guardedIll (.red f) = false → queues (.red f) (c.arch.rx f.a.toNat) 4 2 fun m =>
        m.kind = .red ∧ m.data = c.arch.rx f.b.toNat ∧ m.fn + (if m.flt then 8 else 0) = f.fn.toNat % 16 ∧ m.flush = f.fn.getLsbD 4))

/-- Fences and WAITA (R359 to R363): a fence of scope 0 to 2 holds the next bundle until it completes: the core issues nothing while it
waits, it goes on waiting while something that its kind names is under way, and ends when nothing is (R359, R360); a FENCE.red that
finds a nonzero rfail raises POISON at its bundle instead. WAITA checks its word and its right R, then waits with its compare value,
condition, width, scope and time-out. -/
def Obligations.FencesAndWaits : Prop :=
  (∀ (s : State) (q kind scope b : Nat),
    let c := s.core q
    let older (p : MemOp → Prop) : Prop := ∃ m ∈ c.lsq, m.bid < b ∧ p m
    let under (m : MemOp) : Prop := m.kind ≠ .tmpl ∧ m.phase < 2 ∧ (m.kind = .red → m.timedOut = false)
    let ranges : Prop := ∃ a ∈ c.actions, a.1 < b ∧ ∃ d k va len asid at_ l, a.2 = .rangeOp d k va len asid at_ l
    let waits : Prop := match kind with
      | 0 => older fun m => under m ∧ (m.kind = .load ∨ m.kind = .atom)
      | 1 | 2 => (older fun m => under m ∧ m.kind ≠ .red) ∨ ranges
      | 3 => (older fun m => m.kind = .red ∧ m.phase = 0) ∨ c.redIssued ≠ c.redAcked
      | _ => older under ∨ ranges
    c.sync = some (.fence kind scope b) →
      issueCore s ≠ some q ∧ (waits → endWait s q = s) ∧
      (¬ waits → b < c.bid →
        (kind ≠ 3 ∨ (c.rfail = 0 ∧ ∀ m ∈ c.lsq, ¬ (m.kind = .red ∧ m.phase = 2)) →
          ((endWait s q).core q).sync = none ∧ ((endWait s q).core q).arch = c.arch ∧ ((endWait s q).core q).lsq = c.lsq ∧
            SameMemory s (endWait s q)) ∧
        (kind = 3 → c.rfail ≠ 0 → (∀ m ∈ c.lsq, ¬ (m.kind = .red ∧ m.phase = 2)) → c.trapReq = none →
          ∃ x : Trap, endWait s q = preciseTrap (coreRelease s q) q b x ∧ x.cause = 12 ∧ x.slot = 1 ∧ x.tval = 0))) ∧
  (∀ (s : State) (f : SR),
    let q := s.cur
    let c := s.core q
    let scope := (f.fn.extractLsb' 4 2).toNat
    (scope < 3 → ∀ x ∈ ([(.fenceAcq, 0), (.fenceRel, 1), (.fenceFull, 2), (.fenceRed, 3), (.fenceEng, 4)] : List ((SR → Instr) × Nat)),
      Runs s (x.1 f) → exec (x.1 f) s = .next (coreResult s fun c => { c with sync := some (.fence x.2 scope c.bid) })) ∧
    (scope < 3 → (f.fn.extractLsb' 0 3).toNat < 5 → Runs s (.waita f) →
      let spec := c.arch.rx f.a.toNat
      let n := if f.fn.getLsbD 3 then 4 else 8
      let starts (t : State) : Prop := ∃ w : Waita,
        exec (.waita f) s = .next (nextSlot (t.modCore q fun c => { c with waita := some w }) q) ∧ w.spec = spec ∧ w.bid = c.bid ∧
        w.cmp = c.arch.rx f.b.toNat ∧ w.cond = (f.fn.extractLsb' 0 3).toNat ∧ (w.wide = true ↔ n = 8) ∧ w.scope = scope ∧
        w.dst = f.d.toNat ∧ w.tout = ((c.arch.rx f.d.toNat).extractLsb' 0 32).toNat
      (specOk spec = false → exec (.waita f) s = .next (slotTrap s q 5 (kindTval spec.toNat 6 0))) ∧
      (specOk spec = true → nfield spec 0 22 % n ≠ 0 → exec (.waita f) s = .next (slotTrap s q 3 (BitVec.ofNat 64 (spec.toNat % 2 ^ 48)))) ∧
      (specOk spec = true → nfield spec 0 22 % n = 0 → specLocal spec = true → starts s) ∧
      (specOk spec = true → nfield spec 0 22 % n = 0 → specLocal spec = false →
        (∀ t p, translate s (.core q) c.asid (nfield spec 0 48) 1 = (t, .ok p) → starts t) ∧
        (∀ t k st, translate s (.core q) c.asid (nfield spec 0 48) 1 = (t, .error (k, st)) →
          exec (.waita f) s = .next (slotTrap t q (kindCause k) (kindTval (nfield spec 0 48) k st))))))

/-- Range operations and prefetch (R364 to R366): an address beyond 48 bits raises PROT with kind 6, a length over the limit ALIGN; CWB,
CINV and CWBI of length 0 do nothing; CWB of another length, CINV and CWBI whose pages all have right W, and PFR leave the core
when their bundle commits. -/
def Obligations.RangeOps : Prop :=
  ∀ (s : State) (f : SR),
    let q := s.cur
    let c := s.core q
    let va := (c.arch.rx f.a.toNat).toNat
    let len := (c.arch.rx f.b.toNat).toNat
    let posts (i : Instr) (t : State) (a : Action) : Prop :=
      exec i s = .next (nextSlot (t.modCore q fun c => { c with actions := c.actions ++ [(c.bid, a)] }) q)
    let die := if f.fn.getLsbD 0 then quadDie q else 0
    (∀ x ∈ ([(.cwb, 0), (.cinv, 1), (.cwbi, 2)] : List ((SR → Instr) × Nat)), Runs s (x.1 f) →
      (2 ^ 48 ≤ va → exec (x.1 f) s = .next (slotTrap s q 5 (kindTval va 6 0))) ∧
      (va < 2 ^ 48 → 2 ^ 36 < len → exec (x.1 f) s = .next (slotTrap s q 3 (BitVec.ofNat 64 va))) ∧
      (va < 2 ^ 48 → len = 0 → exec (x.1 f) s = .next (nextSlot s q)) ∧
      (va < 2 ^ 48 → 0 < len → len ≤ 2 ^ 36 →
        (x.2 = 0 → posts (x.1 f) s (.rangeOp die 0 va len c.asid s.pcc (dirtyAt s die c))) ∧
        (x.2 ≠ 0 → ∀ t, pagesLackW s q c.asid (len / 4096 + 2) va (va + len - 1) = (t, none) →
          posts (x.1 f) t (.rangeOp die x.2 va len c.asid t.pcc (dirtyAt t die c))) ∧
        (x.2 ≠ 0 → ∀ t p, pagesLackW s q c.asid (len / 4096 + 2) va (va + len - 1) = (t, some p) →
          exec (x.1 f) s = .next (slotTrap t q 5 (kindTval p 5 0))))) ∧
    (Runs s (.pfr f) →
      let spec := c.arch.rx f.d.toNat
      (2 ^ 48 ≤ va → exec (.pfr f) s = .next (slotTrap s q 5 (kindTval va 6 0))) ∧
      (va < 2 ^ 48 → 2 ^ 30 < len → exec (.pfr f) s = .next (slotTrap s q 3 (BitVec.ofNat 64 va))) ∧
      (va < 2 ^ 48 → len ≤ 2 ^ 30 → specOk spec = true → nfield spec 0 22 % 8 = 0 →
        (spec = 0 ∨ specLocal spec = true → ∃ p, posts (.pfr f) s (.pfr 0 q va len spec f.fn.toNat p c.asid)) ∧
        (spec ≠ 0 → specLocal spec = false → ∀ t p, translate s (.core q) c.asid (nfield spec 0 48) 2 = (t, .ok p) →
          posts (.pfr f) t (.pfr 0 q va len spec f.fn.toNat p c.asid))))

/-- Stored bytes (R43 to R45, R181): a byte written under keys and a tweak reads back under them; no byte of another granule changes under
any keys, and none of the same granule under those keys and that tweak; each home mode maps the near tier one to one onto itself. -/
def Obligations.GlobalMemory : Prop :=
  (∀ (s : State) (keys : BitVec 512) (w a : Nat) (b : Byte),
    let t := putByte s keys w a b
    t.byteUnder keys w a = b ∧ (∀ k v c, c / 64 ≠ a / 64 → t.byteUnder k v c = s.byteUnder k v c) ∧
    (∀ c, c / 64 = a / 64 → c ≠ a → t.byteUnder keys w c = s.byteUnder keys w c)) ∧
  (∀ (home pa pb : Nat), home < 3 → pa < 2 ^ 40 → pb < 2 ^ 40 →
    storageAddr home pa < 2 ^ 40 ∧ (storageAddr home pa = storageAddr home pb → pa = pb) ∧
    storageAddr home pa / 64 = storageAddr home (pa / 64 * 64) / 64)

/-! ### Slots V and T: commands of cells (R146 to R151, R300, R371 to R413) -/

/-- A vector instruction outside spans: with a legal encoding, port entries and room in every queue, its command joins the end of the
vector queue of each selected cell with its per-lane guard, which never quashes it; with an illegal one it raises ILL. -/
def Obligations.VectorIssue : Prop :=
  ∀ (s : State), (s.core s.cur).spanNow = none → (s.core s.cur).rev = none → (regs s).walking = false →
    let enters (i : Instr) (f : VR) : Prop :=
      (vecIll i = true → exec i s = .next (illTrap s s.cur)) ∧
      (vecIll i = false → admitted s i true = true →
        let r := plainReq i f.cm 1 ((regs s).guardBits f.pg f.ng) true
        hasRoom s r = true → exec i s = .next (nextSlot (queued s r (cellsOf f.cm)) s.cur))
    (∀ mk ∈ ([.vmin, .vmax, .vabs, .vneg, .vclamp, .viadd, .visub, .vimul, .vimulh, .vand, .vor, .vxor, .vandn, .vshl, .vshr, .vsra,
        .vimin, .vimax, .viminn, .vimaxn, .vsel, .vmov, .vbcast, .viota, .vperm, .vrot, .vcxs, .vextr, .vins, .vcmpr, .vpcnt, .vrng,
        .vtma, .vtmm, .vtmf, .vcmpEq, .vcmpNe, .vcmpLt, .vcmpLe, .vcmpGt, .vcmpGe, .vicmpEq, .vicmpNe, .vicmpLt, .vicmpLe, .vicmpGt,
        .vicmpGe, .vicmpLtn, .vicmpLen, .vicmpGtn, .vicmpGen] : List (VR → Instr)), ∀ f, enters (mk f) f) ∧
    (∀ mk ∈ ([.vadd, .vsub, .vmul, .vfma, .vfnma, .vscale, .vrcp, .vrsq, .vexp2, .vlog2, .vcvt, .vcvtfx, .vscan, .vsegsum,
        .vred] : List (BitVec 3 → VR → Instr)), ∀ rm f, enters (mk rm f) f)

/-- The head of a vector queue starts (R153, R170, R382, R383): an integer instruction between registers leaves the queue and, three
cycles on, its destination register takes the result of each lane that the guard enables. -/
def Obligations.VectorLanes : Prop :=
  ∀ (s : State) (k : Cmd) (f : VR),
    let q := s.arg.a
    let j := s.arg.b
    let lane (r : Row) (n : Nat) : Nat := nfield r (tyWidth f.ty.toNat * n) (tyWidth f.ty.toNat)
    s.arg.c = 1 → queueTurn s q j 1 = .start k → k.erc = false → k.resOps = 0 → f.a.toNat < 256 → f.b.toNat < 256 → f.d.toNat < 256 →
    ∀ x ∈ ([(.viadd, fun w a b => (a + b) % 2 ^ w), (.visub, fun w a b => (2 ^ w + a - b) % 2 ^ w), (.vimul, fun w a b => a * b % 2 ^ w),
        (.vand, fun _ a b => a &&& b), (.vor, fun _ a b => a ||| b), (.vxor, fun _ a b => a ^^^ b), (.vandn, fun w a b => a &&& (2 ^ w - 1 - b)),
        (.vshl, fun w a b => a <<< (b % w) % 2 ^ w), (.vshr, fun w a b => a >>> (b % w)), (.viminn, fun _ a b => min a b),
        (.vimaxn, fun _ a b => max a b)] : List ((VR → Instr) × (Nat → Nat → Nat → Nat))),
      k.instr = x.1 f → ∃ t e v m, exec .commandStart s = .next t ∧ (t.cell q j).qVec = (s.cell q j).qVec.drop 1 ∧
        (t.cell q j).sched = (s.cell q j).sched ++ [e] ∧ e.due = s.pcc + 3 ∧ e.eff = .accRow f.d.toNat v m ∧
        (t.cell q j).acc = (s.cell q j).acc ∧ SameMemory s t ∧
        (∀ n, n < tyLanes f.ty.toNat → lane v n = x.2 (tyWidth f.ty.toNat) (lane (sget 0 (s.cell q j).acc f.a.toNat) n)
          (lane (sget 0 (s.cell q j).acc f.b.toNat) n)) ∧
        m = laneMask (tyWidth f.ty.toNat / 8) (laneGuard k.guard f.ty.toNat)

/-- A tile instruction outside spans (R396, R400 to R413): with legal operand codes, format words and parameters that its form accepts,
port entries and room, its command joins the matrix queue of each selected cell with its register operand, its guard and the
word it takes or pushes; TSTAT makes its predicate pending. Bad operand codes raise ILL. -/
def Obligations.TileIssue : Prop :=
  ∀ (s : State) (f : TG), (s.core s.cur).spanNow = none → (s.core s.cur).rev = none → (regs s).walking = false →
    let x := (regs s).rx f.xs.toNat
    let g := (regs s).guardTrue f.pg f.ng
    let enters (i : Instr) (s0 : State) (live : Bool) (push : Option Word) : Prop :=
      (tileIll i = true → exec i s = .next (illTrap s s.cur)) ∧
      (tileIll i = false → admitted s i true = true → tileTrap (regs s) i x (cellsOf f.cm) = none →
        let r : CellReq := { plainReq i f.cm 0 ((regs s).guardBits f.pg f.ng) live with x1 := x, popsFmt := popsWord i, pushFmt := push }
        hasRoom s r = true → exec i s = .next (nextSlot (queued s0 r (cellsOf f.cm)) s.cur))
    (∀ mk ∈ ([.tld, .tst, .tfill, .tzero, .wld, .mma, .mmas, .azero, .tclr, .trsum, .tcsum] : List (TG → Instr)), enters (mk f) s g none) ∧
    enters (.drain f) s true none ∧
    enters (.fpush f) s g (if g then some x else none) ∧
    enters (.tstat f) (if g ∧ cellsOf f.cm ≠ [] then
        s.modCore s.cur fun c => { c with tstats := c.tstats ++ [(c.bid, (cellsOf f.cm).length, false)] } else s) g none

/-! ### Slot E (R416 to R440) -/

/-- The cell commands of slot E outside spans: with legal codes and operands, port entries and room, the command joins the SF queue of
each selected cell with the register values it carries; PBIND and PHASE set the port's counts, PSEND takes credits at issue. -/
def Obligations.CellEngineIssue : Prop :=
  ∀ (s : State), (s.core s.cur).spanNow = none → (s.core s.cur).rev = none → (regs s).walking = false →
    let q := s.cur
    let c := s.core q
    let x (n : BitVec 6) : Word := (regs s).rx n.toNat
    let req (i : Instr) (cm : BitVec 4) (x1 x2 x3 : Word) (set : BitVec 1024) : CellReq :=
      { plainReq i cm 2 0 (liveGuard s i) with x1 := x1, x2 := x2, x3 := x3, set := set }
    let enters (i : Instr) (cm : BitVec 4) (s0 : State) (x1 x2 x3 : Word) (set : BitVec 1024) : Prop :=
      admitted s i true = true → hasRoom s0 (req i cm x1 x2 x3 set) = true →
        exec i s = .next (nextSlot (queued s0 (req i cm x1 x2 x3 set) (cellsOf cm)) q)
    (∀ f : ER,
      let x2 := x f.xb
      let dq := if x2.getLsbD 32 then q else c.physQuad (nfield x2 24 8)
      (let src := nfield (x f.xa) 0 22; let dst := nfield x2 0 22; let len := (x f.xc).toNat
       (x2.getLsbD 32 = true ∨ heldByTask s q dq = true) → src % 256 = 0 → dst % 256 = 0 → 256 ≤ len → len ≤ 65536 → len % 256 = 0 →
        src + len ≤ spmSize → dst + len ≤ spmSize → enters (.xfer f) f.cm s (x f.xa) x2 (BitVec.ofNat 64 (len + 2 ^ 32 * dq)) 0) ∧
      ((x2.getLsbD 32 = true ∨ heldByTask s q dq = true) →
        enters (.xferRow f) f.cm s (x f.xa) x2 (BitVec.ofNat 64 (1024 + 2 ^ 32 * dq)) 0) ∧
      enters (.rseed f) f.cm s (x f.xa) x2 0 0 ∧
      (let p := nfield f.fn 0 3; let set := sget 0 c.arch.gens (nfield f.fn 3 4)
       let bound (n : Nat) (i : Instr) : State :=
         if liveGuard s i then s.modArch q fun a => setPortCount a p n n (cellsOf f.cm) else s
       (setOk set = true → enters (.pbind f) f.cm (bound (setLength set) (.pbind f)) (BitVec.ofNat 64 p) 0 0 set) ∧
       enters (.pbindOff f) f.cm (bound 0 (.pbindOff f)) (BitVec.ofNat 64 p) 0 0 0)) ∧
    (∀ f : EV,
      ((f.fn.toNat % 16 < 10 → sfopType f ≠ 3 → srcCode f.a ≠ none → dstCode f.d ≠ none →
        enters (.sfop f) f.cm s (if f.fn.toNat % 16 = 8 ∨ f.fn.toNat % 16 = 9 then x f.xa else 0) 0 0 0) ∧
       (let n := nfield f.fn 0 3; let e := c.pairEntry n
        let peer : Word := BitVec.ofNat 64 (c.physQuad (nfield e 0 8) + 256 * nfield e 16 3)
        let sent (back : Bool) : State := s.modArch q fun a =>
          { a with credits := sset 0 a.credits (laneKey n back) (sget 0 a.credits (laneKey n back) + (cellsOf f.cm).length) }
        e.getLsbD 20 = true →
        (srcCode f.a ≠ none → e.getLsbD 19 = false → enters (.psend f) f.cm (sent false) peer 0 0 0) ∧
        (srcCode f.a ≠ none → e.getLsbD 19 = true → enters (.psendG f) f.cm (sent true) peer 0 0 0) ∧
        (dstCode f.d ≠ none → e.getLsbD 19 = true → enters (.precv f) f.cm s peer 0 0 0) ∧
        (dstCode f.d ≠ none → e.getLsbD 19 = false → enters (.precvG f) f.cm s peer 0 0 0)))) ∧
    (∀ f : EI,
      let p := f.imm.toNat % 8
      let e := nfield (x f.xa) 0 40 + f.imm.toNat / 8
      let len (j : Nat) : Nat := sget 0 c.arch.portLen (portKey j p)
      (∀ j ∈ cellsOf f.cm, e < len j) →
      enters (.phase f) f.cm (s.modArch q fun a => { a with
        portCnt := (cellsOf f.cm).foldl (fun m j => sset 0 m (portKey j p) (len j - e)) a.portCnt }) (BitVec.ofNat 64 p) (BitVec.ofNat 64 e) 0 0)

/-- RPUSH and RPOP outside spans (R426): with a legal code, a window, enough granules, port entries and room, sr.rs*.top of each selected
cell moves by 16 granules and the command joins its SF queue for those granules. -/
def Obligations.ExplicitResiduals : Prop :=
  ∀ (s : State) (f : EV), (s.core s.cur).spanNow = none → (regs s).inSpan = false → (regs s).revActive = false →
    let q := s.cur
    let room (i : Instr) : Prop := admitted s i true = true ∧ hasRoom s (plainReq i f.cm 2 0 (liveGuard s i)) = true
    let moves (i : Instr) (top : Nat → Nat) (base : Nat → Nat) : Prop := ∃ t, exec i s = .next t ∧ SameMemory s t ∧
      ∀ j, j < 4 → ∀ k, (f.cm.getLsbD j = true →
          (t.cell q j).qSf.length = (s.cell q j).qSf.length + 1 ∧
          ((t.cell q j).qSf.getLast? = some k → k.instr = i ∧ k.resAt = base j ∧ k.resLen = 16) ∧
          sget 0 (t.core q).arch.rsTop j = BitVec.ofNat 40 (top j)) ∧
        (f.cm.getLsbD j = false → (t.cell q j).qSf = (s.cell q j).qSf ∧ sget 0 (t.core q).arch.rsTop j = sget 0 (regs s).rsTop j)
    (srcCode f.a ≠ none → room (.rpush f) →
      (∀ j, j < 4 → f.cm.getLsbD j = true → (regs s).winSize j ≠ 0 ∧ (s.cell q j).spilled ≤ (regs s).depth j) →
      moves (.rpush f) (fun j => (regs s).depth j + 16) (fun j => (regs s).depth j)) ∧
    (dstCode f.d ≠ none → room (.rpop f) →
      (∀ j, j < 4 → f.cm.getLsbD j = true → 16 ≤ (regs s).depth j ∧ (s.cell q j).spilled ≤ (regs s).depth j) →
      moves (.rpop f) (fun j => (regs s).depth j - 16) (fun j => (regs s).depth j - 16))

/-- The requests of slot E to engines, to Trestle and to the core's own planes and tables (R422, R430 to R438): with aligned operands,
pages that translate and a completion word that may be written, the request leaves when its bundle commits.
R436: beside RGN or TEND with a true guard and a valid shadow tag PSWAP has the swap follow the drain; beside a quashed one it does
nothing; without one, or with an invalid tag, it raises ILL. The swap exchanges the planes and issue goes on at the target. -/
def Obligations.EngineRequests : Prop :=
  (∀ (s : State) (f : ER),
     let q := s.cur
     let c := s.core q
     let a := c.arch
     let xa := a.rx f.xa.toNat
     let xb := a.rx f.xb.toNat
     let xc := a.rx f.xc.toNat
     let posts (i : Instr) (t : State) (act : Action) : Prop :=
       exec i s = .next (nextSlot (t.modCore q fun c => { c with actions := c.actions ++ [(c.bid, act)] }) q)
     let pages (t : State) (va len need : Nat) (u : State) : Prop :=
       va + len ≤ 2 ^ 48 ∧ checkPages t q (t.core q).asid need (len / 4096 + 2) va (va + len - 1) = (u, none)
     let word (t : State) (spec : Word) (u : State) : Prop := specOk spec = true ∧ nfield spec 0 22 % 8 = 0 ∧
       ((spec = 0 ∨ specLocal spec = true) ∧ u = t ∨ spec ≠ 0 ∧ specLocal spec = false ∧ pages t (nfield spec 0 48) 8 2 u)
     (∀ t, Runs s (.coll f) → xa.toNat % 64 = 0 → pages s xa.toNat 192 1 t → posts (.coll f) t (.ce (quadDie q) q 0 xa 0 0 a.cecfg c.asid c.ident)) ∧
     (∀ t, Runs s (.shpin f) → 32 ≤ xc.toNat → xc.toNat ≤ 65536 → xc.toNat % 32 = 0 → pages s (nfield xb 0 48) xc.toNat 1 t →
       posts (.shpin f) t (.ce (quadDie q) q 1 xa (BitVec.ofNat 64 (nfield xb 0 48)) xc a.cecfg c.asid c.ident)) ∧
     (Runs s (.shrel f) → posts (.shrel f) s (.ce (quadDie q) q 2 xa 0 0 a.cecfg c.asid c.ident)) ∧
     (∀ t, Runs s (.nnq f) → xa.toNat % 64 = 0 → 128 ≤ xb.toNat → xb.toNat ≤ 4096 → xb.toNat % 32 = 0 → pages s xa.toNat xb.toNat 1 t →
       posts (.nnq f) t (.nnq (quadDie q) q xa.toNat xb.toNat (t.core q).asid)) ∧
     (∀ t u, Runs s (.sftab f) → xa.toNat % 64 = 0 → pages s xa.toNat 8264 1 t → word t xb u →
       posts (.sftab f) u (.sftab q (f.fn.toNat % 8) xa.toNat xb xc (u.core q).asid)) ∧
     (Runs s (.tspawn f) → xa.toNat % 64 = 0 → xa.toNat + 64 ≤ 0x40000 →
       let pd := f.fn.toNat % 32
       posts (.tspawn f) (if pd = 0 then s else s.modCore q fun c => { c with pendPreds := c.pendPreds ++ [pd] })
         (.spawn q (nfield xb 0 12) pd (bitsOfBytes 512 (a.ldmBytes xa.toNat 64)) c.asid c.binding)) ∧
     (Runs s (.natm f) → exec (.natm f) s = .next (nextSlot (writeLater s q 2 (.arrivalEntry (nfield xa 0 10))
       (BitVec.ofNat 1024 (nfield xb 0 32 + 2 ^ 32 * nfield xc 0 32 + 2 ^ 64 * (nfield xa 16 12 + 2 ^ 14 * nfield xa 30 2)))) q)) ∧
     (∀ t u, Runs s (.ovl f) → xa.toNat % 65536 = 0 → pages s xa.toNat 65536 4 t → word t xb u →
       ∃ old, posts (.ovl f) ((remember u q (u.core q).bid (.tag (1 - (u.core q).active)) old).modCore q fun c =>
         { c with tags := sset none c.tags (1 - (u.core q).active) none, ovlBusy := true }) (.ovl (u.core q).asid xa.toNat xb xc)) ∧
     (Runs s (.pparm f) → xa.toNat % 64 = 0 → xa.toNat + 128 ≤ 0x40000 →
       exec (.pparm f) s = .next (nextSlot (writeLater s q 4 (.gen (f.fn.toNat % 16)) (bitsOfBytes 1024 (a.ldmBytes xa.toNat 128))) q)) ∧
     (∀ mk ∈ ([.coll, .nnq, .sftab, .tspawn, .pparm] : List (ER → Instr)), Runs s (mk f) → xa.toNat % 64 ≠ 0 →
       exec (mk f) s = .next (slotTrap s q 3 (BitVec.ofNat 64 (xa.toNat % 2 ^ 48))))) ∧
  (∀ (s : State) (f : EI), admitted s (.pswap f) true = true →
     let q := s.cur
     let c := s.core q
     let tagged := sget none c.tags (1 - c.active) ≠ none
     (c.drainPoint = .quashed → exec (.pswap f) s = .next (nextSlot s q)) ∧
     (c.drainPoint = .rgn ∨ c.drainPoint = .tend → tagged →
       exec (.pswap f) s = .next (nextSlot (s.modCore q fun c => { c with sync := some (.pswap (f.imm.extractLsb' 0 11).toNat) }) q)) ∧
     (c.drainPoint = .none ∨ c.drainPoint ≠ .quashed ∧ ¬ tagged → exec (.pswap f) s = .next (illTrap s q)) ∧
     (∀ (x : CoreSt) (g : Nat), g < 2048 → x.active < 2 →
       let y := swapPlanes x g
       y.arch.pc = g ∧ y.sync = none ∧ y.stalled = true ∧ y.active = 1 - x.active ∧ nfield y.arch.rgn 0 11 = g ∧
       ∀ n, y.bundleAt n = sget 0 x.planes (2048 * (1 - x.active) + n % 2048)))

/-! ### Spans and the reverse walk (R222 to R246, R423 to R425) -/

/-- R423: SPAN with a well-formed descriptor opens a span: sr.rvs shows it, each cell's stack grows by its opening record, and by the
boundary records under the recompute flag; a bad address, descriptor or window raises SPAN 7.
R424: SPEND closes the open span: each cell's stack grows by its closing record and sr.rvs shows no span; without one it raises
SPAN 14. -/
def Obligations.SpanBoundaries : Prop :=
  (∀ (s : State) (f : ER), Runs s (.span f) → (regs s).walking = false →
     let q := s.cur
     let c := s.core q
     let xa := c.arch.rx f.xa.toNat
     let d : BitVec 1024 := bitsOfBytes 1024 (c.arch.ldmBytes xa.toNat 128)
     let ok := xa.toNat % 64 = 0 ∧ xa.toNat + 128 ≤ 0x40000 ∧ descOk c.arch d = true ∧ windowsOk c.arch = true
     let grow := if d.getLsbD 16 then 1 + 1024 * (boundarySrcs d).length else 1
     (c.arch.inSpan = true ∨ c.arch.revActive = true → exec (.span f) s = .next (spanFault s q 4 0)) ∧
     (c.arch.inSpan = false → c.arch.revActive = false → ¬ ok → exec (.span f) s = .next (spanFault s q 7 0)) ∧
     (c.arch.inSpan = false → c.arch.revActive = false → ok → c.slot = 4 → c.arch.pc < 2048 →
       (∀ j, j < 4 → c.arch.winSize j ≠ 0 ∧ (s.cell q j).spilled ≤ c.arch.depth j ∧ c.arch.depth j + grow < 2 ^ 40 ∧
         (grow = 1 ∨ nfield d 32 32 = 0 ∨ sget 0 c.arch.pushed j + (grow - 1) ≤ nfield d 32 32)) →
       ∃ t, exec (.span f) s = .next t ∧ SameMemory s t ∧ (t.core q).arch.inSpan = true ∧ (t.core q).arch.revActive = false ∧
         (t.core q).arch.spanDesc = d ∧ nfield (t.core q).arch.rvs 16 12 = xa.toNat / 64 ∧ nfield (t.core q).arch.rvs 28 11 = c.arch.pc ∧
         (∀ n, (t.core q).arch.rx n = c.arch.rx n ∧ (t.core q).arch.rp n = c.arch.rp n) ∧
         ∀ j, j < 4 → (t.core q).arch.depth j = c.arch.depth j + grow)) ∧
  (∀ (s : State) (f : EI), admitted s (.spend f) true = true → (regs s).revActive = false →
     let q := s.cur
     let c := s.core q
     (c.arch.inSpan = false → exec (.spend f) s = .next (spanFault s q 14 0)) ∧
     (c.arch.inSpan = true → c.slot = 4 →
       (∀ j, j < 4 → c.arch.winSize j ≠ 0 ∧ (s.cell q j).spilled ≤ c.arch.depth j ∧ c.arch.depth j + 1 < 2 ^ 40) →
       ∃ t, exec (.spend f) s = .next t ∧ SameMemory s t ∧ (t.core q).arch.inSpan = false ∧
         ∀ j, j < 4 → (t.core q).arch.depth j = c.arch.depth j + 1))

/-- R425: REV checks in its order: a span or walk in progress raises SPAN 4, a bad descriptor SPAN 7, a bundle without SPEND or without a
SPAN before it SPAN 12, a top record of another span SPAN 8, a spilled top above the stack SPAN 9; else the walk is accepted. Once the
commands of REV's bundle are done it begins at the bundle with SPEND; where it must recompute, the boundary is restored then and the
replay begins at the bundle with SPAN. -/
def Obligations.ReverseStarts : Prop :=
  ∀ (s : State) (f : EI), admitted s (.rev f) true = true →
    let q := s.cur
    let c := s.core q
    let xa := c.arch.rx f.xa.toNat
    let d : BitVec 1024 := bitsOfBytes 1024 (c.arch.ldmBytes xa.toNat 128)
    let e := (f.imm.extractLsb' 0 11).toNat
    let s1 := s.modArch q fun a => { a with spanDesc := d }
    let ok := xa.toNat % 64 = 0 ∧ xa.toNat + 128 ≤ 0x40000 ∧ descOk c.arch d = true
    let spends := ∃ g, decodeSlot .e (bundleSlot .e (c.bundleAt e)) = .spend g
    ((regs s).walking = false → c.arch.inSpan = true ∨ c.arch.revActive = true → exec (.rev f) s = .next (spanFault s q 4 0)) ∧
    ((regs s).walking = false → c.arch.inSpan = false → c.arch.revActive = false →
      (¬ ok → exec (.rev f) s = .next (spanFault s1 q 7 0)) ∧
      (ok → ¬ spends ∨ scanSpan c e 2047 1 = none → exec (.rev f) s = .next (spanFault s1 q 12 0)) ∧
      (∀ first t j, ok → spends → scanSpan c e 2047 1 = some first → topRecords s1 q d [0, 1, 2, 3] = (t, .error (j, .mismatch)) →
        exec (.rev f) s = .next (spanFault t q 8 j)) ∧
      (∀ first t j, ok → spends → scanSpan c e 2047 1 = some first → topRecords s1 q d [0, 1, 2, 3] = (t, .error (j, .above)) →
        exec (.rev f) s = .next (spanFault t q 9 j)) ∧
      (∀ first t op, ok → spends → scanSpan c e 2047 1 = some first → topRecords s1 q d [0, 1, 2, 3] = (t, .ok op) →
        exec (.rev f) s = .next (startWalk t q xa.toNat d e first op) ∧
        (let u := (startWalk t q xa.toNat d e first op).core q
         (∃ w : RevWalk, u.rev = some w ∧ w.phase = 2 ∧ w.recompute = d.getLsbD 16 ∧ w.first = first ∧ w.spend = e ∧ w.opening = op) ∧
         (d.getLsbD 16 = false → u.arch.revActive = true ∧ nfield u.arch.rvs 0 11 = e)))) ∧
    (∀ (w : RevWalk), (regs s).walking = true → c.rev = some w → w.phase = 2 →
      (w.recompute = false → ∃ t, exec (.rev f) s = .next t ∧ (t.core q).rev = some { w with phase := 1 } ∧ SameMemory s t) ∧
      (w.recompute = true → ∀ u, restoreCells s q c.arch.spanDesc w.opening [0, 1, 2, 3] = (u, none) →
        exec (.rev f) s = .next (u.modCore q fun c =>
          { c with slot := 0, rev := some { w with phase := 0 }, arch := { c.arch with pc := w.first } })))

/-- R226, R237: the inverses undo what slots A and B of one bundle wrote in place: from the registers after both, the walk gives every
register its value before, whichever slot reads the other's register (where each reads the other's, none exists: DESIGN CHOICE, log 17). -/
def Obligations.ScalarInverse : Prop :=
  ∀ (a : Arch) (fresh : Nat) (sa sb : Instr) (da db : Nat) (va vb : Word),
    let makes (i : Instr) (d : Nat) (v : Word) : Prop :=
      (∃ f : SR, f.d = f.a ∧ f.b ≠ f.d ∧ d = f.d.toNat ∧
        (i = .add f ∧ v = a.rx d + a.rx f.b.toNat ∨ i = .sub f ∧ v = a.rx d - a.rx f.b.toNat ∨
          i = .xorx f ∧ v = a.rx d ^^^ a.rx f.b.toNat ∨ i = .rot f ∧ v = (a.rx d).rotateLeft ((a.rx f.b.toNat).toNat % 64))) ∨
      (∃ f : SI, f.d = f.a ∧ d = f.d.toNat ∧
        (i = .addi f ∧ v = a.rx d + f.imm.signExtend 64 ∨ i = .xori f ∧ v = a.rx d ^^^ f.imm.signExtend 64 ∨
          i = .roti f ∧ v = (a.rx d).rotateLeft ((f.imm.extractLsb' 0 6).toNat)))
    makes sa da va → makes sb db vb → da ≠ 0 → db ≠ 0 → da ≠ db → ¬ (readsDest sa sb = true ∧ readsDest sb sa = true) →
    ∀ n, (undoBundle { a with x := sset 0 (sset 0 a.x da va) db vb } fresh sa sb).rx n = a.rx n
/-! ### The package and its host (R12 to R67) -/

/-- Boot, clock, droops and heat. A cold reset, which runs whenever the part boots or a reset is asked for, clears PCC, keys, entries
and cores, keeps memory and flash, trains ports and starts the flood exploration of bring-up (R39, R42, R45); when that one ends, the
boot ends ready or in recovery with the step that failed (R39 to R41). A push-window write changes exactly its bytes of the image (R42).
A halt and a resumption act on the one clock and no count (R20). A droop stretches the cycles from the next one, or from the open
episode's first one, to the 256th after the report (R21, R22). At 105 °C a die reports so every 256 cycles, at 115 °C the clock stops
until a reset (R29). That every cycle of an open episode is stretched is log 4, that a warning counts as a droop log 48, and that memory,
flash and generation outlive a cold reset log 53 (DEDUCED). -/
def Obligations.BootAndClock : Prop :=
  ∀ s : State,
    (resetDue s = true → step s = exec .coldReset s) ∧
    (s.bootState = 1 ∧ s.bootStep = 0 ∨ s.resetReq = true → resetDue s = true) ∧
    (Leads .coldReset s fun t =>
      SameMemory s t ∧ t.flash = s.flash ∧ t.pcc = 0 ∧ t.resetReq = false ∧ t.pkgNum = 0xFFFF ∧ (∀ k, t.keyOf k = none) ∧
      (∀ q, (t.core q).run = .stopped) ∧ (∀ n, (t.entry n).st = .free) ∧
      t.bootState = 1 ∧ t.bootStep = 3 ∧ t.explRunning = true ∧ t.explGen = s.explGen + 1) ∧
    (s.bootState = 1 → s.explRunning = true → s.explLast + 65536 ≤ s.pcc → Leads .explorationEnd s fun t =>
      t.flash = s.flash ∧ t.explRunning = false ∧
      (Config.imageReadable s.flash = false → t.bootState = 3 ∧ t.bootStep = 4 ∧ t.bootSvn = 0) ∧
      (Config.imageReadable s.flash = true →
        (shake256 (Config.imageKey s.flash) ≠ Config.keyHash ∨ Config.signatureHolds s.flash = false →
          t.bootState = 3 ∧ t.bootStep = 5 ∧ t.bootSvn = 0) ∧
        (shake256 (Config.imageKey s.flash) = Config.keyHash → Config.signatureHolds s.flash = true →
          (Config.imageSvn s.flash < Config.minSvn → t.bootState = 3 ∧ t.bootStep = 6 ∧ t.bootSvn = 0) ∧
          (Config.minSvn ≤ Config.imageSvn s.flash →
            t.bootState = 2 ∧ t.bootStep = 7 ∧ t.bootSvn = Config.imageSvn s.flash ∧ t.bootImage = s.flash)))) ∧
    (Leads .coldResetRequest s fun t => t.resetReq = true ∧ t.flash = s.flash ∧ SameMemory s t) ∧
    (Leads .imagePushWrite s fun t => SameMemory s t ∧ ∀ o, o < 0x1000000 → sget emptyByte t.flash o =
      if s.arg.a ≤ o ∧ o < s.arg.a + s.arg.bytes.length then (s.arg.bytes[o - s.arg.a]?).getD 0 else sget emptyByte s.flash o) ∧
    (Leads .debugHalt s fun t => t.clockOn = false ∧ t.pcc = s.pcc ∧ t.cores = s.cores ∧
      (s.arg.a = 0 → t.debugHalt = true) ∧ (s.arg.a ≠ 0 → t.debugHalt = s.debugHalt)) ∧
    (Leads .clockResume s fun t => t.clockOn = (s.clockOn || !s.tripped) ∧ t.pcc = s.pcc ∧ t.cores = s.cores) ∧
    (Leads .droopDetect s fun t => t.pcc = s.pcc ∧ ∀ n, stretchedNow { t with pcc := n } = true ↔
      (match s.episode with | some e => e.1 | none => s.pcc + 1) ≤ n ∧ n < s.pcc + 256) ∧
    (∀ e, s.episode = some e → Leads .stretchEpisodeEnd s fun t =>
      t.pcc = s.pcc ∧ t.episode = if e.2 + 256 ≤ s.pcc then none else some e) ∧
    (s.pcc < sget 0 s.hotDies s.arg.a → exec .thermalWarning s = .next s) ∧
    (sget 0 s.hotDies s.arg.a ≤ s.pcc → Leads .thermalWarning s fun t =>
      sget 0 t.hotDies s.arg.a = s.pcc + 256 ∧ ∃ from_, t.episode = some (from_, s.pcc)) ∧
    (Leads .thermalTrip s fun t => t.clockOn = false ∧ t.msix = s.msix ++ [0] ∧ t.pcc = s.pcc ∧
      Leads .clockResume t fun u => u.clockOn = false)

/-- Viaduct links and the PTP clock. A flit whose CRC is bad, or that is out of order, is dropped and answered at once by a nak with the
last number received in order; one that is in order is received: data flits make a message, EXPLORE flits go to the router, time flits
to the clock (R31, R32). Acknowledgements, naks and idle flits carry no number (DEDUCED, log 50). A nak has every flit after its
number replayed in order, each counted apart (R32). A port one of whose flits was replayed 16 times retrains, or goes down with MSI-X
vector 0 (R33). A time flit on the selected port, a PPS edge and a write to PTPSET set the clock under the sources that R60 gives them.
Flood exploration. It starts, with a new generation and a probe on every trained lane of the control die, when no entry runs or
completes (R34, R37). A router that accepts a probe takes its port as parent, reports there and probes its other lanes with one hop
more; it drops a probe it does not accept (R34). A report travels on to the parent and is kept by the boot processor; one of this
package's number that comes in from outside sets dup (R37, R38). When no report has come for 65,536 cycles the tables are rewritten from
the reports (R18, R35, R36), and with the links of the standard package the latencies are those of R14. That a report of this package's number from outside is not kept
is log 49, that a retrain clears the counts of replays and keeps the flits log 64, and that an edge moves the clock to the nearest second
log 66 (the model's choices). -/
def Obligations.LinksAndExploration : Prop :=
  (∀ s : State,
     let p := s.arg.a
     let v := s.port p
     let f := s.arg.wide
     let numbered := flitType f = 0 ∨ 4 ≤ flitType f
     (v.up = true → flitGood f = false ∨ numbered ∧ flitSeq f ≠ v.rxNext → Leads .flitReceive s fun t =>
       t.ports = s.ports ∧ t.explFlits = s.explFlits ∧ t.msgs = s.msgs ∧
       t.hostOut = s.hostOut ++ [.flit p (sealFlit (rawFlit 2 0) v.txSeq ((v.rxNext + 4095) % 4096))]) ∧
     (v.up = true → flitGood f = true → numbered → flitSeq f = v.rxNext → Leads .flitReceive s fun t =>
       (t.port p).rxNext = (v.rxNext + 1) % 4096 ∧
       t.explFlits = s.explFlits ++ (if flitType f = 4 then [(0, 16 + p, f)] else []) ∧
       (flitType f = 5 → ∃ x, t.inputs = (.timeFlitReceive, x) :: s.inputs ∧ x.a = p) ∧
       (flitType f = 0 → Config.payloadMessage (v.rxData ++ [flitPayload f]) = none →
         (t.port p).rxData = v.rxData ++ [flitPayload f] ∧ t.msgs = s.msgs) ∧
       (∀ m, flitType f = 0 → Config.payloadMessage (v.rxData ++ [flitPayload f]) = some m → (∀ x, m ≠ .transfer x) → m.away s = none →
         (t.port p).rxData = [] ∧ t.msgs = s.msgs ++ [m])) ∧
     (v.up = true → flitGood f = true → ¬ numbered → Leads .flitReceive s fun t =>
       (t.port p).rxNext = v.rxNext ∧ t.explFlits = s.explFlits ∧ t.msgs = s.msgs ∧
       (flitType f = 2 → ∃ x, t.inputs = (.nakReceive, x) :: s.inputs ∧ x.a = p ∧ x.b = flitAck f)) ∧
     (v.up = false → exec .flitReceive s = .next s) ∧
     (∀ i, v.up = true → (v.replay.findIdx? fun g => flitSeq g == s.arg.b) = some i → i + 1 < v.replay.length →
       (∀ n ∈ v.replays.drop (i + 1), n < 16) → Leads .nakReceive s fun t =>
         t.hostOut = s.hostOut ++ (v.replay.drop (i + 1)).map (fun g => .flit p (sealFlit g (flitSeq g) v.lastRx)) ∧
         (t.port p).replays = (v.replays.drop (i + 1)).map (· + 1) ∧ (t.port p).acked = s.arg.b) ∧
     (∀ i, v.up = true → (v.replay.findIdx? fun g => flitSeq g == s.arg.b) = some i → (∃ n ∈ v.replays.drop (i + 1), 16 ≤ n) →
       Leads .nakReceive s fun t => t.hostOut = s.hostOut) ∧
     (v.up = true → v.replay ≠ [] → (v.replay.findIdx? fun g => flitSeq g == s.arg.b) = none → (∀ n ∈ v.replays, n < 16) →
       Leads .nakReceive s fun t =>
         t.hostOut = s.hostOut ++ v.replay.map (fun g => .flit p (sealFlit g (flitSeq g) v.lastRx)) ∧
         (t.port p).replays = v.replays.map (· + 1)) ∧
     (v.up = true → (∃ n ∈ v.replays, 16 ≤ n) →
       (s.arg.b ≠ 0 → Leads .portRetrain s fun t => (t.port p).up = true ∧ (∀ n ∈ (t.port p).replays, n = 0) ∧ t.msix = s.msix) ∧
       (s.arg.b = 0 → Leads .portRetrain s fun t => (t.port p).up = false ∧ t.msix = s.msix ++ [0])) ∧
     (v.up = false ∨ (∀ n ∈ v.replays, n < 16) → exec .portRetrain s = .next s) ∧
     ((s.ptpSource = 1 ∨ s.ptpSource = 2) → s.ptpPort.toNat = p → v.up = true → s.arg.b < 2 ^ 48 → s.arg.c < 10 ^ 9 →
       Leads .timeFlitReceive s fun t => t.ptp = (s.arg.b * 10 ^ 9 + s.arg.c) * nsUnits ∧ t.ptpLocked = true) ∧
     (Leads .ppsEdge s fun t => t.ppsSeen = true ∧ (s.ptpSource ≠ 2 → t.ptp = s.ptp) ∧
       (s.ptpSource = 2 → 10 ^ 9 * nsUnits ∣ t.ptp ∧ 2 * t.ptp ≤ 2 * s.ptp + 10 ^ 9 * nsUnits ∧ 2 * s.ptp < 2 * t.ptp + 10 ^ 9 * nsUnits)) ∧
     (s.ptpSource ≠ 0 → exec .ptpTimeSet s = .next s) ∧
     (s.ptpSource = 0 → s.arg.a < 2 ^ 48 → s.arg.b < 10 ^ 9 → Leads .ptpTimeSet s fun t =>
       t.ptp = (s.arg.a * 10 ^ 9 + s.arg.b) * nsUnits ∧ t.ptpLocked = true)) ∧
  (∀ s : State,
     let d := s.arg.a
     let p := s.arg.b
     let f := s.arg.wide
     let trained (a i : Nat) (x : Nat × Nat) : Prop := lanePeer a i = some x ∧ (a, i) ∉ s.lanesDown
     (Leads .explorationRequest s fun t => t.explGo = true ∧ t.routes = s.routes ∧ t.latTable = s.latTable) ∧
     (explorationDue s = false → exec .explorationStart s = .next s) ∧
     (explorationDue s = true → Leads .explorationStart s fun t =>
       t.explRunning = true ∧ t.explGen = s.explGen + 1 ∧ t.pkgUsed = (if s.pkgNum = 0xFFFF then 0 else s.pkgNum) ∧
       t.explLast = s.pcc ∧ (∃ r, t.reports = [r] ∧ r.pkg = t.pkgUsed.toNat ∧ r.die = 0) ∧
       ∀ i x, i < 9 → trained 0 i x → (x.1, x.2, probeFlit 0 t.pkgUsed.toNat i 0 t.explGen) ∈ t.explFlits) ∧
     (explKind f ≠ 0 ∨ acceptsProbe s d p (explHop f) (explGenOf f) = false → exec .exploreProbe s = .next s) ∧
     (explKind f = 0 → acceptsProbe s d p (explHop f) (explGenOf f) = true → Leads .exploreProbe s fun t =>
       (t.die d).parent = some (p, explHop f, explGenOf f) ∧
       (∀ x, p < 9 → trained d p x → (x.1, x.2, reportFlit s d (explHop f) p (explGenOf f)) ∈ t.explFlits) ∧
       ∀ i x, i < 9 → i ≠ p → explHop f < 15 → trained d i x →
         (x.1, x.2, probeFlit (explHop f + 1) s.pkgUsed.toNat i d (explGenOf f)) ∈ t.explFlits) ∧
     (∀ h, explKind f = 1 →
       (∀ i x, (s.die d).parent = some (i, h, explGenOf f) → i < 9 → trained d i x → Leads .exploreReport s fun t =>
         t.explFlits = s.explFlits ++ [(x.1, x.2, f)] ∧ t.reports = s.reports) ∧
       ((s.die d).parent = some (255, h, explGenOf f) → d = 0 → s.explRunning = true →
         ((readReport f p).pkg = s.pkgUsed.toNat → 16 ≤ p → Leads .exploreReport s fun t =>
           t.explDup = true ∧ t.reports = s.reports ∧ t.explLast = s.pcc) ∧
         ((readReport f p).pkg ≠ s.pkgUsed.toNat ∨ p < 16 →
           (s.reports.find? fun x => x.pkg == (readReport f p).pkg && x.die == (readReport f p).die) = none →
           Leads .exploreReport s fun t => t.reports = s.reports ++ [readReport f p] ∧ t.explLast = s.pcc))) ∧
     (s.explRunning = true → s.pcc < s.explLast + 65536 → exec .explorationEnd s = .next s) ∧
     (s.bootState ≠ 1 → s.explRunning = true → s.explLast + 65536 ≤ s.pcc → Leads .explorationEnd s fun t =>
       t.explRunning = false ∧ t.explGo = false ∧ t.latTable = computedTable (reportGraph s) ∧ t.routes = routesOf s (reportGraph s) ∧
       (t.explChanged = true ↔ s.explChanged = true ∨ t.latTable ≠ s.latTable))) ∧
  (let g : Graph := (List.range 10).map fun d => (lanes d).map fun x => (x.1, x.2, Config.standardHop d x.2)
   let l := computedLat g
   ∀ a < 10, ∀ b < 10, l a b = l b a ∧ l a a = 0 ∧ l 0 9 = 16 ∧
     (1 ≤ a → a ≤ 8 → l 0 a = 20 ∧ l 9 a = 38 ∧
       (1 ≤ b → b ≤ 8 → a ≠ b → l a b = match (a + 8 - b) % 8 with | 1 | 7 => 12 | 2 | 6 => 26 | _ => 42)))

/-- Keys, counters, logs and the host's accesses. KEYCTL takes a load or a clear, and ignores both while an update is in progress
(R44, R45). A register takes a written value by its access codes (R6, R7). A counter that wraps shows ovf, and sends MSI-X vector 1 where it is asked to (R46, R47). A tail pointer moves where at most
256 records stay unread, and written ones clear dropped counts (R28, R100, R139). BAR4 under an invalid key slot is aborted or discarded;
otherwise, no line being cached, a read answers the bytes and a write changes exactly its bytes, as that slot reads them; what lies beyond the configured size
of BAR4 is not the device's (R50, R51, R195). An arrival-match entry is written in the next cycle, whole or by halves, with its reserved
bits zero (R127); a shootdown drops what it names (R180). A host's read of up to 64 bytes of BAR0 or BAR2 answers the registers as they
stand: write-only ones and reserved bits as zero (R6, R7), the latency table (R18), pcc (R19), the records of the die logs (R28), the
counters (R48), the push window as zero and, in the recovery state, nothing else (R41, R42), and a slot with valid 1 only while it holds
an entry (R57). The model's choices: BAR4 bytes lie under home mode 00 (log 28), accesses beyond its size are passed over (log 59), a
dropped count is cleared whatever becomes of the tail (log 65), and the bytes of a free slot (log 66). -/
def Obligations.HostWrites : Prop :=
  ∀ s : State,
    let w := s.arg.word
    let d := s.arg.a
    (∀ u, s.keyPend = some u → exec .keySlotLoad s = .next s ∧ exec .keySlotClear s = .next s) ∧
    (s.keyPend = none →
      (Leads .keySlotLoad s fun t => t.keyPend = some (d, some s.keyData) ∧ t.keys = s.keys) ∧
      (Leads .keySlotClear s fun t => t.keyPend = some (d, none) ∧ t.keys = s.keys)) ∧
    (d = 0 → exec .registerWrite s = .next s) ∧
    (d ∈ [0x10, 0x18, 0x400, 0x500, 0x550, 0x600, 0x3000] → Leads .registerWrite s fun t => SameMemory s t ∧
      t.pkgNum = (if d = 0x18 then w.extractLsb' 0 16 else s.pkgNum) ∧
      t.w4base = (if d = 0x400 then w &&& 0x000FFFFFC000007F else s.w4base) ∧
      t.ptpSource = (if d = 0x500 then w.extractLsb' 0 2 else s.ptpSource) ∧
      t.ptpPort = (if d = 0x500 then w.extractLsb' 2 5 else s.ptpPort) ∧
      t.ppsSeen = (s.ppsSeen && !(d == 0x500 && w.getLsbD 8)) ∧
      t.ptpRate = (if d = 0x550 then w.extractLsb' 0 32 else s.ptpRate) ∧
      t.loadAddr = (if d = 0x600 then w else s.loadAddr) ∧
      t.explChanged = (s.explChanged && !(d == 0x10 && w.getLsbD 1)) ∧ t.explDup = (s.explDup && !(d == 0x10 && w.getLsbD 2)) ∧
      t.inputs = (if d = 0x10 ∧ w.getLsbD 0 then [(.explorationRequest, EvArg.none)] else []) ++ s.inputs ∧
      t.keyPend = (if d = 0x3000 ∧ s.keyPend = none ∧ (w.getLsbD 8 || w.getLsbD 9) then
        some (nfield w 0 7, if w.getLsbD 9 then none else some s.keyData) else s.keyPend)) ∧
    (Leads .counterWrap s fun t => SameMemory s t ∧
      (d < 256 →
        sget ecselReset (t.core d).arch.es s.arg.b = sget ecselReset (s.core d).arch.es s.arg.b ||| 0x1000 ∧
        t.msix = s.msix ++ if (sget ecselReset (s.core d).arch.es s.arg.b).getLsbD 13 then [1] else []) ∧
      (256 ≤ d →
        sget ecselReset (t.die (d - 256)).ecsel s.arg.b = sget ecselReset (s.die (d - 256)).ecsel s.arg.b ||| 0x1000 ∧
        t.msix = s.msix ++ if (sget ecselReset (s.die (d - 256)).ecsel s.arg.b).getLsbD 13 then [1] else [])) ∧
    (let tail := nfield w 16 9
     let moved (head old : Nat) : Nat := if (head + 512 - tail) % 512 ≤ 256 then tail else old
     (Leads .dieLogTailWrite s fun t =>
       (t.die d).deTail = moved (s.die d).deHead (s.die d).deTail ∧ (t.die d).deHead = (s.die d).deHead ∧
       (nfield w 32 16 = 65535 → (s.die d).deDropped < 65536 → (t.die d).deDropped = 0)) ∧
     (Leads .stackLogTailWrite s fun t =>
       (t.stack d).seTail = moved (s.stack d).seHead (s.stack d).seTail ∧ (t.stack d).seHead = (s.stack d).seHead ∧
       (nfield w 32 16 = 65535 → (s.stack d).seDropped < 65536 → (t.stack d).seDropped = 0)) ∧
     (Leads .slipLogTailWrite s fun t =>
       t.slTail = moved s.slHead s.slTail ∧ t.slHead = s.slHead ∧ (nfield w 32 16 = 65535 → s.slDropped < 65536 → t.slDropped = 0))) ∧
    (s.keyOf (nfield s.w4base 0 7) = none →
      exec .hostBar4Write s = .next s ∧
      (d + s.arg.b ≤ 2 ^ s.bar4Bits → exec .hostBar4Read s = .next { s with hostOut := s.hostOut ++ [.readAbort] })) ∧
    (2 ^ s.bar4Bits < d + s.arg.b → exec .hostBar4Read s = .next s) ∧
    (2 ^ s.bar4Bits < d + s.arg.bytes.length → exec .hostBar4Write s = .next s) ∧
    (∀ k n, s.keyOf (nfield s.w4base 0 7) = some k → (s.die 0).rdc = [] →
      let a := nfield s.w4base 30 22 * 2 ^ 30 + d
      (n = s.arg.b → d + n ≤ 2 ^ s.bar4Bits → a + n ≤ 2 ^ 40 → Leads .hostBar4Read s fun t => SameMemory s t ∧
        t.hostOut = s.hostOut ++ [.readData ((List.range n).map fun i => s.byteUnder k ((a + i) / 64) (a + i))]) ∧
      (n = s.arg.bytes.length → d + n ≤ 2 ^ s.bar4Bits → a + n ≤ 2 ^ 40 → Leads .hostBar4Write s fun t =>
        ∀ b, t.byteUnder k (b / 64) b =
          if a ≤ b ∧ b < a + n then (s.arg.bytes[b - a]?).getD 0 else s.byteUnder k (b / 64) b)) ∧
    (∀ bar o n r base, s.hostAsks = .read bar o n :: r → resetDue s = false → n ≤ 64 →
      (bar = 0 ∧ base = 0 ∧ o + n ≤ 0x04000000) ∨ (bar = 2 ∧ base = 0x04000000 ∧ o + n ≤ 0x80000) →
      ∃ t bytes, step s = .next t ∧ SameMemory s t ∧ t.hostAsks = r ∧ t.cores = s.cores ∧ t.dies = s.dies ∧ t.entries = s.entries ∧
        t.hostOut = s.hostOut ++ [.register bar o bytes] ∧ bytes.length = n ∧
        ∀ i < n, ∀ v, registerRead s ((base + o + i) / 8 * 8) = some v →
          bytes[i]? = some (v.extractLsb' ((o + i) % 8 * 8) 8)) ∧
    (s.bootState ≠ 3 →
      registerRead s 0x18 = some (s.pkgNum.setWidth 64) ∧ registerRead s 0x400 = some s.w4base ∧
      registerRead s 0x600 = some s.loadAddr ∧ registerRead s 0x700 = some s.surfBase ∧
      (∀ o ∈ [0x540, 0x548, 0x828, 0x3100, 0x3108, 0x3110, 0x3118, 0x3120, 0x3128, 0x3130, 0x3138], registerRead s o = some 0) ∧
      (∃ v, registerRead s 0x3000 = some v ∧ v.extractLsb' 0 7 = s.keySlotSel ∧ v.extractLsb' 7 3 = 0 ∧
        v.getLsbD 10 = s.keyPend.isSome ∧ v.extractLsb' 11 53 = 0) ∧
      (∀ a b, a < 10 → b < 10 → ∃ v, registerRead s (0x2000 + (16 * a + b) / 8 * 8) = some v ∧
        v.extractLsb' ((16 * a + b) % 8 * 8) 8 = sget 0 s.latTable (16 * a + b)) ∧
      (∀ k < 10, registerRead s (0x01000000 + 0x100000 * k) = some (BitVec.ofNat 64 s.pcc)) ∧
      (∀ k < 10, ∀ n < 256, ∀ i < 4, registerRead s (0x01008000 + 0x100000 * k + 32 * n + 8 * i) =
        some ((sget 0 (s.die k).dlog n).extractLsb' (64 * i) 64)) ∧
      (∀ q < 256, ∀ i < 4, registerRead s (0x02100000 + 0x40 * q + 16 * i) = some ((sget ecselReset (s.core q).arch.es i).setWidth 64) ∧
        registerRead s (0x02100008 + 0x40 * q + 16 * i) = some ((sget 0 (s.core q).ec i).setWidth 64))) ∧
    (s.bootState = 3 → ∀ o, o % 8 = 0 → 8 < o → o < 0x03000000 → registerRead s o = none) ∧
    (∀ o, o % 8 = 0 → 0x03000000 ≤ o → o < 0x04000000 → registerRead s o = some 0) ∧
    (∀ n < 4096, ∀ i < 8, ∃ v, registerRead s (0x04000000 + 64 * n + 8 * i) = some v ∧
      v = if i = 7 then
          ((if (s.entry n).st = .free then sget 0 s.slotBytes n else (s.entry n).image).extractLsb' 448 64 &&& ~~~((1 : Word) <<< 63)) |||
            (if (s.entry n).st = .free then (0 : Word) else (1 : Word) <<< 63)
        else (if (s.entry n).st = .free then sget 0 s.slotBytes n else (s.entry n).image).extractLsb' (64 * i) 64) ∧
    (Leads .arrivalEntryWrite s fun t => SameMemory s t ∧ t.cores = s.cores ∧ ∃ p, t.hostWrites = s.hostWrites ++ [(0, p)] ∧
      p.due = s.pcc + 1 ∧
      (s.arg.b = 0 → p.dst = .arrivalEntry d ∧
        p.val.extractLsb' 0 76 = s.arg.wide.extractLsb' 0 76 ∧ p.val.extractLsb' 78 2 = s.arg.wide.extractLsb' 78 2 ∧
        p.val.extractLsb' 76 2 = 0 ∧ p.val.extractLsb' 80 944 = 0) ∧
      (s.arg.b = 1 → p.dst = .arrivalHalf d 0 ∧ p.val.extractLsb' 0 64 = s.arg.wide.extractLsb' 0 64 ∧ p.val.extractLsb' 64 960 = 0) ∧
      (s.arg.b = 2 → p.dst = .arrivalHalf d 1 ∧ p.val.extractLsb' 0 12 = s.arg.wide.extractLsb' 0 12 ∧
        p.val.extractLsb' 14 2 = s.arg.wide.extractLsb' 14 2 ∧ p.val.extractLsb' 12 2 = 0 ∧ p.val.extractLsb' 16 1008 = 0)) ∧
    (s.tlbInv.getLsbD 63 = true → exec .tlbShootdown s = .next s) ∧
    (s.tlbInv.getLsbD 63 = false → Leads .tlbShootdown s fun t =>
      t.tlbInv.getLsbD 63 = true ∧ SameMemory s t ∧ t.tlbSince = s.pcc ∧
      (∀ q < 256, (t.core q).tlb = (s.core q).tlb.filter fun e => !(tlbNamed w e)) ∧
      ∀ n < 10, (t.die n).tlb = (s.die n).tlb.filter fun e => !(tlbNamed w e))

/-- The launch window, arrivals and the loader. Bytes are stored into a free slot and no other (R57); a commit captures the 64 bytes or
is rejected with its reason, changing nothing but LSTAT (R55, R56). A decrement lowers a waiting entry's count, any other is stray once
its cycle has ended (R123, R124); an arrived message acts through the lowest entry that matches it (R127). A new origin waits for a
boundary and places the frames from there (R61). The loader ends done or refused, with MSI-X vector 2 at each change (R66). The model's
choices: the order of the reasons (log 66), reason 2 for a quad that the binding does not name (log 38), status 2 after an unload (log 19). -/
def Obligations.LaunchAndLoad : Prop :=
  ∀ s : State,
    let k := s.arg.a
    let e := s.entry k
    let bs := s.arg.bytes
    let m := slotImage s k s.arg.word
    let again : Nat := if e.origin = 1 ∧ e.captured < s.pcc then 4 else 1
    let before := decide (2 ^ 31 ≤ (imgFrame m + 2 ^ 32 - s.frame.toNat) % 2 ^ 32)
    let free := Entry.free
    let taken := { free with st := .waiting, image := m, count := imgDeps m, captured := s.pcc, binding := hostBinding s m, passed := before }
    let rejected (reason : Nat) (t : State) : Prop :=
      t = { s with lstatRejected := s.lstatRejected + 1, lstatSlot := k, lstatReason := reason }
    (e.st = .free → s.arg.b + bs.length ≤ 64 → Leads .launchSlotWrite s fun t => t.entries = s.entries ∧
      ∀ i < 64, (sget 0 t.slotBytes k).extractLsb' (8 * i) 8 =
        if s.arg.b ≤ i ∧ i < s.arg.b + bs.length then (bs[i - s.arg.b]?).getD 0 else (sget 0 s.slotBytes k).extractLsb' (8 * i) 8) ∧
    (e.st ≠ .free → Leads .launchSlotWrite s (rejected again)) ∧
    (s.arg.word.getLsbD 31 = false → exec .entryCommit s = .next s) ∧
    (s.arg.word.getLsbD 31 = true →
      let named := imgNest m = true ∨ ∃ l, physAll (hostBinding s m) ((List.range (imgCount m)).map fun i => imgFirst m + i) = some l
      (e.st ≠ .free → Leads .entryCommit s (rejected again)) ∧
      (e.st = .free → imgRangeOk m = false → Leads .entryCommit s (rejected 2)) ∧
      (e.st = .free → imgRangeOk m = true → imgReservedOk m = false → Leads .entryCommit s (rejected 3)) ∧
      (e.st = .free → imgRangeOk m = true → imgReservedOk m = true → ¬ named → Leads .entryCommit s (rejected 2)) ∧
      (e.st = .free → imgRangeOk m = true → imgReservedOk m = true → named → k ∉ s.decs → Leads .entryCommit s fun t =>
        t.entry k = taken ∧
        t.lstatRejected = s.lstatRejected ∧ ∀ n, n ≠ k → t.entry n = s.entry n)) ∧
    (e.st = .waiting → 0 < e.count → Leads .hostDepDecrement s fun t =>
      t.entry k = { e with count := e.count - 1 } ∧ t.stray = s.stray ∧ ∀ n, n ≠ k → t.entry n = s.entry n) ∧
    (e.st = .free → Leads .hostDepDecrement s fun t => t = { s with decs := s.decs ++ [k] }) ∧
    (e.st ≠ .free → ¬ (e.st = .waiting ∧ 0 < e.count) → Leads .hostDepDecrement s fun t =>
      t = { s with stray := min (s.stray + 1) 0xFFFFFFFF }) ∧
    (∀ tag len port, s.tagged = [(tag, len, port)] →
      let hit (v : BitVec 128) : Bool := v.getLsbD 79 && v.extractLsb' 0 32 == tag && nfield v 32 32 == len
      (s.arrivalTable.find? (fun p => hit p.2) = none → Leads .arrivalMatch s fun t =>
        t = { s with tagged := [], unmatched := min (s.unmatched + 1) 0xFFFFFFFF }) ∧
      (∀ n v, s.arrivalTable.find? (fun p => hit p.2) = some (n, v) → (s.entry (nfield v 64 12)).st = .waiting →
        0 < (s.entry (nfield v 64 12)).count → Leads .arrivalMatch s fun t =>
          t.tagged = [] ∧ (t.entry (nfield v 64 12)).count + 1 = (s.entry (nfield v 64 12)).count ∧ t.unmatched = s.unmatched ∧
          (sget 0 t.arrivalTable n).getLsbD 79 = v.getLsbD 78)) ∧
    (s.arg.a < 2 ^ 48 → s.arg.b < 10 ^ 9 →
      Leads .foriginWrite s fun t => t = { s with foriginNew := some (s.arg.a * 10 ^ 9 + s.arg.b) }) ∧
    (Leads .foriginWrite s fun t => ∃ o, t.foriginNew = some o ∧ t.forigin = s.forigin ∧ t.entries = s.entries) ∧
    (switchDue s = false → exec .frameOriginSwitch s = .next s) ∧
    (∀ o, s.foriginNew = some o → switchDue s = true → Leads .frameOriginSwitch s fun t =>
      t.forigin = o ∧ t.foriginNew = none ∧ t.slipNs = 0 ∧ t.entries = s.entries ∧
      (s.ptp < o * nsUnits → t.owait = true ∧ t.frame = s.frame) ∧
      (o * nsUnits ≤ s.ptp → t.owait = false ∧ ∃ n, t.frame = BitVec.ofNat 32 n ∧
        o * nsUnits + n * frameUnits ≤ s.ptp ∧ s.ptp < o * nsUnits + (n + 1) * frameUnits)) ∧
    (let load := loadImage (loaderStatus s 1) s.loadAddr.toNat (Config.loaderKey s.loadAddr).toNat
     (load = none → Leads .loaderStart s fun t => t = { s with loadStatus := 3, msix := s.msix ++ [2, 2] }) ∧
     (∀ u, load = some u → Leads .loaderStart s fun t =>
       t.loadStatus = 2 ∧ t.msix = u.msix ++ [2] ∧ ∃ i ∈ t.images, i.addr = s.loadAddr.toNat)) ∧
    ((s.images.find? fun i => i.addr == s.loadAddr.toNat) = none → Leads .loaderUnload s fun t =>
      t = { s with loadStatus := 3, msix := s.msix ++ [2, 2] }) ∧
    (∀ i, (s.images.find? fun i => i.addr == s.loadAddr.toNat) = some i →
      let used := ∃ p ∈ s.entries, p.2.st ≠ .free ∧ i.holdsCode (imgAsid p.2.image) (imgCode p.2.image) = true
      (used → Leads .loaderUnload s fun t => t = { s with loadStatus := 3, msix := s.msix ++ [2, 2] }) ∧
      (¬ used → Leads .loaderUnload s fun t => t = { s with
        loadStatus := 2, msix := s.msix ++ [2, 2], images := s.images.filter fun x => x.addr != s.loadAddr.toNat }))

/-- Attestation and the monitor. A supported SPDM request has its answer, NEGOTIATE_ALGORITHMS the algorithms, CHALLENGE and a
GET_MEASUREMENTS that asks for it the device's signature over the SHA-384 digest of what was exchanged, GET_MEASUREMENTS the
measurements of R53, the first the SHA-384 digest of the running image; any other has the error UnsupportedRequest (R53; the answers'
bytes, the image's bytes and the signature are the model's free values, log 9). The monitor's break, run and cont set breakpoints and
start the clock, and what it shows changes no unit and no memory (R274, R445, R448). -/
def Obligations.MonitorAndAttestation : Prop :=
  ∀ s : State,
    let told (m : HostMsg) (t : State) : Prop := t = { s with hostOut := s.hostOut ++ [m] }
    let q := s.arg.a
    let answered (u : State) (code : Nat) : State := { u with
      hostOut := u.hostOut ++ [.spdm (Config.spdmAnswer code s.arg.bytes)]
      transcript := u.transcript ++ s.arg.bytes ++ Config.spdmAnswer code s.arg.bytes }
    let tells (u : State) (l : List HostMsg) : State := { u with hostOut := u.hostOut ++ l }
    let signed (u : State) : State :=
      tells { u with fresh := u.fresh + 1 } [.signature (Config.deviceSignature (sha384 u.transcript) u.fresh)]
    (∀ x ∈ ([(.spdmGetCapabilities, 0xE1), (.spdmGetDigests, 0x81), (.spdmGetCertificate, 0x82)] : List (Instr × Nat)),
      Leads x.1 s fun t => t = answered s x.2) ∧
    (Leads .spdmGetVersion s fun t => t = answered { s with transcript := [] } 0x84) ∧
    (Leads .spdmNegotiateAlgorithms s fun t => t = tells (answered s 0xE3) [.algorithms 0x80 0x2]) ∧
    (Leads .spdmChallenge s fun t => t = signed (answered s 0x83)) ∧
    (∀ n f, (s.arg.bytes[3]?).getD 0 = n → (s.arg.bytes[2]?).getD 0 = f → Leads .spdmGetMeasurements s fun t =>
      let all : List HostMsg := [.measurement 1 (sha384 (Config.firmwareBytes s.bootImage)),
        .measurement 2 (bytesOf Config.keyHash 32), .measurement 3 (bytesOf s.bootSvn 4)]
      let u := tells (answered s 0xE0) (if n = 0xFF then all else (all.drop (n.toNat - 1)).take (min n.toNat 1))
      t = if f.getLsbD 0 then signed u else u) ∧
    (Leads .spdmUnsupported s (told (.spdm [0x13, 0x7F, 0x07, (s.arg.bytes[1]?).getD 0]))) ∧
    (Leads .monitorAttach s fun t => t = { s with monitor := true }) ∧
    (Leads .monitorDetach s fun t => t = { s with monitor := false }) ∧
    (Leads .gwynBreak s fun t => s.arg.b ∈ (t.core q).breaks ∧ (∀ n ∈ (t.core q).breaks, n = s.arg.b ∨ n ∈ (s.core q).breaks) ∧
      (t.core q).arch = (s.core q).arch ∧ t.cells = s.cells ∧ SameMemory s t ∧ t.clockOn = s.clockOn) ∧
    (∀ i ∈ ([.gwynRun, .gwynCont] : List Instr), s.tripped = false → Leads i s fun t =>
      t = { s with clockOn := true, debugHalt := false }) ∧
    (∀ n, s.arg.view = .scalar n → Leads .gwynPrint s (told (.shown (bytesOf ((s.core q).arch.rx (n % 64)) 8)))) ∧
    (∀ n, s.arg.view = .pred n → Leads .gwynPrint s (told (.shown (bytesOf ((s.core q).arch.rp (n % 32)) 64)))) ∧
    (∀ n, s.arg.view = .generator n → Leads .gwynPrint s (told (.shown (bytesOf (sget 0 (s.core q).arch.gens (n % 16)) 128)))) ∧
    (∀ n w, s.arg.view = .system n → sysRead s q n = some w → Leads .gwynPrint s (told (.shown (bytesOf w 8)))) ∧
    (∀ c r a b w, s.arg.view = .vector c r a b w → Leads .gwynPrint s (told (.shown
      (((rowBytes (sget 0 (s.cell q c).acc r)).drop (a * w / 8)).take ((b + 1 - a) * w / 8))))) ∧
    (Leads .gwynMem s fun t => ∃ bs, told (.shown bs) t) ∧
    (∀ p u, translate s (.engine 0) (s.core q).asid s.arg.b 1 = (u, .ok p) → (s.die 0).rdc = [] → (s.die 0).late = none →
      s.arg.c = 8 → s.arg.b % 4096 + s.arg.d ≤ 4096 → p.pa + s.arg.d ≤ 2 ^ 40 → ∀ k, s.keyOf p.key = some k →
      Leads .gwynMem s (told (.shown ((List.range s.arg.d).map fun i =>
        s.byteUnder k ((p.pa + i) / 64) (storageAddr p.home (p.pa + i)))))) ∧
    (Leads .gwynSpm s (told (.shown ((s.cell q s.arg.b).spmBytes s.arg.c (s.arg.d * s.arg.e / 8))))) ∧
    (∀ p u, translate s (.core s.arg.b) (s.core s.arg.b).asid s.arg.c 0 = (u, .ok p) →
      (rdcFind (s.die q).rdc (p.pa / 128) = none → Leads .gwynRdc s (told (.rdcLine false 0 []))) ∧
      (∀ l, rdcFind (s.die q).rdc (p.pa / 128) = some l → p.pa % 128 + s.arg.d * s.arg.e / 8 ≤ 128 → Leads .gwynRdc s
        (told (.rdcLine true l.dirty (((bytesOf l.data 128).drop (p.pa % 128)).take (s.arg.d * s.arg.e / 8)))))) ∧
    (Leads .gwynRdc s fun t => ∃ m, told m t)

/-- Answers to a core. A reply that matches no open request is discarded (R27); that of a load fills its request, whose register is then
written, or whose status or poison traps at its bundle (R75, R349). A request open for the limit is completed by its requester with a
record (R25, R26). WAITA returns when its condition holds or its time-out has passed, and else reads again (R361 to R363). An overlay, a
prefetch and a table take effect as R366, R422 and R435 say; a causal line is dropped at its 4,096th cycle (R185). That an act tells
which request of an engine (operand 256 + die) or of a WAITA goes unanswered is log 61 (DESIGN CHOICE), that a prefetch with token spec 0
writes nothing log 44 (DEDUCED). -/
def Obligations.Replies : Prop :=
  ∀ s : State,
    let q := s.arg.a
    let c := s.core q
    (∀ r, s.replies[q]? = some r → r.die = 0 → r.op ≠ 4 →
      let open_ := (s.core r.agent).lsq.find? fun m => m.tag == r.tag && m.gen == r.gen && m.phase == 1
      (open_ = none → Leads .replyReceive s fun t => t = { s with replies := s.replies.eraseIdx q }) ∧
      (∀ m, open_ = some m → m.kind = .load → Leads .replyReceive s fun t =>
        t.replies = s.replies.eraseIdx q ∧ (t.core r.agent).lsq = (s.core r.agent).lsq.map fun x =>
          if x.tag = m.tag ∧ x.gen = m.gen then { x with
            phase := 2, status := if r.status = 5 then 0 else r.status,
            pois := r.pmask.testBit ((r.pa % 64 + (m.place.pa - r.pa)) / 64) || r.status == 5,
            result := bitsOfBytes 64 ((r.data.drop (m.place.pa - r.pa)).take m.len) } else x) ∧
      (∀ m, open_ = some m → m.kind = .store → r.status = 0 → Leads .replyReceive s fun t =>
        (t.core r.agent).lsq = (s.core r.agent).lsq.filter (fun x => !(x.tag == m.tag && x.gen == m.gen)) ∧
        (t.core r.agent).deferred = (s.core r.agent).deferred)) ∧
    (256 ≤ q → Leads .requestTimeout s fun t => t = s.modDie (q - 256) fun x => { x with late := x.late <|> some s.pcc }) ∧
    (∀ w, q < 256 → s.arg.b = waitaTag → c.waita = some w → specLocal w.spec = false → Leads .requestTimeout s fun t =>
      (t.core q).waita = some { w with lost := w.lost <|> some s.pcc } ∧ SameMemory s t) ∧
    (∀ m, q < 256 → s.arg.b ≠ waitaTag → c.lsq.find? (fun m => m.tag == s.arg.b && m.lateBy s) = some m → logRoom (s.die 0).deHead (s.die 0).deTail = true →
      Leads .requestTimeout s fun t => t.msix = s.msix ++ [0] ∧ (t.die 0).deHead = ((s.die 0).deHead + 1) % 512 ∧
        sget 0 (t.die 0).dlog ((s.die 0).deHead % 256) = timeoutRecord s m.place.pa q m.tag m.gen m.place.stack ∧
        (m.kind = .load → ∀ x ∈ (t.core q).lsq, x.tag = m.tag → x.gen = m.gen → x.phase = 2 ∧ x.pois = true ∧ x.timedOut = true)) ∧
    (∀ m, answered s q = some m →
      (m.status = 0 → m.pois = false → m.bid ≠ c.bid → Leads .loadReply s fun t =>
        (t.core q).arch.rx m.dst = (if m.dst = 0 then 0 else extendLoad m.len m.signed m.result.toNat) ∧
        (∀ n, n ≠ m.dst → (t.core q).arch.rx n = c.arch.rx n) ∧ SameMemory s t ∧
        (t.core q).lsq = c.lsq.filter fun x => !(x.tag == m.tag && x.gen == m.gen)) ∧
      (m.status ≠ 0 ∨ m.pois = true → exec .loadReply s = .next (preciseTrap s q m.bid
        (if m.status = 0 then accessTrap s 12 m.bundle (BitVec.ofNat 64 (m.va % 2 ^ 52 + if m.timedOut then 2 ^ 63 else 0))
         else if m.status = 2 then accessTrap s 3 m.bundle (BitVec.ofNat 64 (m.va % 2 ^ 48))
         else accessTrap s 5 m.bundle (kindTval m.va 7 m.status))))) ∧
    (∀ w, c.waita = some w → waitaReads s q = true →
      let late := w.tout ≠ 0 ∧ w.issued + w.tout ≤ s.pcc
      (w.lost ≠ none → w.late s = false → exec .waitaReturn s = .next s) ∧ (w.lost = none ∨ w.late s = true →
      (∀ u v, waitaRead s q w = (u, .ok v) →
        (w.holds v = true ∨ late → Leads .waitaReturn s fun t => (t.core q).waita = none ∧
          (w.dst ≠ 0 → (t.core q).arch.rx w.dst = BitVec.ofNat 64 v)) ∧
        (w.holds v = false → ¬ late → Leads .waitaReturn s fun t =>
          ∃ x, (t.core q).waita = some x ∧ x.bid = w.bid ∧ s.pcc < x.nextRead ∧ x.nextRead ≤ s.pcc + 256)) ∧
      (∀ u x, waitaRead s q w = (u, .error x) → exec .waitaReturn s = .next (preciseTrap u q w.bid x)))) ∧
    (∀ asid va spec val, ovlReady s q = some (asid, va, spec, val) → spec = 0 → ∀ u bs,
      overlayRead (s.modCore q fun c => { c with ovlBusy := false, actions := c.actions.filter fun a => match a.2 with
        | .ovl _ _ _ _ => false
        | _ => true }) (quadDie q) asid 4 va = (u, some bs) → Leads .ovlComplete s fun t =>
        (t.core q).ovlBusy = false ∧ sget none (t.core q).tags (1 - (u.core q).active) = some (va, asid) ∧
        ∀ n < 2048, sget 0 (t.core q).planes (2048 * (1 - (u.core q).active) + n) = bitsOfBytes 256 ((bs.drop (32 * n)).take 32)) ∧
    (∀ f r, (s.die q).prefetches = f :: r → Leads .pfrComplete s fun t =>
      (t.die q).prefetches = r ∧ (f.token.spec = 0 → SameMemory s t ∧ t.cells = s.cells)) ∧
    (∀ l r, s.sftabs = l :: r → (s.pcc < l.due → exec .sftabSwitch s = .next s) ∧
      (l.due ≤ s.pcc → Leads .sftabSwitch s fun t => t.sftabs = r ∧
        ∀ n, sget [] t.tables n = if n = l.n then l.image.getD (sget [] s.tables n) else sget [] s.tables n)) ∧
    (∀ l, rdcFind (s.die q).rdc s.arg.b = some l →
      (l.place.soft = false → l.filled + 4096 ≤ s.pcc → Leads .rdcLineExpiry s fun t =>
        (t.die q).rdc = (s.die q).rdc.filter (fun x => x.1 != s.arg.b) ∧ SameMemory s t) ∧
      (l.place.soft = true ∨ s.pcc < l.filled + 4096 → exec .rdcLineExpiry s = .next s))

/-! ### Trestle (R122 to R140, R281 to R285) -/

/-- Frames, releases, grants and the ends of entries. A boundary begins the next frame, or is held by an entry whose budget ends in it
(R125, R126, R131); a held boundary opens by whole nanoseconds of slip (R132). An entry is released at count 0 and its frame (R122).
The only entry of the ranking takes its quads when all are free, and nothing otherwise (R129). A failed entry frees its quads and slot,
with TFAIL and MSI-X vector 4 (R136); a completed one sends its vector, decrements its successors and is free (R135). That the grant is
itself the dispatch is log 38 (DEDUCED), that none comes during an exploration log 49. -/
def Obligations.Releases : Prop :=
  ∀ s : State,
    let k := s.arg.a
    let e := s.entry k
    (boundaryDue s = false → exec .frameBoundary s = .next s) ∧
    (s.framesOn = true → s.held = false → s.dueAt ≤ s.ptp →
      ((∀ p ∈ s.entries, p.2.holdsBoundary s.frame.toNat = false) → Leads .frameBoundary s fun t =>
        t.frame = (if s.owait then 0 else s.frame + 1) ∧ t.owait = false ∧ t.dueAt = s.dueAt + frameUnits ∧ t.held = false ∧
        t.entries = s.entries) ∧
      (∀ p ∈ s.entries, p.2.holdsBoundary s.frame.toNat = true → Leads .frameBoundary s fun t =>
        t.held = true ∧ t.frame = s.frame ∧ t.dueAt = s.dueAt ∧ (p.1, s.frame.toNat) ∈ t.holders)) ∧
    (heldOpenDue s = false → exec .heldBoundaryOpen s = .next s) ∧
    (heldOpenDue s = true → Leads .heldBoundaryOpen s fun t =>
      let now := s.holdFreed.getD s.ptp
      t.held = false ∧ t.frame = s.frame ∧ t.holders = [] ∧ s.slipNs ≤ t.slipNs ∧
      t.dueAt = s.dueAt + (t.slipNs - s.slipNs) * nsUnits ∧ now ≤ t.dueAt ∧ t.dueAt < max s.dueAt now + nsUnits) ∧
    (releaseDue s k = false → exec .entryRelease s = .next s) ∧
    (releaseDue s k = true →
      (imgNest e.image = false → Leads .entryRelease s fun t =>
        t.entry k = { e with st := .released, released := s.pcc } ∧ ∀ n, n ≠ k → t.entry n = s.entry n) ∧
      (imgNest e.image = true → Leads .entryRelease s fun t =>
        ((t.entry k).st = .released ∧ (t.entry k).released = s.pcc ∧ nestOk (t.entry k).record = true) ∨
        (t.entry k = Entry.free ∧ t.tfailSlot = k ∧ t.tfailCause = 4))) ∧
    (s.explRunning = true → exec .quadGrant s = .next s) ∧
    (∀ n, ranking s = [n] → s.explRunning = false → (s.entry n).st = .released → (s.entry n).failReq = none → (s.entry n).pooled = false →
      (s.entry n).gangs = [] →
      ((∃ q ∈ (s.entry n).targets, quadFree s q = false) → exec .quadGrant s = .next s) ∧
      ((∀ q ∈ (s.entry n).targets, quadFree s q = true) → imgPairs (s.entry n).image = 0 → Leads .quadGrant s fun t =>
        (t.entry n).st = .running ∧ (t.entry n).dispFrame = some s.frame.toNat ∧
        ∃ g, (t.entry n).gangs = [g] ∧ g.quads = (s.entry n).targets ∧ g.inst = (s.entry n).nextInst ∧ g.started = false ∧
          s.pcc ≤ g.start)) ∧
    (e.st ≠ .free → e.failReq = some (s.arg.b, s.arg.c) → Leads .entryFail s fun t =>
      t.entry k = Entry.free ∧ t.tfailSlot = k ∧ t.tfailCause = s.arg.c ∧ t.msix = s.msix ++ [4] ∧ SameMemory s t ∧
      ∀ q ∈ e.workQuads, (t.core q).run = .stopped ∧ (t.core q).task = none ∧
        ∀ j < 4, (t.cell q j).qMat = [] ∧ (t.cell q j).qVec = [] ∧ (t.cell q j).qSf = []) ∧
    (e.st = .completing → Leads .entryComplete s fun t =>
      t.entry k = Entry.free ∧ SameMemory s t ∧
      t.msix = s.msix ++ (if 8 ≤ imgVector e.image then [imgVector e.image] else []) ∧
      ∀ n < 4096, n ≠ k → (s.entry n).st = .waiting →
        (t.entry n).count = (s.entry n).count - ([0, 1, 2, 3].filter fun i => imgSucc e.image i == n).length)

/-- Runs. A task starts, a pool's next run starts, with x1 to x9, the pc, the plane and sr.tbase as R130, R133 and R340 say; a plane that
cannot be loaded fails the entry with cause 3 (R137). A run that is done frees its quads, and the next temporal run follows 32 cycles on
(R133, R134). A pre-emption asks the whole gang to stop, saves it and frees its quads, or is abandoned (R138, R282); a resumed gang runs
again, or its entry fails with cause 3 (R284). That instance numbers rise quad by quad in x9 and that the load of a plane at dispatch asks
for no right is log 38 (DEDUCED). -/
def Obligations.TaskRuns : Prop :=
  ∀ s : State,
    let k := s.arg.a
    let e := s.entry k
    let tag := some (imgCode e.image, imgAsid e.image)
    let starts (i : Instr) (g : Gang) : Prop :=
      (g.quads.Nodup → g.idxs.length = g.quads.length → (∀ w ∈ g.idxs, w.length = 6) →
        (∀ q ∈ g.quads, sget none (s.core q).tags (s.core q).active = tag ∨ sget none (s.core q).tags (1 - (s.core q).active) = tag) →
        Leads i s fun t => ∀ p ∈ g.quads.zipIdx, let c := t.core p.1
          c.run = .running ∧ c.slot = 0 ∧ c.arch.pc = imgBundle e.image ∧ c.issueAt = s.pcc ∧ c.arch.tbase = s.pcc ∧
          sget none c.tags c.active = tag ∧ c.arch.rx 7 = BitVec.ofNat 64 (imgArgs e.image) ∧
          c.arch.rx 8 = BitVec.ofNat 64 (imgPairs e.image) ∧ c.arch.rx 9 = BitVec.ofNat 64 (k + 2 ^ 16 * ((g.inst + p.2) % 2 ^ 32)) ∧
          (∀ l < 6, c.arch.rx (l + 1) = (((g.idxs[p.2]?).getD [])[l]?).getD 0) ∧ (∀ n, 10 ≤ n → c.arch.rx n = 0) ∧
          (∀ n, n ≠ 0 → c.arch.rp n = 0) ∧ ∀ j < 4, (t.cell p.1 j).acc = (s.cell p.1 j).acc ∧ (t.cell p.1 j).spm = (s.cell p.1 j).spm ∧
            (t.cell p.1 j).full = 0) ∧
      (∀ q, e.st ≠ .free → g.quads = [q] → (s.core q).planeOf (imgCode e.image) (imgAsid e.image) = none →
        (overlayRead s 0 (imgAsid e.image) 0 (imgCode e.image)).2 = none → Leads i s fun t =>
          t.entry k = Entry.free ∧ t.tfailSlot = k ∧ t.tfailCause = 3)
    let gone (t : State) (g : Gang) : Prop := ∀ q ∈ g.quads, (t.core q).run = .stopped ∧ (t.core q).task = none
    (∀ g, e.gang s.arg.b = some g → g.startDue s.pcc = true → starts .taskStart g) ∧
    (∀ g, e.gangs.find? (fun g => g.nextDue s.pcc && g.quads.contains s.arg.b) = some g → starts .poolNextRun g) ∧
    (∀ g, e.gang s.arg.b = some g →
      (runDone s g = false → exec .runComplete s = .next s) ∧
      (runDone s g = true → Leads .runComplete s fun t => gone t g ∧ SameMemory s t ∧
        (∃ h ∈ (t.entry k).gangs, h.id = g.id ∧ h.started = false ∧ h.start = s.pcc + 32 ∧
          if g.temporal + 1 < e.turns then h.temporal = g.temporal + 1 ∧ h.ended = g.ended else h.ended = true) ∧
        (e.st = .running → e.gangs = [g] → e.pooled = false → e.turns ≤ g.temporal + 1 → (t.entry k).st = .completing)) ∧
      (saveDue s g = true → ∀ u,
        (saveQuads s (imgAsid e.image) g.quads = (u, true) → Leads .contextSave s fun t =>
          gone t g ∧ SameMemory u t ∧ ∃ h ∈ (t.entry k).gangs, h.id = g.id ∧ h.away = true ∧ h.started = false ∧
            h.ctxs = g.quads.map fun q => (s.core q).arch.ctx) ∧
        (saveQuads s (imgAsid e.image) g.quads = (u, false) → Leads .contextSave s fun t =>
          t.entry k = e ∧ ∀ q ∈ g.quads, (t.core q).run = .running ∧ (t.core q).preempt = false)) ∧
      (g.resumeDue s.pcc = true → ∀ u,
        (resumeQuads (acquireAll s) k g g.quads.zipIdx = (u, true) → Leads .preemptResume s fun t =>
          t.cores = u.cores ∧ t.cells = u.cells ∧ ∃ h ∈ (t.entry k).gangs, h.id = g.id ∧ h.started = true ∧ h.resumed = false) ∧
        (e.st ≠ .free → resumeQuads (acquireAll s) k g g.quads.zipIdx = (u, false) → Leads .preemptResume s fun t =>
          t.entry k = Entry.free ∧ t.tfailSlot = k ∧ t.tfailCause = 3))) ∧
    (∀ g ∈ (s.entry s.arg.b).gangs, preemptable s k s.arg.b g = true → Leads .preemptRequest s fun t =>
      (∀ q ∈ g.quads, (t.core q).preempt = true) ∧ (s.arg.b, g.id) ∈ t.preempts ∧ t.entries = s.entries)

/-! ### Quads and engines beside their commands -/

/-- What happens in a quad beside its bundles: starts of commands (R153, R154, R299), timed arrivals (R420), rows of ports (R162, R164),
spills, run-ahead and demand reads and the hold of the residual stack (R232, R233, R242), rows and credits of paired channels (R245,
R429). A hold that can never end raises TIMING 11 against the command whose granule waits, its bundle in sr.tpc and its queue in bits 7:6
(R155, R233); no slot is named, slot 7 (DEDUCED, log 35). -/
def Obligations.QuadEvents : Prop :=
  ∀ s : State,
    let q := s.arg.a
    let j := s.arg.b
    let n := s.arg.c
    let c := s.core q
    let x := s.cell q j
    (queueTurn s q j n = .idle → exec .commandStart s = .next s) ∧
    (∀ k, queueTurn s q j n = .demand k → Leads .commandStart s fun t =>
      (t.cell q j).demand = some (k.resAt, []) ∧ (t.cell q j).qSf = x.qSf) ∧
    (∀ k sub i, queueTurn s q j n = .timing k sub i → exec .commandStart s = .next (cellTiming s q j n k.bundle sub i)) ∧
    (∀ k, n = 2 → queueTurn s q j 2 = .start k → k.gtrue = false → Leads .commandStart s fun t =>
      (t.cell q j).qSf = x.qSf.drop 1 ∧ (t.cell q j).sched = x.sched ∧ (t.cell q j).acc = x.acc ∧ (t.cell q j).spm = x.spm ∧
      t.cores = s.cores) ∧
    (∀ a, c.hold = none → firstArrival s.arrivals q s.pcc = some a → Leads .timedArrival s fun t =>
      t.arrivals = s.arrivals.erase a ∧ SameMemory s t ∧
      (∀ r v m, a.eff = .accRow r v m → ∀ i < 8192, (sget 0 (t.cell q a.cell).acc r).getLsbD i =
        if m.getLsbD (i / 8) then v.getLsbD i else (sget 0 (s.cell q a.cell).acc r).getLsbD i)) ∧
    (portReadDue s q j n = false → exec .portRowRead s = .next s) ∧
    (portReadDue s q j n = true → (x.port n).erc = false → Leads .portRowRead s fun t =>
      let y := (t.cell q j).port n
      y.next = (x.port n).next + 1 ∧ y.from_ = s.pcc + 1 ∧ (t.cell q j).spm = x.spm ∧
      ∃ f, y.held = (x.port n).held ++
        [(s.pcc + 4, rowOfBytes (x.readLaid (setLay (x.port n).set) ((x.port n).entryAddr (x.port n).next) 1024), f)]) ∧
    (portWriteDue s q j n = true → Leads .portEntryWrite s fun t =>
      ((t.cell q j).port n).held = (x.port n).held.drop 1 ∧ ((t.cell q j).port n).next = (x.port n).next + 1 ∧
      (t.cell q j).acc = x.acc ∧ SameMemory s t) ∧
    (holdDue s q j = true → holdHopeless s q j = false → Leads .residualHold s fun t =>
      (t.core q).hold = some { since := x.waitFrom, cell := j, when_ := s.ptpNs, frame := s.frame.toNat } ∧ (t.core q).arch = c.arch) ∧
    (∀ w, holdDue s q j = true → holdHopeless s q j = true → x.waiting.head? = some w → exec .residualHold s =
      .next (timingFault ((s.modCell q j fun c => { c with waiting := [] }).modCore q fun c => { c with hold := none }) q
        w.bundle 7 1 11 j w.queue 0)) ∧
    (∀ h, c.hold = some h → holdEndDue s q = true → Leads .residualHoldEnd s fun t =>
      (t.core q).hold = none ∧ (t.core q).issueAt = c.issueAt + (s.pcc - h.since) ∧
      (t.core q).arch.tbase = c.arch.tbase + (s.pcc - h.since)) ∧
    (spillDue s q j = false → exec .spillBatch s = .next s) ∧
    (∀ u, spillDue s q j = true → x.spilled + batchSize s q j ≤ c.arch.hbmSize j →
      batchPages s q j x.spilled (batchSize s q j) = (u, none) → Leads .spillBatch s fun t =>
        (t.cell q j).batch = some { lo := x.spilled, n := batchSize s q j, done := true } ∧ (t.cell q j).spilled = x.spilled ∧
        (t.cell q j).spm = x.spm) ∧
    (∀ b, x.batch = some b → Leads .spillComplete s fun t => (t.cell q j).spilled = b.lo + b.n ∧ (t.cell q j).batch = none) ∧
    (aheadDue s q j = false → exec .runAheadRead s = .next s) ∧
    (aheadDue s q j = true → Leads .runAheadRead s fun t =>
      x.spilled ≤ (t.cell q j).spilled + aheadSize s q j ∧
      ((t.cell q j).aheadStop = false → (t.cell q j).spilled < x.spilled) ∧
      ((t.cell q j).aheadStop = true → (t.cell q j).spilled ≤ x.spilled ∧ aheadDue t q j = false)) ∧
    (∀ d u, demandDue s q j = true → x.demand = some d →
      readBack (s.modCell q j fun c => { c with demand := none, aheadStop := false }) q j (x.spilled - d.1) = (u, none) →
      Leads .demandReadReturn s fun t => t = u ∧ (t.cell q j).demand = none ∧ (t.cell q j).spilled = min x.spilled d.1) ∧
    (∀ m, laneDue s q false = some m → (sget [] c.lanes m.lane).length < 16 → Leads .pairRowDeliver s fun t =>
      t.laneMsgs = s.laneMsgs.erase m ∧ sget [] (t.core q).lanes m.lane = sget [] c.lanes m.lane ++ [(m.due, m.row.getD 0)]) ∧
    (∀ m, laneDue s q true = some m → Leads .pairCreditReturn s fun t =>
      t.laneMsgs = s.laneMsgs.erase m ∧ sget 0 (t.core q).arch.credits m.lane = sget 0 c.arch.credits m.lane - 1 ∧
      (t.core q).arch.x = c.arch.x)

/-- The block-transfer engine. A channel performs the chunk at the head of its oldest command, or parks it with its fault (R278); between
scratchpads the destination then holds the source's bytes (R369). The oldest walked command ends with its slot decrement, or, once
discarded, without a word (R370, R280); a discarded queue is empty and its commands write nothing (R280). The last five clauses say,
under conditions on the state alone, where these steps complete: a chunk between scratchpads that nothing parked holds up, a finished
command with no word or one of a scratchpad (R470), a discard of any parked entries, a release of no entry, of such a chunk, of such
a word. -/
def Obligations.CopyEngine : Prop :=
  ∀ s : State,
    let d := s.arg.a
    let ch := s.arg.b
    let c := s.channel d ch
    let inPads (x : Chunk) : Prop := x.srcSpace = 1 ∧ x.dstSpace = 1 ∧ x.src + x.len ≤ 2 ^ 22 ∧ x.dst + x.len ≤ 2 ^ 22
    let copied (x : Chunk) (t : State) : Prop := SameMemory s t ∧ t.cores = s.cores ∧ t.entries = s.entries ∧
      (∀ q j, q ≠ x.quad ∨ j ≠ x.dstCell → q < 256 → j < 4 → x.dstCell < 4 → t.cell q j = s.cell q j) ∧
      (t.cell x.quad x.dstCell).spmBytes x.dst x.len = (s.cell x.quad x.srcCell).spmBytes x.src x.len
    let lessOpen (id : Nat) (l : List BteCmd) : List BteCmd := l.map fun k => if k.id = id then { k with open_ := k.open_ - 1 } else k
    let toPad (w : WordRef) : Prop := w.spec ≠ 0 ∧ specLocal w.spec = true ∧ nfield w.spec 0 22 % 8 = 0
    let written (w : WordRef) (t : State) : Prop :=
      (t.cell w.quad (nfield w.spec 58 2)).spmBytes (nfield w.spec 0 22) 8 = bytesOf w.val 8
    let decremented (slot : Option Nat) (t : State) : Prop := match slot with
      | none => t.entries = s.entries
      | some n => (s.entry n).st = .waiting → (t.entry n).count = (s.entry n).count - 1
    (c.queue = [] → exec .bteChunk s = .next s) ∧
    (∀ k r, c.queue = k :: r → c.held = none → (tmplSpace (tmplSrc k.tmpl) = 1 → k.ready ≤ s.pcc) →
      tmplKind k.tmpl ≠ 1 ∨ k.idxRow ≠ none → (∀ k2 ∈ r ++ c.done, k2.id ≠ k.id) → mustPark c k.chunk = false →
      (∀ u, performChunk s d k.slot k.chunk = (u, .ok ()) → Leads .bteChunk s fun t =>
        SameMemory u t ∧ t.cells = u.cells ∧ (t.channel d ch).parked = c.parked ∧
        let k1 := k.advance k.chunk.len
        if k1.walked then (t.channel d ch).queue = r ∧ (t.channel d ch).done = c.done ++ [k1]
        else (t.channel d ch).queue = k1 :: r ∧ (t.channel d ch).done = c.done) ∧
      (∀ u f, performChunk s d k.slot k.chunk = (u, .error f) → c.parked.length < 64 → Leads .bteChunk s fun t =>
        SameMemory u t ∧ (t.channel d ch).parked = c.parked ++ [.chunk k.chunk]) ∧
      (∀ u f, performChunk s d k.slot k.chunk = (u, .error f) → 64 ≤ c.parked.length → Leads .bteChunk s fun t =>
        SameMemory u t ∧ (t.channel d ch).parked = c.parked ∧ (t.channel d ch).held = some (.chunk k.chunk, some f))) ∧
    (completeDue s d ch = false → exec .bteCommandComplete s = .next s) ∧
    (∀ k, c.ends = some k → c.heldWord k.id = false →
      (k.dropped = true → Leads .bteCommandComplete s fun t =>
        (t.channel d ch).done = c.done.filter (fun y => y.id != k.id) ∧ SameMemory s t ∧ t.cells = s.cells ∧ t.entries = s.entries) ∧
      (k.dropped = false → k.open_ = 0 → k.word.spec = 0 → Leads .bteCommandComplete s fun t =>
        (t.channel d ch).done = c.done.filter (fun y => y.id != k.id) ∧
        (∀ n, k.decrements = some n → (s.entry n).st = .waiting → (t.entry n).count = (s.entry n).count - 1) ∧
        (k.decrements = none → t.entries = s.entries))) ∧
    (ch = 16 → (s.die d).ceHeld = [] → Leads .replayDiscard s fun t =>
      ∀ p ∈ (t.die d).ceReplay, p ∉ (s.die d).ceReplay ∨ ∃ r n w i j, p = .word r n w i j) ∧
    (∀ x k, ch < 16 → c.held = none → c.parked = [.chunk x] → c.find x.cmd = some k →
      ∀ u, performChunk (s.setChannel d ch ({ c with parked := [] }.mod k.id fun k => { k with open_ := k.open_ - 1 })) d k.slot x =
        (u, .ok ()) → exec .replayRelease s = .next u) ∧
    (∀ k r, c.queue = k :: r → c.held = none → k.ready ≤ s.pcc → tmplKind k.tmpl ≠ 1 → inPads k.chunk → mustPark c k.chunk = false →
      (∀ k2 ∈ r ++ c.done, k2.id ≠ k.id) →
      ∃ t, exec .bteChunk s = .next t ∧ copied k.chunk t ∧ (t.channel d ch).parked = c.parked ∧
        let k1 := k.advance k.chunk.len
        (t.channel d ch).queue = (if k1.walked then r else k1 :: r) ∧
        (t.channel d ch).done = c.done ++ if k1.walked then [k1] else []) ∧
    (∀ k, c.ends = some k → c.heldWord k.id = false → k.open_ = 0 → k.dropped = false → k.word.spec = 0 ∨ toPad k.word →
      ∃ t, exec .bteCommandComplete s = .next t ∧ SameMemory s t ∧ t.cores = s.cores ∧
        (t.channel d ch).done = c.done.filter (fun y => y.id != k.id) ∧ (t.channel d ch).queue = c.queue ∧
        (k.word.spec = 0 → t.cells = s.cells) ∧ (toPad k.word → written k.word t) ∧ decremented k.decrements t) ∧
    (ch < 16 → c.held = none →
      ∃ t, exec .replayDiscard s = .next t ∧ { t with dies := s.dies } = s ∧
        let drop (l : List BteCmd) : List BteCmd := l.map fun k =>
          if c.parked.any (fun p => p.command == k.id) then { k with dropped := true, open_ := 0 } else k
        t.channel d ch = { c with parked := [], queue := drop c.queue, done := drop c.done }) ∧
    (ch < 16 → c.held = none → c.parked = [] →
      ∃ t, exec .replayRelease s = .next t ∧ { t with dies := s.dies } = s ∧ t.channel d ch = c) ∧
    (∀ x k, ch < 16 → c.held = none → c.parked = [.chunk x] → c.find x.cmd = some k → inPads x →
      ∃ t, exec .replayRelease s = .next t ∧ copied x t ∧
        t.channel d ch = { c with parked := [], queue := lessOpen k.id c.queue, done := lessOpen k.id c.done }) ∧
    (∀ w id slot k, ch < 16 → c.held = none → c.parked = [.word w id slot] → c.find id = some k → toPad w →
      ∃ t, exec .replayRelease s = .next t ∧ SameMemory s t ∧ written w t ∧ decremented slot t ∧ (t.channel d ch).parked = [] ∧
        ∀ y ∈ (t.channel d ch).done, y.id ≠ id)

/-- Collective engines. A request is taken; a pin enters the side table, a release leaves it, and a malformed record joins nothing (R250,
R262). A transfer of a record is read, staged and sent to the peer and addresses of its index vector (R249, R255); one that arrives is
combined, or parks, and its sender is told (R251, R256). A coding point joins the XOR of a complete group (R261); a packet is decoded
and written, or misses and asks for its block uncoded, which the source's staging answers (R263). What was lost beyond link-level retry
goes out again as it was staged (R256). Of the kinds of R251 the values are stated of copy, whose destination bytes become the transfer's, and of the sum
of i32 elements, which wraps; of a packet of two members the block written is the packet's bytes XOR the held block's (R261, R263). That an
acknowledgement carries the first domain fault is log 45, which messages leave the package log 60. -/
def Obligations.CollectiveEngines : Prop :=
  ∀ s : State,
    let d := s.arg.a
    let x := s.die d
    (∀ q r, x.ceIn = q :: r →
      (Leads .ceRecordAccept s fun t => (t.die d).ceIn = r) ∧
      (q.kind = 1 → x.sideInfo = [] → Leads .ceRecordAccept s fun t => (t.die d).sideInfo =
        [{ id := nfield q.a 0 32, gen := nfield q.a 32 16, va := nfield q.b 0 48, asid := q.asid, len := q.c.toNat, pin := true }]) ∧
      (q.kind = 2 → Leads .ceRecordAccept s fun t => ∀ e, e ∈ (t.die d).sideInfo ↔
        e ∈ x.sideInfo ∧ ¬ (e.id = nfield q.a 0 32 ∧ e.gen = nfield q.a 32 16)) ∧
      (∀ u bs, q.kind = 0 → ceBytes (s.modDie d fun x => { x with ceIn := r }) d q.asid (q.a.toNat % 2 ^ 48) 192 = (u, some bs) →
        recordOk (bitsOfBytes 1536 bs) = false → Leads .ceRecordAccept s fun t => (t.die d).ceRecs = x.ceRecs)) ∧
    (walking s d = none → exec .ceTransferEmit s = .next s) ∧
    (∀ r u bs po, walking s d = some r → recKind r.body ≠ 6 → recPlain r.body = false →
      x.ceHeld = [] → x.ceReady = [] → stagingBytes s d + recLen r.body ≤ 2 ^ 21 →
      sourceBlocked s d r (r.transferAt r.vec).2.1 (r.transferAt r.vec).2.2 (r.transferAt r.vec).1 = false →
      ceRead s d r.asid 18 (r.transferAt r.vec).2.1 (recLen r.body) = (u, .ok (bs, po)) → Leads .ceTransferEmit s fun t =>
        ∃ m : Xfer, (t.die d).staging = x.staging ++ [m] ∧ (ownPackage s m.toPkg = true → t.msgs = s.msgs ++ [Msg.transfer m]) ∧ m.data = bs ∧ m.kind = recKind r.body ∧
          m.id = recId r.body ∧ m.rec_ = r.id ∧ m.fromDie = d ∧
          let peer := (((recLevels r.body).zip r.vec).map fun p => levPeer r.body p.1 * p.2).sum + recConst r.body
          let to_ := (recDst r.body : Int) + (((recLevels r.body).zip r.vec).map fun p => levDst r.body p.1 * p.2).sum
          let rank := (peer % (recP r.body : Int)).toNat
          r.vec.length = recNlev r.body →
            m.toDie = (if rank = recMyrank r.body then d else nfield ((r.epts[rank]?).getD 0) 16 4) ∧
            (m.dst : Int) = to_ % 2 ^ 48) ∧
    (∀ m r, s.arg.bytes = [] → arrivedXfer s d = some (m, r) → destBlocked s d m = false →
      (∀ u f, performXfer { s with msgs := r } d m = (u, .ok f) → Leads .ceTransferReceive s fun t => SameBytes u t ∨ x.ceRecs ≠ []) ∧
      (∀ u f, m.fromDie < 16 → performXfer { s with msgs := r } d m = (u, .ok f) → Leads .ceTransferReceive s fun t =>
        ∃ clock : List Nat, t.msgs = r ++ [Msg.ack m.fromDie m.rec_ m.seq (if f.isSome then 4 else 0) (f.getD 0) clock]) ∧
      (∀ u e, performXfer { s with msgs := r } d m = (u, .error e) → x.ceHeld = [] → x.ceReplay.length < 64 →
        Leads .ceTransferReceive s fun t => t.msgs = r ∧ ∃ l, (t.die d).ceReplay = x.ceReplay ++ CeParked.dest e.1 :: l)) ∧
    (∀ m r e k, s.arg.bytes = [] → arrivedXfer s d = some (m, r) → destBlocked s d m = false → x.ceRecs = [] → x.rdc = [] →
      x.late = none → tlbFind x.tlb m.asid m.dst = some e → rightsOk e.2.2.2 1 = true → rightsOk e.2.2.2 2 = true →
      (∀ g, sget false s.poison g = false) → (∀ b ∈ m.pois, b = false) →
      let p := leafPlace e.2.2.2 e.2.2.1 m.dst
      let val (u : State) (i : Nat) : Byte := u.byteUnder k ((p.pa + i) / 64) (storageAddr p.home (p.pa + i))
      let elem (u : State) (i : Nat) : Nat := natOfBytes ((List.range 4).map fun j => val u (4 * i + j))
      m.dst % 4096 + m.data.length ≤ 4096 → p.pa + m.data.length ≤ 2 ^ 40 → s.keyOf p.key = some k →
      (m.kind = 0 → Leads .ceTransferReceive s fun t => ∀ i, i < m.data.length → val t i = (m.data[i]?).getD 0) ∧
      (m.kind = 1 → m.etype = 3 → m.data.length % 4 = 0 → Leads .ceTransferReceive s fun t => ∀ i, 4 * i < m.data.length →
        elem t i = (elem s i + natOfBytes ((m.data.drop (4 * i)).take 4)) % 2 ^ 32)) ∧
    (∀ e rec_ seq st el clock r, s.arg.b = 0 → takeFirst (ackFor d) s.msgs = some (.ack e rec_ seq st el clock, r) →
      Leads .ceAcknowledge s fun t => t.msgs = r ∧ (t.die d).staging = x.staging.eraseP fun y => y.seq == seq) ∧
    (∀ b r, takeFirst (blockHere s) s.msgs = some (.block b, r) → combineBytes s + b.data.length ≤ 2 ^ 22 →
      ((s.combine.find? fun g => g.id == b.group) = none → 2 ≤ b.size → Leads .codedBlockArrive s fun t => t.msgs = r ∧
        t.combine = s.combine ++ [{ id := b.group, k := b.size, blocks := [b] }]) ∧
      (∀ g, (s.combine.find? fun g => g.id == b.group) = some g → g.k ≤ g.blocks.length + 1 →
        (∀ y ∈ g.blocks ++ [b], y.toDie < 16) → Leads .codedBlockArrive s fun t =>
          t.combine = (s.combine.filter fun h => h.id != b.group) ∧
          ∃ p : Packet, t.msgs = r ++ (g.blocks ++ [b]).map (fun y : Xfer => Msg.packet y.toDie p) ∧
            p.data = (g.blocks ++ [b]).foldl (fun (l : List Byte) (y : Xfer) => xorRuns l y.data) [] ∧
            p.members = (g.blocks ++ [b]).map fun y : Xfer => (y.block, y.bgen, y.data.length, y.toDie))) ∧
    (∀ e p r c m, bufferFree s d = true → takeFirst (packetFor s d) s.msgs = some (.packet e p, r) → wantedBy s d p = some (c, m) →
      c.dieOfRank s (memSrc (c.member m.1 m.2.1)) < 16 →
      (∀ u, decodeWith { s with msgs := r } d (p.members.erase m) p.data = (u, none) → Leads .codedPacketDecode s fun t =>
        t.msgs = r ++ [Msg.fallback (c.dieOfRank s (memSrc (c.member m.1 m.2.1))) m.1 m.2.1 d]) ∧
      (∀ u bs, decodeWith { s with msgs := r } d (p.members.erase m) p.data = (u, some bs) → Leads .codedPacketDecode s fun t =>
        (∃ (src : Nat) (st : BitVec 8) (clock : List Nat), t.msgs = r ++ [Msg.ackBlock src m.1 m.2.1 st clock]) ∨
        (t.msgs = r ∧ ∃ y : Xfer, CeParked.dest y ∈ t.ceParked d ∧ y.block = m.1 ∧ y.bgen = m.2.1))) ∧
    (∀ e p r c m o b u en k, bufferFree s d = true → takeFirst (packetFor s d) s.msgs = some (.packet e p, r) →
      wantedBy s d p = some (c, m) → p.members.erase m = [o] → sideBytes { s with msgs := r } d o.1 o.2.1 = (u, some b) →
      s.ceParked d = [] → x.ceRecs = [c] → c.walked = false → recRword c.body = 0 → (u.die d).rdc = [] → (u.die d).late = none →
      tlbFind (u.die d).tlb c.asid (memVa (c.member m.1 m.2.1)) = some en → rightsOk en.2.2.2 2 = true → (∀ y ∈ p.pois, y = false) →
      let to_ := memVa (c.member m.1 m.2.1)
      let w := leafPlace en.2.2.2 en.2.2.1 to_
      m.2.2.1 ≤ p.data.length → to_ % 4096 + m.2.2.1 ≤ 4096 → w.pa + m.2.2.1 ≤ 2 ^ 40 → u.keyOf w.key = some k →
      Leads .codedPacketDecode s fun t => ∀ i, i < m.2.2.1 → t.byteUnder k ((w.pa + i) / 64) (storageAddr w.home (w.pa + i)) =
        (p.data[i]?).getD 0 ^^^ ((b.take o.2.2.1)[i]?).getD 0) ∧
    (∀ e id gen dest r, takeFirst (fallbackFor d) s.msgs = some (.fallback e id gen dest, r) →
      let mine := x.staging.find? fun y => y.kind == 6 && y.block == id && y.bgen == gen
      (mine = none → Leads .fallbackRequest s fun t => t = { s with msgs := r }) ∧
      (∀ y, dest < 16 → mine = some y → Leads .fallbackRequest s fun t => ∃ p : Packet, t = { s with msgs := r ++ [Msg.packet dest p] } ∧
        p.data = y.data ∧ p.members = [(y.block, y.bgen, y.data.length, dest)])) ∧
    (∀ y, x.staging[s.arg.b]? = some y →
      let m : Msg := if y.kind = 6 then .block y else .transfer y
      (m.away s = none ∨ m ∈ s.msgs ∨ stillHeld s m = true → exec .resendFromStaging s = .next s) ∧
      (m.away s ≠ none → m ∉ s.msgs → stillHeld s m = false → exec .resendFromStaging s = .next (post s m)))

/-! ### Stacks (R68 to R120) -/

/-- The operations a stack performs on the oldest request it has accepted. One with a status has no effect (R75); a read answers the
bytes, a write changes exactly its enabled bytes, ZFILL zeroes them (R72), ATOM and RED change each enabled element of a granule that is
not poisoned and nothing else (R84, R99), a reduction is accepted or rejected with its status (R88). Its reply leaves once its granule
reads are done (R76).
What a stack does beside its operations: grants of the ingress with their number of arrival (R78, R82), the channel's reads, its drain
machine and its starvation timer (R79 to R81), batched acknowledgements (R85), a reduction's chunk, read before it is written, and its
flag (R90), an uncorrectable error's poison and record (R98, R100). A RED is performed once its granule is resolved. A refused RED is
answered by a reply of its own (DESIGN CHOICE, log 65), reductions and queries take home mode 00 (log 28), and the line of an error has
the physical address it was last written under (log 69; DEDUCED). -/
def Obligations.StackWork : Prop :=
  (∀ (s : State) (r : Req) (rest : List Req) (key : BitVec 512),
     let k := s.arg.a
     let x := s.stack k
     let at_ (i : Nat) : Nat := storageAddr r.home i
     let val (t : State) (i : Nat) : Byte := t.byteUnder key (i / 64) (at_ i)
     let now := ∀ n < 32, ∀ g ∈ (x.chan n).rq, g.req ≠ r.id
     let replies (t : State) (p : Reply → Prop) : Prop := (t.stack k).accepted = rest ∧ ∃ y : Reply, p y ∧ y.op = r.op ∧ y.tag = r.tag ∧
       y.agent = r.agent ∧ y.die = r.die ∧ (now → t.replies.getLast? = some y) ∧
       (¬ now → ∃ w : Waiting, (t.stack k).waiting.getLast? = some w ∧ w.req = r.id ∧ w.reply = y)
     let old (i : Nat) : Nat := natOfBytes ((List.range 4).map fun m => val s (r.pa + 4 * i + m))
     let op (i : Nat) : Nat := natOfBytes ((r.data.drop (4 * i)).take 4)
     let new (i : Nat) : Nat := match r.afn, r.flt with
       | 0, false => (old i + op i) % 2 ^ 32
       | 0, true => f32Add (old i) (op i)
       | 1, false => if signedOf 32 (op i) < signedOf 32 (old i) then op i else old i
       | 1, true => Fmt.f32.minMax false (old i) (op i)
       | 2, false => if signedOf 32 (old i) < signedOf 32 (op i) then op i else old i
       | 2, true => Fmt.f32.minMax true (old i) (op i)
       | 3, _ => old i &&& op i
       | 4, _ => old i ||| op i
       | 5, _ => old i ^^^ op i
       | 6, _ => op i
       | _, _ => if old i = op i then op (8 + i) else old i
     let changed (t : State) : Prop :=
       (∀ i < 8, ∀ m < 4, val t (r.pa + 4 * i + m) =
         if r.emask.getLsbD i && !(sget false s.poison (at_ (r.pa + 4 * i) / 64)) then (BitVec.ofNat 32 (new i)).extractLsb' (8 * m) 8
         else val s (r.pa + 4 * i + m)) ∧
       (∀ b < 2 ^ 40, b < r.pa ∨ r.pa + 32 ≤ b → val t b = val s b)
     k < 16 → x.accepted = r :: rest → r.home < 3 → r.pa + r.len ≤ 2 ^ 40 → s.keyOf r.key = some key →
     (∀ i ∈ ([(.stackRd, 0), (.stackWr, 1), (.stackWrm, 2), (.stackAtom, 3), (.stackRed, 4), (.stackZfill, 7)] : List (Instr × Nat)),
       r.op = i.2 → reqStatus s r ≠ 0 → Leads i.1 s fun t => SameMemory s t ∧ replies t fun y => y.status = reqStatus s r) ∧
     (reqStatus s r = 0 → inAperture r.pa = false →
       (r.op = 0 → Leads .stackRd s fun t => SameMemory s t ∧ replies t fun y =>
         y.status = 0 ∧ y.data = (List.range r.len).map (fun i => val s (r.pa + i)) ∧ y.pmask = s.pmask r.home r.pa r.len) ∧
       (r.op = 1 → Leads .stackWr s fun t => (replies t fun y => y.status = 0) ∧
         ∀ b < 2 ^ 40, val t b = if r.pa ≤ b ∧ b < r.pa + r.len then (r.data[b - r.pa]?).getD 0 else val s b) ∧
       (r.op = 2 → Leads .stackWrm s fun t => (replies t fun y => y.status = 0) ∧
         ∀ b < 2 ^ 40, val t b = if r.pa ≤ b ∧ b < r.pa + r.len ∧ (r.ben[b - r.pa]?).getD false = true then (r.data[b - r.pa]?).getD 0
           else val s b) ∧
       (r.op = 7 → Leads .stackZfill s fun t => (replies t fun y => y.status = 0) ∧
         ∀ b < 2 ^ 40, val t b = if r.pa ≤ b ∧ b < r.pa + r.len then 0 else val s b) ∧
       (r.op = 3 → r.len = 32 → r.afn < 8 → Leads .stackAtom s fun t => changed t ∧ replies t fun y =>
         y.status = 0 ∧ y.data = (List.range 32).map fun i => val s (r.pa + i)) ∧
       (r.op = 4 → r.len = 32 → Leads .stackRed s fun t => changed t ∧ (t.stack k).accepted = rest ∧
         ∃ p : RedDone, (t.stack k).redPend = x.redPend ++ [p] ∧ p.agent = r.agent ∧ p.tag = r.tag ∧ p.when_ = s.baseCycle ∧
           p.gen = r.gen ∧ p.req = (if unresolved s k r = 0 then none else some r.id) ∧ p.failed = decide (s.pmask r.home r.pa 32 ≠ 0))) ∧
     (r.op = 5 → let b : BitVec 512 := bitsOfBytes 512 r.data
       (reduceOk b = false → Leads .stackReduce s fun t => SameMemory s t ∧ (t.stack k).reduce = x.reduce ∧ replies t fun y => y.status = 6) ∧
       (reduceOk b = true → reduceKeys s b = false → Leads .stackReduce s fun t => SameMemory s t ∧ (t.stack k).reduce = x.reduce ∧
         replies t fun y => y.status = 3) ∧
       (reduceOk b = true → reduceKeys s b = true → Leads .stackReduce s fun t => SameMemory s t ∧
         (t.stack k).reduce = x.reduce ++ [{ block := b, done := 0 }] ∧ replies t fun y => y.status = 0))) ∧
  (∀ s : State,
     let k := s.arg.a
     let n := s.arg.b
     let x := s.stack k
     let c := x.chan n
     (grantDue s k n = false → exec .ingressGrant s = .next s) ∧
     (∀ i r l, x.fifo i = r :: l →
       let taken (t : State) : Prop := (t.stack k).accepted = x.accepted ++ [{ r with id := x.nextReq }] ∧
         (t.stack k).nextReq = x.nextReq + 1 ∧ ((t.stack k).fifo i).length = l.length ∧ (∀ m, m ≠ i → (t.stack k).fifo m = x.fifo m) ∧
         SameMemory s t
       (agedClass s x n = none → grantClass s x n = some i → Leads .ingressGrant s fun t =>
         taken t ∧ ((t.stack k).chan n).round = (c.round + 1) % 15) ∧
       (agedClass s x n = some i → Leads .ingressAging s fun t => taken t ∧ ((t.stack k).chan n).round = c.round)) ∧
     (∀ g l, c.draining = false → c.rq = g :: l → Leads .granuleReadResolve s fun t =>
       ((t.stack k).chan n).rq = l ∧ SameMemory s t ∧ (∃ y : List Reply, t.replies = s.replies ++ y) ∧
       (t.stack k).redPend = x.redPend.map fun r => if r.req = some g.req then { r with req := none, when_ := s.baseCycle } else r) ∧
     (c.draining = false → c.starved = 0 → 48 ≤ c.wq.length ∨ (c.rq = [] ∧ c.wq ≠ []) → Leads .writeDrain s fun t =>
       ((t.stack k).chan n).draining = true ∧ ((t.stack k).chan n).wq = c.wq ∧ ((t.stack k).chan n).drainedAt = s.baseCycle) ∧
     (∀ w, c.draining = true → c.wq.find? (drainable c) = some w → Leads .writeDrain s fun t =>
       ((t.stack k).chan n).wq = c.wq.erase w ∧ ((t.stack k).chan n).rq = c.rq ∧ SameMemory s t ∧
       ((c.wq.erase w).length ≤ 16 → ((t.stack k).chan n).draining = false)) ∧
     (starvationDue s k n = false → exec .starvationTimeout s = .next s) ∧
     (c.draining = true → c.rq ≠ [] → 512 ≤ s.baseCycle - c.drainedAt → Leads .starvationTimeout s fun t =>
       ((t.stack k).chan n).draining = false ∧ ((t.stack k).chan n).starved = 8 ∧ ((t.stack k).chan n).wq = c.wq) ∧
     (let mine := x.redPend.filter fun r => r.die == 0 && r.agent == n && r.req.isNone
      let told (t : State) : Prop := ∃ y : Reply, t.replies = s.replies ++ [y] ∧ y.op = 4 ∧ y.status = 0 ∧ y.agent = n ∧ y.stack = k ∧
        y.rcount = min 32 mine.length ∧ y.rfail = ((mine.take 32).filter fun r => r.failed).length ∧
        ((mine.take 32).getLast?.map fun r => r.tag) = some y.tag ∧ (t.stack k).redPend.length + y.rcount = x.redPend.length
      (32 ≤ mine.length ∨ (∃ r ∈ mine, r.flush = true) → Leads .redBatchAck s told) ∧
      (∀ r l, mine = r :: l → 64 ≤ s.baseCycle - r.when_ → Leads .redAckTimeout s told)) ∧
     (∀ m l kd, x.reduce = m :: l → reduceOk m.block = true → reduceKeys s m.block = true → m.done % 64 = 0 → m.done < redLength m.block →
       s.keyOf (nfield m.block 180 7) = some kd →
       let b := m.block
       let len := min 4096 (redLength b - m.done)
       let to_ := redDst b + m.done
       let sum := reduceBytes (redEtype b) (redSat b) ((List.range (redCount b)).map fun i =>
         s.bytesAt ((s.keyOf (nfield b 52 7)).getD 0) 0 (redSrc b + i * redStride b + m.done) len) len
       (m.done + len < redLength b → Leads .reduceChunk s fun t => (t.stack k).reduce = { m with done := m.done + len } :: l) ∧
       (m.done + len = redLength b → Leads .reduceChunk s fun t => (t.stack k).reduce = l ∧
         (redFlagged b = true → ∀ kf, s.keyOf (nfield b 308 7) = some kf → ∀ i < 8,
           t.byteUnder kf ((nfield b 256 52 + i) / 64) (nfield b 256 52 + i) = b.extractLsb' (320 + 8 * i) 8)) ∧
       (m.done + len < redLength b ∨ redFlagged b = false → Leads .reduceChunk s fun t => ∀ a, t.byteUnder kd (a / 64) a =
         if to_ ≤ a ∧ a < to_ + len then (sum[a - to_]?).getD 0 else s.byteUnder kd (a / 64) a)) ∧
     (let g := (k * 2 ^ 36 + n % 2 ^ 36) / 64
      let clean := sget false s.poison (g / 2 * 2) = false ∧ sget false s.poison (g / 2 * 2 + 1) = false
      (2 ^ 40 ≤ n → Leads .eccError s fun t => t = { s with farBad := sset false s.farBad (n % 2 ^ 52 / 64) true }) ∧
      (∀ a, n < 2 ^ 40 → Leads .eccError s fun t => t.rawByte a = s.rawByte a ∧ ∀ h, sget false t.poison h = (h == g || sget false s.poison h)) ∧
      (∀ pa, (sget none s.keyTag g).map (fun y => 64 * y.2) = some pa ∨ sget none s.keyTag g = none ∧ pa = 64 * g → clean → n < 2 ^ 40 → logRoom x.seHead x.seTail = true → Leads .eccError s fun t =>
        (t.stack k).seHead = (x.seHead + 1) % 512 ∧ t.msix = s.msix ++ [0] ∧
        sget 0 (t.stack k).slog (x.seHead % 256) =
          BitVec.ofNat 256 (s.ptpNs + 2 ^ 64 * (pa / 128 * 128) + 2 ^ 128 * k + 2 ^ 136 + 2 ^ 144 * 2 ^ (g % 2))) ∧
      (¬ clean → n < 2 ^ 40 → Leads .eccError s fun t => t.msix = s.msix ∧ (t.stack k).seHead = x.seHead)))

/-- Page migration and graph search. A migration engine reads its producer index, takes up the next command, sets a page in motion, counts
one it cannot move with status 1, 3 or 4, copies it byte for byte where nothing is compressed, makes its entry valid with its new place or
counts it with status 2, and ends a command with its consumer index (R95, R96). A home accepts a search, ends it when no candidate is left
or at its round limit, opens a round with the best candidates (R107, R113), a search unit answers with the neighbour lists of the records and a
distance per id (R105, R114), the home inserts what comes back until one fails the test (R115), and a completed query writes its header,
its entries and its flag (R118, R119), or leaves a record where its result has no place (R120). The tables are read under the key of the
address space's entry (log 47), rings, records and results lie under home mode 00 (log 28; DEDUCED). -/
def Obligations.MigrationAndSearch : Prop :=
  ∀ s : State,
    let k := s.arg.a
    let x := s.stack k
    let moves : List (Instr × Nat) := [(.migrateToFar, 1), (.migrateToNear, 2), (.migrateFetch, 3)]
    (pollDue s k = false → exec .migrationPoll s = .next s) ∧
    (pollDue s k = true → Leads .migrationPoll s fun t =>
      (t.stack k).migProd = migWord s k 0x4000 4 ∧ (t.stack k).migPoll = s.baseCycle + 1024 ∧ SameMemory s t) ∧
    (∀ n, migAt k s + 0x5000 ≤ 2 ^ 40 → nextCommand s k = some n → ¬ (1 ≤ mcOp (commandBytes s k n) ∧ mcOp (commandBytes s k n) ≤ 3) →
      Leads .migrateBadOp s fun t => (t.stack k).migration = none ∧ migWord t k 0x4004 4 = some ((n + 1) % 2 ^ 32)) ∧
    (∀ i ∈ moves, ∀ n, x.migration = none → nextCommand s k = some n → mcOp (commandBytes s k n) = i.2 → Leads i.1 s fun t =>
      SameMemory s t ∧ (t.stack k).migration = some
        { number := n, cmd := commandBytes s k n, va := mcVa (commandBytes s k n) % 2 ^ 48, target := mcTarget (commandBytes s k n),
          handled := 0, completed := 0, status := 0, moving := none }) ∧
    (∀ i ∈ moves, ∀ m, migAt k s ≠ 0 → x.migration = some m → mcOp m.cmd = i.2 → m.moving = none → (∀ d, (s.die d).rdc = []) →
      (mcPages m.cmd ≤ m.handled → migAt k s + 0x5000 ≤ 2 ^ 40 → s.keyOf (migKey k s) ≠ none → Leads i.1 s fun t =>
        (t.stack k).migration = none ∧ migWord t k 0x4004 4 = some ((m.number + 1) % 2 ^ 32)) ∧
      (m.handled < mcPages m.cmd →
        (∀ kind st, s.walk (mcAsid m.cmd) m.va = .fail kind st → Leads i.1 s fun t => SameMemory s t ∧
          ∃ m1 : Migration, (t.stack k).migration = some m1 ∧ m1.handled = m.handled + 1 ∧ m1.completed = m.completed ∧ m1.va = m.va / 4096 * 4096 + 4096 ∧
            m1.status = if m.status = 0 then 4 else m.status) ∧
        (∀ pte level at_, s.walk (mcAsid m.cmd) m.va = .leaf pte level at_ → pte.getLsbD 0 = true →
          leafKind (pte &&& ~~~((1 : Word) <<< 53) &&& ~~~((1 : Word) <<< 62)) level ≠ 2 →
          (pte.getLsbD 53 = decide (i.2 = 1) → Leads i.1 s fun t => SameMemory s t ∧
            ∃ m1 : Migration, (t.stack k).migration = some m1 ∧ m1.handled = m.handled + 1 ∧ m1.completed = m.completed ∧
              m1.status = if m.status = 0 then 1 else m.status) ∧
          (i.2 = 1 → pte.getLsbD 53 = false → (objectRecord s k m.cmd).2 / 2 % 2 = 1 → Leads i.1 s fun t => SameMemory s t ∧
            ∃ m1 : Migration, (t.stack k).migration = some m1 ∧ m1.handled = m.handled + 1 ∧ m1.completed = m.completed ∧
              m1.status = if m.status = 0 then 3 else m.status) ∧
          (let started (t : State) : Prop :=
             (t.stack k).migration = some { m with moving := some (pte, at_, tableKey s (mcAsid m.cmd), level) }
           (i.2 = 3 → pte.getLsbD 53 = true → Leads i.1 s fun t => started t ∧ SameMemory s t) ∧
           (∀ u, i.2 = 2 ∧ pte.getLsbD 53 = true ∨ i.2 = 1 ∧ pte.getLsbD 53 = false ∧ (objectRecord s k m.cmd).2 / 2 % 2 = 0 →
             swapPte s (k / 2 + 1) (tableKey s (mcAsid m.cmd)) at_ pte (pteMoving pte) = some u → Leads i.1 s started))))) ∧
    (∀ i ∈ moves, ∀ m pte at_ key level, migAt k s ≠ 0 → x.migration = some m → mcOp m.cmd = i.2 →
      m.moving = some (pte, at_, key, level) → (∀ d, (s.die d).rdc = []) →
      let size := leafSize level (pte.getLsbD 5)
      let src := nfield pte 12 40 * 4096 / size * size
      let to_ := m.target / size * size
      let c := copyPage s k m pte src size
      let new := pteMoved pte (i.2 == 1) c.2 to_ (mcTargetKey m.cmd) (if i.2 = 1 then 0 else mcTargetHome m.cmd)
      let counted (status : Nat) (t : State) : Prop := ∃ m1 : Migration, (t.stack k).migration = some m1 ∧ m1.moving = none ∧
        m1.handled = m.handled + 1 ∧ m1.completed = m.completed + (if status = 0 then 1 else 0) ∧
        m1.status = if m.status = 0 then status else m.status
      rangeBusy s src size = false →
      (i.2 = 3 → Leads i.1 s fun t => counted 0 t ∧ SameMemory c.1 t) ∧
      (i.2 ≠ 3 → swapPte c.1 (k / 2 + 1) key at_ (pteMoving pte) new = none → Leads i.1 s fun t => counted 2 t ∧ SameMemory c.1 t) ∧
      (∀ u, i.2 ≠ 3 → swapPte c.1 (k / 2 + 1) key at_ (pteMoving pte) new = some u → Leads i.1 s fun t => counted 0 t ∧ SameMemory u t) ∧
      (∀ from_ under, s.keyOf (nfield pte 55 7) = some from_ → s.keyOf (mcTargetKey m.cmd) = some under →
        (i.2 = 1 → (objectRecord s k m.cmd).2 % 2 = 0 → inFar to_ = true → inFar (to_ + size - 1) = true → c.2 = false ∧
          ∀ n, n < size → c.1.byteUnder under ((to_ + n) / 64) (to_ + n) =
            s.byteUnder from_ ((src + n) / 64) (storageAddr (nfield pte 6 2) (src + n))) ∧
        (i.2 ≠ 1 → pte.getLsbD 62 = false → to_ + size ≤ 2 ^ 40 → mcTargetHome m.cmd < 3 → c.2 = false ∧
          ∀ n, n < size → c.1.byteUnder under ((to_ + n) / 64) (storageAddr (mcTargetHome m.cmd) (to_ + n)) =
            s.byteUnder from_ ((src + n) / 64) (storageAddr 0 (src + n))))) ∧
    (∀ pte far z pa key home, pa < 2 ^ 52 → pa % 4096 = 0 → key < 128 → home < 3 →
      let e := pteMoved pte far z pa key home
      e.getLsbD 0 = true ∧ e.getLsbD 54 = false ∧ e.getLsbD 53 = far ∧ e.getLsbD 62 = z ∧ nfield e 12 40 * 4096 = pa ∧
      nfield e 55 7 = key ∧ nfield e 6 2 = home) ∧
    (∀ r rest, x.accepted = r :: rest → r.op = 6 → x.queries.length < 64 → ∀ u g v,
      openQuery (answer s k r (replyTo s k r 0 0 [])) k (bitsOfBytes 1024 (r.data.take 128)) (r.data.drop 128) = (u, .ok (g, v)) →
      Leads .stackSrch s fun t =>
        (t.stack k).accepted = rest ∧ SameMemory u t ∧ ∃ q : Query, (t.stack k).queries = x.queries ++ [q] ∧ q.id = x.nextQuery ∧ q.desc = g ∧
          q.vec = v ∧ q.status = none ∧ q.entered = false ∧ q.phase = 0) ∧
    (∀ q, s.query k s.arg.b = some q → q.status = none → q.waiting = 0 → q.phase = 0 → q.entered = true →
      let full := q.w.length = qEf q.block ∧ ∃ b w : Nat × Nat, q.c.head? = some b ∧ q.w.getLast? = some w ∧ keyBefore w b = true
      (q.c = [] ∨ full → Leads .searchRound s fun t => ∃ p : Query, t.query k s.arg.b = some p ∧ p.status = some 0 ∧ p.w = q.w) ∧
      (q.c ≠ [] → ¬ full → qRmax q.block ≠ 0 → q.rounds = qRmax q.block → Leads .searchRound s fun t =>
        ∃ p : Query, t.query k s.arg.b = some p ∧ p.status = some 1 ∧ p.w = q.w) ∧
      (q.c ≠ [] → ¬ full → qRmax q.block ≠ q.rounds ∨ qRmax q.block = 0 → 1 ≤ qW q.block → Leads .searchRound s fun t =>
        ∃ p : Query, t.query k s.arg.b = some p ∧ p.phase = 1 ∧ p.w = q.w ∧ p.popped.head? = q.c.head?.map Prod.snd ∧
          p.popped.length ≤ qW q.block ∧ p.popped = (q.c.take p.popped.length).map Prod.snd ∧ p.c = q.c.drop p.popped.length)) ∧
    (∀ m l, x.listReq = m :: l → Leads .listMessage s fun t => (t.stack k).listReq = l ∧ SameMemory s t ∧
      ∀ q, s.query m.home m.query = some q → ∃ p : Query, t.query m.home m.query = some p ∧ p.waiting = q.waiting - 1 ∧ p.dists = q.dists ∧
        p.lists = q.lists ++ m.ids.filterMap fun n => match readNode s q.desc n with | .ok r => some (n, r.1) | .error _ => none) ∧
    (∀ m l, x.distReq = m :: l → Leads .distMessage s fun t => (t.stack k).distReq = l ∧ SameMemory s t ∧
      ∀ q, s.query m.home m.query = some q → ∃ p : Query, t.query m.home m.query = some p ∧ p.waiting = q.waiting - 1 ∧ p.lists = q.lists ∧
        (let vec (bs : List Byte) := vecElems (gEtype q.desc) (gDim q.desc) bs
         p.dists = q.dists ++ m.ids.filterMap fun n => match readNode s q.desc n with
           | .ok r => some (distance (qMetric q.block) (vec q.vec) (vec r.2), n)
           | .error _ => none)) ∧
    (∀ g n l v kd, readNode s g n = .ok (l, v) → s.keyOf (gKey g) = some kd →
      let val (i : Nat) : Byte := s.byteUnder kd ((nodeStack n * 2 ^ 36 + gBase g + nodeLocal n * gStride g + i) / 64)
        (nodeStack n * 2 ^ 36 + gBase g + nodeLocal n * gStride g + i)
      l.length = (val 0).toNat ∧ val 1 = 1 ∧ (∀ i, i < l.length → l[i]? = some (natOfBytes ((List.range 8).map fun j => val (64 + 8 * i + j)))) ∧
      ∀ i, i < vecBytes (gEtype g) (gDim g) → v[i]? = some (val (64 + 8 * gDeg g + i))) ∧
    (∀ q, s.query k s.arg.b = some q → q.status = none → q.waiting = 0 → q.phase = 2 → q.fail = none →
      let es := q.dists.foldl (fun l y => insertKey y l) []
      let ef := qEf q.block
      let put (e : Nat × Nat) (l : List (Nat × Nat)) : List (Nat × Nat) := (insertKey e l).take ef
      let fits (l : List (Nat × Nat)) (e : Nat × Nat) : Prop := l.length < ef ∨ ∀ b, l.getLast? = some b → keyBefore e b = true
      Leads .searchRound s fun t => ∃ p : Query, t.query k s.arg.b = some p ∧ p.phase = 0 ∧ p.status = none ∧
        p.rounds = (if q.popped = [] then q.rounds else q.rounds + 1) ∧ (∀ e ∈ p.w, e ∈ q.w ∨ e ∈ q.dists) ∧
        p.w.length ≤ max ef q.w.length ∧
        (∀ e r, es = e :: r → ¬ fits q.w e → p.w = q.w ∧ p.c = q.c) ∧
        (∀ e, es = [e] → fits q.w e → p.w = put e q.w ∧ p.c = put e q.c) ∧
        (∀ e f r, es = e :: f :: r → fits q.w e → ¬ fits (put e q.w) f → p.w = put e q.w ∧ p.c = put e q.c) ∧
        (∀ e f, es = [e, f] → fits q.w e → fits (put e q.w) f → p.w = put f (put e q.w) ∧ p.c = put f (put e q.c))) ∧
    (∀ q st kd kf, s.query k s.arg.b = some q → q.status = some st → queryOk q.block = true →
      s.keyOf (nfield (qDst q.block) 52 7) = some kd → s.keyOf (nfield (qFlag q.block) 52 7) = some kf →
      let to_ := nfield (qDst q.block) 0 52
      let flag := nfield (qFlag q.block) 0 52
      to_ + 64 + 16 * qK q.block ≤ 2 ^ 40 → flag + 8 ≤ 2 ^ 40 → flag + 8 ≤ to_ ∨ (to_ + 64 + 16 * qK q.block + 63) / 64 * 64 ≤ flag →
      st < 256 → q.bad < 2 ^ 64 → (∀ e ∈ q.w, e.1 < 2 ^ 32 ∧ e.2 < 2 ^ 64) → Leads .searchComplete s fun t =>
        let num (i n : Nat) : Nat := natOfBytes ((List.range n).map fun j => t.byteUnder kd ((to_ + i + j) / 64) (to_ + i + j))
        num 0 4 = qId q.block ∧ num 4 1 = st ∧ num 5 1 = (if q.bloom.isSome then 1 else 0) + (if q.nan then 2 else 0) ∧
        num 6 2 = min (qK q.block) q.w.length ∧ num 8 4 = q.rounds % 2 ^ 32 ∧ num 12 4 = q.visited % 2 ^ 32 ∧ num 16 8 = q.bad ∧
        (∀ i, 24 ≤ i → i < 64 → num i 1 = 0) ∧
        (∀ i, i < qK q.block → num (64 + 16 * i) 8 = ((q.w[i]?).map Prod.snd).getD (2 ^ 64 - 1) ∧
          num (72 + 16 * i) 4 = ((q.w[i]?).map Prod.fst).getD 0x7FC00000 ∧ num (76 + 16 * i) 4 = 0) ∧
        ∀ i, i < 8 → t.byteUnder kf ((flag + i) / 64) (flag + i) = (qValue q.block).extractLsb' (8 * i) 8) ∧
    (∀ q st, s.query k s.arg.b = some q → q.status = some st → Leads .searchComplete s fun t =>
      (t.stack k).queries = x.queries.filter (fun y => y.id != s.arg.b) ∧
      (s.keyOf (nfield (qDst q.block) 52 7) = none → nfield (qDst q.block) 0 52 + 64 ≤ 2 ^ 40 → SameMemory s t ∧
        (logRoom x.seHead x.seTail = true → t.msix = s.msix ++ [0] ∧ (t.stack k).seHead = (x.seHead + 1) % 512)))
end

