-- ==== Sys2Proof/Laws/Data.lean ====
section
/-! SUPPORT. The laws of keyed data: what a read gives after a write, the canonical form a write keeps, and that equal reads of
canonical data are equal data. -/

namespace Sys2Proof.Machine

variable {α : Type} {d : α}

@[simp] theorem sget_nil (k : Nat) : sget d ([] : Sparse α) k = d := rfl

theorem sget_serase_self (m : Sparse α) (k : Nat) : sget d (serase m k) k = d := by
  induction m with
  | nil => rfl
  | cons p r ih =>
    by_cases h : p.1 = k
    · simpa [serase, h] using ih
    · simp [serase, sget, h, ih]

theorem sget_serase_of_ne {j k : Nat} (h : j ≠ k) (m : Sparse α) : sget d (serase m k) j = sget d m j := by
  induction m with
  | nil => rfl
  | cons p r ih =>
    by_cases hk : p.1 = k
    · have : p.1 ≠ j := fun e => h (e ▸ hk)
      simp [serase, sget, hk, ih, hk ▸ this]
    · by_cases hj : p.1 = j
      · subst hj; simp [serase, sget, hk]
      · simp [serase, sget, hk, hj, ih]

theorem sget_sinsert_of_ne {j k : Nat} (h : j ≠ k) (m : Sparse α) (v : α) : sget d (sinsert m k v) j = sget d m j := by
  induction m with
  | nil => simp [sinsert, sget, Ne.symm h]
  | cons p r ih =>
    by_cases hk : k < p.1
    · simp [sinsert, hk, sget, Ne.symm h]
    · by_cases hj : p.1 = j
      · subst hj; simp [sinsert, sget, hk]
      · simp [sinsert, sget, hk, hj, ih]

theorem sget_sinsert_self {m : Sparse α} {k : Nat} (h : sget d m k = d) (v : α) (hne : ∀ p ∈ m, p.1 ≠ k) :
    sget d (sinsert m k v) k = v := by
  induction m with
  | nil => simp [sinsert, sget]
  | cons p r ih =>
    have hp : p.1 ≠ k := hne p (by simp)
    by_cases hk : k < p.1
    · simp [sinsert, hk, sget]
    · have hr : sget d r k = d := by simpa [sget, hp] using h
      simp [sinsert, sget, hk, hp, ih hr (fun q hq => hne q (by simp [hq]))]

theorem ne_of_mem_serase {m : Sparse α} {k : Nat} : ∀ p ∈ serase m k, p.1 ≠ k := by
  induction m with
  | nil => simp [serase]
  | cons p r ih =>
    by_cases h : p.1 = k
    · simpa [serase, h] using ih
    · intro q hq
      simp only [serase, h, if_false, List.mem_cons] at hq
      rcases hq with rfl | hq
      · exact h
      · exact ih q hq

/-- A read of the key just written gives the value written. -/
@[simp] theorem sget_sset_self [DecidableEq α] (m : Sparse α) (k : Nat) (v : α) : sget d (sset d m k v) k = v := by
  unfold sset
  split
  · rename_i h; rw [sget_serase_self, h]
  · exact sget_sinsert_self (sget_serase_self m k) v ne_of_mem_serase

/-- A write leaves every other key alone. -/
theorem sget_sset_of_ne [DecidableEq α] {j k : Nat} (h : j ≠ k) (m : Sparse α) (v : α) :
    sget d (sset d m k v) j = sget d m j := by
  unfold sset
  split
  · exact sget_serase_of_ne h m
  · rw [sget_sinsert_of_ne h, sget_serase_of_ne h]

/-- A read after a write, in one equation. -/
theorem sget_sset [DecidableEq α] (m : Sparse α) (j k : Nat) (v : α) :
    sget d (sset d m k v) j = if j = k then v else sget d m j := by
  by_cases h : j = k
  · subst h; simp
  · simp [h, sget_sset_of_ne h]

/-! ### Canonical form -/

theorem swf_tail [DecidableEq α] {p : Nat × α} {r : Sparse α} (h : swf d (p :: r) = true) : swf d r = true := by
  cases r with
  | nil => rfl
  | cons q r => simp only [swf, Bool.and_eq_true] at h; exact h.2

theorem swf_head [DecidableEq α] {p : Nat × α} {r : Sparse α} (h : swf d (p :: r) = true) : p.2 ≠ d := by
  cases r with
  | nil => simpa [swf] using h
  | cons q r => simp only [swf, Bool.and_eq_true, decide_eq_true_eq] at h; exact h.1.2

theorem lt_of_swf [DecidableEq α] {p : Nat × α} {r : Sparse α} (h : swf d (p :: r) = true) : ∀ q ∈ r, p.1 < q.1 := by
  induction r generalizing p with
  | nil => simp
  | cons x r ih =>
    have hx : p.1 < x.1 := by simp only [swf, Bool.and_eq_true, decide_eq_true_eq] at h; exact h.1.1
    intro q hq
    rcases List.mem_cons.mp hq with rfl | hq
    · exact hx
    · exact Nat.lt_trans hx (ih (swf_tail h) q hq)

theorem swf_cons [DecidableEq α] {p : Nat × α} {r : Sparse α} (hp : p.2 ≠ d) (hr : swf d r = true)
    (hl : ∀ q ∈ r, p.1 < q.1) : swf d (p :: r) = true := by
  cases r with
  | nil => simpa [swf] using hp
  | cons q r =>
    simp only [swf, Bool.and_eq_true, decide_eq_true_eq]
    exact ⟨⟨hl q (by simp), hp⟩, hr⟩

theorem mem_of_mem_serase {m : Sparse α} {k : Nat} {p : Nat × α} (h : p ∈ serase m k) : p ∈ m := by
  induction m with
  | nil => simp [serase] at h
  | cons x r ih =>
    by_cases hx : x.1 = k
    · simp only [serase, hx, if_true] at h; exact List.mem_cons_of_mem _ (ih h)
    · simp only [serase, hx, if_false, List.mem_cons] at h
      rcases h with rfl | h
      · simp
      · exact List.mem_cons_of_mem _ (ih h)

theorem swf_serase [DecidableEq α] {m : Sparse α} (h : swf d m = true) (k : Nat) : swf d (serase m k) = true := by
  induction m with
  | nil => rfl
  | cons p r ih =>
    by_cases hk : p.1 = k
    · simpa [serase, hk] using ih (swf_tail h)
    · simp only [serase, hk, if_false]
      exact swf_cons (swf_head h) (ih (swf_tail h)) fun q hq => lt_of_swf h q (mem_of_mem_serase hq)

theorem mem_sinsert {m : Sparse α} {k : Nat} {v : α} {p : Nat × α} (h : p ∈ sinsert m k v) : p = (k, v) ∨ p ∈ m := by
  induction m with
  | nil => simpa [sinsert] using h
  | cons x r ih =>
    by_cases hk : k < x.1
    · simpa [sinsert, hk] using h
    · simp only [sinsert, hk, if_false, List.mem_cons] at h
      rcases h with rfl | h
      · exact Or.inr (by simp)
      · rcases ih h with rfl | h
        · exact Or.inl rfl
        · exact Or.inr (List.mem_cons_of_mem _ h)

theorem swf_sinsert [DecidableEq α] {m : Sparse α} (h : swf d m = true) {k : Nat} {v : α} (hv : v ≠ d)
    (hne : ∀ p ∈ m, p.1 ≠ k) : swf d (sinsert m k v) = true := by
  induction m with
  | nil => simpa [sinsert, swf] using hv
  | cons p r ih =>
    by_cases hk : k < p.1
    · simp only [sinsert, hk, if_true]
      refine swf_cons hv h fun q hq => ?_
      rcases List.mem_cons.mp hq with rfl | hq
      · exact hk
      · exact Nat.lt_trans hk (lt_of_swf h q hq)
    · have hp : p.1 < k := by have := hne p (by simp); omega
      simp only [sinsert, hk, if_false]
      refine swf_cons (swf_head h) (ih (swf_tail h) fun q hq => hne q (by simp [hq])) fun q hq => ?_
      rcases mem_sinsert hq with rfl | hq
      · exact hp
      · exact lt_of_swf h q hq

/-- A write keeps the canonical form. -/
theorem swf_sset [DecidableEq α] {m : Sparse α} (h : swf d m = true) (k : Nat) (v : α) : swf d (sset d m k v) = true := by
  unfold sset
  split
  · exact swf_serase h k
  · rename_i hv; exact swf_sinsert (swf_serase h k) hv ne_of_mem_serase

theorem sget_of_lt {m : Sparse α} {k : Nat} (h : ∀ q ∈ m, k < q.1) : sget d m k = d := by
  induction m with
  | nil => rfl
  | cons p r ih =>
    have hp := h p (by simp)
    have : p.1 ≠ k := by omega
    simp [sget, this, ih fun q hq => h q (by simp [hq])]

/-- Canonical data with equal reads are equal. -/
theorem eq_of_sget [DecidableEq α] {m n : Sparse α} (hm : swf d m = true) (hn : swf d n = true)
    (h : ∀ k, sget d m k = sget d n k) : m = n := by
  induction m generalizing n with
  | nil =>
    cases n with
    | nil => rfl
    | cons q r => exact absurd (by simpa [sget] using (h q.1).symm) (swf_head hn)
  | cons p r ih =>
    cases n with
    | nil => exact absurd (by simpa [sget] using h p.1) (swf_head hm)
    | cons q t =>
      have hk : p.1 = q.1 := by
        rcases Nat.lt_trichotomy p.1 q.1 with hl | he | hl
        · have := h p.1
          rw [sget_of_lt (m := q :: t) (k := p.1) (by
            intro x hx
            rcases List.mem_cons.mp hx with rfl | hx
            · exact hl
            · exact Nat.lt_trans hl (lt_of_swf hn x hx))] at this
          exact absurd (by simpa [sget] using this) (swf_head hm)
        · exact he
        · have := h q.1
          rw [sget_of_lt (m := p :: r) (k := q.1) (by
            intro x hx
            rcases List.mem_cons.mp hx with rfl | hx
            · exact hl
            · exact Nat.lt_trans hl (lt_of_swf hm x hx))] at this
          exact absurd (by simpa [sget] using this.symm) (swf_head hn)
      have hv : p.2 = q.2 := by have := h p.1; simpa [sget, hk] using this
      have ht : r = t := ih (swf_tail hm) (swf_tail hn) fun k => by
        by_cases e : k = p.1
        · subst e
          rw [sget_of_lt (lt_of_swf hm), sget_of_lt (fun x hx => hk ▸ lt_of_swf hn x hx)]
        · have := h k
          simpa [sget, Ne.symm e, hk ▸ Ne.symm e] using this
      rw [Prod.ext hk hv, ht]

end Sys2Proof.Machine
end

