-- ==== Sys2Proof/Laws/Flits.lean ====
section
/-! SUPPORT. The laws of viaduct flits: a sealed flit passes its check and keeps its number and type. -/

namespace Sys2Proof.Machine

theorem nfield_eq_toNat {m : Nat} (v : BitVec m) (lo n : Nat) : nfield v lo n = (v.extractLsb' lo n).toNat :=
  (BitVec.extractLsb'_toNat ..).symm

/-- A field of the low 992 bits. -/
theorem nfield_low (lo n : Nat) (hi : BitVec 32) (h : BitVec 992) (hn : lo + n ≤ 992) :
    nfield (hi ++ h : BitVec (32 + 992)) lo n = nfield h lo n := by
  rw [nfield_eq_toNat, nfield_eq_toNat]
  refine congrArg BitVec.toNat (BitVec.eq_of_getElem_eq fun k hk => ?_)
  simp only [BitVec.getElem_extractLsb', BitVec.getLsbD_append]
  rw [if_pos (by omega)]

/-- The bytes below the last 32 bits do not depend on them. -/
theorem bytesOf_low (n : Nat) (hi : BitVec 32) (h : BitVec 992) (hn : 8 * n ≤ 992) :
    bytesOf (hi ++ h : BitVec (32 + 992)) n = bytesOf h n := by
  unfold bytesOf
  refine List.map_congr_left fun i hi' => ?_
  rw [List.mem_range] at hi'
  ext k hk
  simp only [BitVec.getElem_extractLsb', BitVec.getLsbD_append]
  rw [if_pos (by omega)]

/-- A flit is good if its last 32 bits are the CRC of the others. -/
theorem flitGood_append (c : BitVec 32) (h : BitVec 992) : flitGood (c ++ h : BitVec (32 + 992)) = (c == crc32c (bytesOf h 124)) := by
  unfold flitGood flitCrc
  rw [bytesOf_low 124 c h (by decide)]
  congr 1
  ext k hk
  refine Eq.trans (BitVec.getElem_extractLsb' hk) ?_
  exact (BitVec.getLsbD_append).trans (by rw [if_neg (by omega)]; simp [hk])

theorem flitGood_sealFlit (f : BitVec 1024) (seq ack : Nat) : flitGood (sealFlit f seq ack) = true := by
  unfold sealFlit
  exact (flitGood_append ..).trans (by simp)

theorem flitSeq_sealFlit (f : BitVec 1024) (seq ack : Nat) : flitSeq (sealFlit f seq ack) = seq % 4096 := by
  unfold flitSeq sealFlit
  refine Eq.trans (nfield_low 0 12 _ _ (by decide)) ?_
  rw [nfield_eq_toNat]
  have h : (f.extractLsb' 28 964 ++ BitVec.ofNat 12 ack ++ f.extractLsb' 12 4 ++ BitVec.ofNat 12 seq).extractLsb' 0 12 = BitVec.ofNat 12 seq := by
    ext k hk
    simp only [BitVec.getElem_extractLsb', BitVec.getLsbD_append]
    rw [if_pos (by omega)]
    simp [hk]
  exact (congrArg BitVec.toNat h).trans (by simp)

theorem flitType_sealFlit (f : BitVec 1024) (seq ack : Nat) : flitType (sealFlit f seq ack) = flitType f := by
  unfold flitType sealFlit
  refine Eq.trans (nfield_low 12 4 _ _ (by decide)) ?_
  rw [nfield_eq_toNat]
  have h : (f.extractLsb' 28 964 ++ BitVec.ofNat 12 ack ++ f.extractLsb' 12 4 ++ BitVec.ofNat 12 seq).extractLsb' 12 4 = f.extractLsb' 12 4 := by
    ext k hk
    simp only [BitVec.getElem_extractLsb', BitVec.getLsbD_append]
    rw [if_neg (by omega), if_pos (by omega)]
    simp [hk]
  rw [h, nfield_eq_toNat]

end Sys2Proof.Machine
end

