-- ==== Sys2Proof/Laws/Host.lean ====
section
/-! SUPPORT. The laws of what the host asks: a read of registers and a write of its configuration space change no unit and no memory,
and a read answers as many bytes as it asks for. -/

namespace Sys2Proof.Machine

/-- What the host asks changes nothing but what it is told, its configuration space and the counter of free values. -/
theorem hostAsk_frame (s : State) (x : HostAsk) :
    { hostAsk s x with
      hostOut := s.hostOut, fresh := s.fresh, bar0 := s.bar0, bar2 := s.bar2, bar4 := s.bar4, bar4Bits := s.bar4Bits } = s := by
  cases x with
  | read bar o len => simp only [hostAsk]; split <;> split <;> rfl
  | setBase bar w => simp only [hostAsk]; split <;> rfl
  | setSize n => simp only [hostAsk]; split <;> rfl

@[simp] theorem registerBytes_length (s : State) (o len : Nat) : (registerBytes s o len).length = len := by
  simp [registerBytes]

/-- Of a write-only register a read finds zero: KEYDATA, the time to set the clock, the decrement register (R6). -/
theorem registerRead_writeOnly (s : State) (h : s.bootState ≠ 3) :
    registerRead s 0x540 = some 0 ∧ registerRead s 0x548 = some 0 ∧ registerRead s 0x828 = some 0 ∧ registerRead s 0x3100 = some 0 := by
  simp [registerRead, packageRead, h]

/-- A step that finds something the host asks, with no reset due, answers it and does nothing else. -/
theorem step_hostAsk (s : State) (x : HostAsk) (r : List HostAsk) (h : resetDue s = false) (hs : s.hostAsks = x :: r) :
    step s = .next (hostAsk { s with hostAsks := r } x) := by
  simp [step, pick, h, hs]

end Sys2Proof.Machine
end

