-- ==== Sys2Proof/Laws/State.lean ====
section
/-! SUPPORT. One lemma per field of the state and update of it, and per unit read and update: no proof unfolds a record. -/

namespace Sys2Proof.Machine

/-! ### Reads of units after updates -/

@[simp] theorem State.modCore_eq (s : State) (q : Nat) (f : CoreSt → CoreSt) : s.modCore q f = s.setCore q (f (s.core q)) := rfl
@[simp] theorem State.modArch_eq (s : State) (q : Nat) (f : Arch → Arch) :
    s.modArch q f = s.setCore q { s.core q with arch := f (s.core q).arch } := rfl
@[simp] theorem State.modCell_eq (s : State) (q j : Nat) (f : CellSt → CellSt) : s.modCell q j f = s.setCell q j (f (s.cell q j)) := rfl

@[simp] theorem State.core_setCore (s : State) (q : Nat) (c : CoreSt) : (s.setCore q c).core q = c := by
  simp [State.setCore, State.core]
theorem State.core_setCore_of_ne {o q : Nat} (h : o ≠ q) (s : State) (c : CoreSt) : (s.setCore q c).core o = s.core o := by
  simp [State.setCore, State.core, sget_sset_of_ne h]
@[simp] theorem State.cell_setCell (s : State) (q j : Nat) (c : CellSt) : (s.setCell q j c).cell q j = c := by
  simp [State.setCell, State.cell]
theorem State.cell_setCell_of_ne {o i q j : Nat} (h : 4 * o + i ≠ 4 * q + j) (s : State) (c : CellSt) :
    (s.setCell q j c).cell o i = s.cell o i := by
  simp [State.setCell, State.cell, sget_sset_of_ne h]
@[simp] theorem State.die_modDie (s : State) (d : Nat) (f : DieSt → DieSt) : (s.modDie d f).die d = f (s.die d) := by
  simp [State.modDie, State.die]
theorem State.die_modDie_of_ne {o d : Nat} (h : o ≠ d) (s : State) (f : DieSt → DieSt) : (s.modDie d f).die o = s.die o := by
  simp [State.modDie, State.die, sget_sset_of_ne h]
@[simp] theorem State.stack_modStack (s : State) (k : Nat) (f : StackSt → StackSt) : (s.modStack k f).stack k = f (s.stack k) := by
  simp [State.modStack, State.stack]
theorem State.stack_modStack_of_ne {o k : Nat} (h : o ≠ k) (s : State) (f : StackSt → StackSt) :
    (s.modStack k f).stack o = s.stack o := by
  simp [State.modStack, State.stack, sget_sset_of_ne h]
@[simp] theorem State.entry_modEntry (s : State) (i : Nat) (f : Entry → Entry) : (s.modEntry i f).entry i = f (s.entry i) := by
  simp [State.modEntry, State.entry]
theorem State.entry_modEntry_of_ne {o i : Nat} (h : o ≠ i) (s : State) (f : Entry → Entry) :
    (s.modEntry i f).entry o = s.entry o := by
  simp [State.modEntry, State.entry, sget_sset_of_ne h]

/-! ### setCore -/

@[simp] theorem State.cell_setCore (s : State) (q : Nat) (c : CoreSt) (o i : Nat) : (s.setCore q c).cell o i = s.cell o i := rfl
@[simp] theorem State.die_setCore (s : State) (q : Nat) (c : CoreSt) (o : Nat) : (s.setCore q c).die o = s.die o := rfl
@[simp] theorem State.stack_setCore (s : State) (q : Nat) (c : CoreSt) (o : Nat) : (s.setCore q c).stack o = s.stack o := rfl
@[simp] theorem State.entry_setCore (s : State) (q : Nat) (c : CoreSt) (o : Nat) : (s.setCore q c).entry o = s.entry o := rfl
@[simp] theorem State.setCore_pcc (s : State) (q : Nat) (c : CoreSt) : (s.setCore q c).pcc = s.pcc := rfl
@[simp] theorem State.setCore_wall (s : State) (q : Nat) (c : CoreSt) : (s.setCore q c).wall = s.wall := rfl
@[simp] theorem State.setCore_ptp (s : State) (q : Nat) (c : CoreSt) : (s.setCore q c).ptp = s.ptp := rfl
@[simp] theorem State.setCore_clockOn (s : State) (q : Nat) (c : CoreSt) : (s.setCore q c).clockOn = s.clockOn := rfl
@[simp] theorem State.setCore_debugHalt (s : State) (q : Nat) (c : CoreSt) : (s.setCore q c).debugHalt = s.debugHalt := rfl
@[simp] theorem State.setCore_episode (s : State) (q : Nat) (c : CoreSt) : (s.setCore q c).episode = s.episode := rfl
@[simp] theorem State.setCore_hotDies (s : State) (q : Nat) (c : CoreSt) : (s.setCore q c).hotDies = s.hotDies := rfl
@[simp] theorem State.setCore_tripped (s : State) (q : Nat) (c : CoreSt) : (s.setCore q c).tripped = s.tripped := rfl
@[simp] theorem State.setCore_bootState (s : State) (q : Nat) (c : CoreSt) : (s.setCore q c).bootState = s.bootState := rfl
@[simp] theorem State.setCore_bootStep (s : State) (q : Nat) (c : CoreSt) : (s.setCore q c).bootStep = s.bootStep := rfl
@[simp] theorem State.setCore_bootSvn (s : State) (q : Nat) (c : CoreSt) : (s.setCore q c).bootSvn = s.bootSvn := rfl
@[simp] theorem State.setCore_resetReq (s : State) (q : Nat) (c : CoreSt) : (s.setCore q c).resetReq = s.resetReq := rfl
@[simp] theorem State.setCore_flash (s : State) (q : Nat) (c : CoreSt) : (s.setCore q c).flash = s.flash := rfl
@[simp] theorem State.setCore_bootImage (s : State) (q : Nat) (c : CoreSt) : (s.setCore q c).bootImage = s.bootImage := rfl
@[simp] theorem State.setCore_latTable (s : State) (q : Nat) (c : CoreSt) : (s.setCore q c).latTable = s.latTable := rfl
@[simp] theorem State.setCore_routes (s : State) (q : Nat) (c : CoreSt) : (s.setCore q c).routes = s.routes := rfl
@[simp] theorem State.setCore_lanesDown (s : State) (q : Nat) (c : CoreSt) : (s.setCore q c).lanesDown = s.lanesDown := rfl
@[simp] theorem State.setCore_explGo (s : State) (q : Nat) (c : CoreSt) : (s.setCore q c).explGo = s.explGo := rfl
@[simp] theorem State.setCore_explChanged (s : State) (q : Nat) (c : CoreSt) : (s.setCore q c).explChanged = s.explChanged := rfl
@[simp] theorem State.setCore_explDup (s : State) (q : Nat) (c : CoreSt) : (s.setCore q c).explDup = s.explDup := rfl
@[simp] theorem State.setCore_explFound (s : State) (q : Nat) (c : CoreSt) : (s.setCore q c).explFound = s.explFound := rfl
@[simp] theorem State.setCore_explRunning (s : State) (q : Nat) (c : CoreSt) : (s.setCore q c).explRunning = s.explRunning := rfl
@[simp] theorem State.setCore_explGen (s : State) (q : Nat) (c : CoreSt) : (s.setCore q c).explGen = s.explGen := rfl
@[simp] theorem State.setCore_explLast (s : State) (q : Nat) (c : CoreSt) : (s.setCore q c).explLast = s.explLast := rfl
@[simp] theorem State.setCore_reports (s : State) (q : Nat) (c : CoreSt) : (s.setCore q c).reports = s.reports := rfl
@[simp] theorem State.setCore_explFlits (s : State) (q : Nat) (c : CoreSt) : (s.setCore q c).explFlits = s.explFlits := rfl
@[simp] theorem State.setCore_pkgNum (s : State) (q : Nat) (c : CoreSt) : (s.setCore q c).pkgNum = s.pkgNum := rfl
@[simp] theorem State.setCore_pkgUsed (s : State) (q : Nat) (c : CoreSt) : (s.setCore q c).pkgUsed = s.pkgUsed := rfl
@[simp] theorem State.setCore_ports (s : State) (q : Nat) (c : CoreSt) : (s.setCore q c).ports = s.ports := rfl
@[simp] theorem State.setCore_keys (s : State) (q : Nat) (c : CoreSt) : (s.setCore q c).keys = s.keys := rfl
@[simp] theorem State.setCore_keySlotSel (s : State) (q : Nat) (c : CoreSt) : (s.setCore q c).keySlotSel = s.keySlotSel := rfl
@[simp] theorem State.setCore_keyPend (s : State) (q : Nat) (c : CoreSt) : (s.setCore q c).keyPend = s.keyPend := rfl
@[simp] theorem State.setCore_keyData (s : State) (q : Nat) (c : CoreSt) : (s.setCore q c).keyData = s.keyData := rfl
@[simp] theorem State.setCore_w4base (s : State) (q : Nat) (c : CoreSt) : (s.setCore q c).w4base = s.w4base := rfl
@[simp] theorem State.setCore_ptpSource (s : State) (q : Nat) (c : CoreSt) : (s.setCore q c).ptpSource = s.ptpSource := rfl
@[simp] theorem State.setCore_ptpPort (s : State) (q : Nat) (c : CoreSt) : (s.setCore q c).ptpPort = s.ptpPort := rfl
@[simp] theorem State.setCore_ptpLocked (s : State) (q : Nat) (c : CoreSt) : (s.setCore q c).ptpLocked = s.ptpLocked := rfl
@[simp] theorem State.setCore_ppsSeen (s : State) (q : Nat) (c : CoreSt) : (s.setCore q c).ppsSeen = s.ppsSeen := rfl
@[simp] theorem State.setCore_ptpRate (s : State) (q : Nat) (c : CoreSt) : (s.setCore q c).ptpRate = s.ptpRate := rfl
@[simp] theorem State.setCore_forigin (s : State) (q : Nat) (c : CoreSt) : (s.setCore q c).forigin = s.forigin := rfl
@[simp] theorem State.setCore_foriginNew (s : State) (q : Nat) (c : CoreSt) : (s.setCore q c).foriginNew = s.foriginNew := rfl
@[simp] theorem State.setCore_loadAddr (s : State) (q : Nat) (c : CoreSt) : (s.setCore q c).loadAddr = s.loadAddr := rfl
@[simp] theorem State.setCore_loadStatus (s : State) (q : Nat) (c : CoreSt) : (s.setCore q c).loadStatus = s.loadStatus := rfl
@[simp] theorem State.setCore_images (s : State) (q : Nat) (c : CoreSt) : (s.setCore q c).images = s.images := rfl
@[simp] theorem State.setCore_surfBase (s : State) (q : Nat) (c : CoreSt) : (s.setCore q c).surfBase = s.surfBase := rfl
@[simp] theorem State.setCore_astBase (s : State) (q : Nat) (c : CoreSt) : (s.setCore q c).astBase = s.astBase := rfl
@[simp] theorem State.setCore_tlbInv (s : State) (q : Nat) (c : CoreSt) : (s.setCore q c).tlbInv = s.tlbInv := rfl
@[simp] theorem State.setCore_tlbSince (s : State) (q : Nat) (c : CoreSt) : (s.setCore q c).tlbSince = s.tlbSince := rfl
@[simp] theorem State.setCore_msix (s : State) (q : Nat) (c : CoreSt) : (s.setCore q c).msix = s.msix := rfl
@[simp] theorem State.setCore_hostOut (s : State) (q : Nat) (c : CoreSt) : (s.setCore q c).hostOut = s.hostOut := rfl
@[simp] theorem State.setCore_hostAsks (s : State) (q : Nat) (c : CoreSt) : (s.setCore q c).hostAsks = s.hostAsks := rfl
@[simp] theorem State.setCore_transcript (s : State) (q : Nat) (c : CoreSt) : (s.setCore q c).transcript = s.transcript := rfl
@[simp] theorem State.setCore_hostWrites (s : State) (q : Nat) (c : CoreSt) : (s.setCore q c).hostWrites = s.hostWrites := rfl
@[simp] theorem State.setCore_bar0 (s : State) (q : Nat) (c : CoreSt) : (s.setCore q c).bar0 = s.bar0 := rfl
@[simp] theorem State.setCore_bar2 (s : State) (q : Nat) (c : CoreSt) : (s.setCore q c).bar2 = s.bar2 := rfl
@[simp] theorem State.setCore_bar4 (s : State) (q : Nat) (c : CoreSt) : (s.setCore q c).bar4 = s.bar4 := rfl
@[simp] theorem State.setCore_bar4Bits (s : State) (q : Nat) (c : CoreSt) : (s.setCore q c).bar4Bits = s.bar4Bits := rfl
@[simp] theorem State.setCore_entries (s : State) (q : Nat) (c : CoreSt) : (s.setCore q c).entries = s.entries := rfl
@[simp] theorem State.setCore_slotBytes (s : State) (q : Nat) (c : CoreSt) : (s.setCore q c).slotBytes = s.slotBytes := rfl
@[simp] theorem State.setCore_lstatRejected (s : State) (q : Nat) (c : CoreSt) : (s.setCore q c).lstatRejected = s.lstatRejected := rfl
@[simp] theorem State.setCore_lstatSlot (s : State) (q : Nat) (c : CoreSt) : (s.setCore q c).lstatSlot = s.lstatSlot := rfl
@[simp] theorem State.setCore_lstatReason (s : State) (q : Nat) (c : CoreSt) : (s.setCore q c).lstatReason = s.lstatReason := rfl
@[simp] theorem State.setCore_stray (s : State) (q : Nat) (c : CoreSt) : (s.setCore q c).stray = s.stray := rfl
@[simp] theorem State.setCore_unmatched (s : State) (q : Nat) (c : CoreSt) : (s.setCore q c).unmatched = s.unmatched := rfl
@[simp] theorem State.setCore_arrivalTable (s : State) (q : Nat) (c : CoreSt) : (s.setCore q c).arrivalTable = s.arrivalTable := rfl
@[simp] theorem State.setCore_tagged (s : State) (q : Nat) (c : CoreSt) : (s.setCore q c).tagged = s.tagged := rfl
@[simp] theorem State.setCore_frame (s : State) (q : Nat) (c : CoreSt) : (s.setCore q c).frame = s.frame := rfl
@[simp] theorem State.setCore_held (s : State) (q : Nat) (c : CoreSt) : (s.setCore q c).held = s.held := rfl
@[simp] theorem State.setCore_owait (s : State) (q : Nat) (c : CoreSt) : (s.setCore q c).owait = s.owait := rfl
@[simp] theorem State.setCore_framesOn (s : State) (q : Nat) (c : CoreSt) : (s.setCore q c).framesOn = s.framesOn := rfl
@[simp] theorem State.setCore_slipNs (s : State) (q : Nat) (c : CoreSt) : (s.setCore q c).slipNs = s.slipNs := rfl
@[simp] theorem State.setCore_dueAt (s : State) (q : Nat) (c : CoreSt) : (s.setCore q c).dueAt = s.dueAt := rfl
@[simp] theorem State.setCore_holdFreed (s : State) (q : Nat) (c : CoreSt) : (s.setCore q c).holdFreed = s.holdFreed := rfl
@[simp] theorem State.setCore_holders (s : State) (q : Nat) (c : CoreSt) : (s.setCore q c).holders = s.holders := rfl
@[simp] theorem State.setCore_tfailSlot (s : State) (q : Nat) (c : CoreSt) : (s.setCore q c).tfailSlot = s.tfailSlot := rfl
@[simp] theorem State.setCore_tfailQuad (s : State) (q : Nat) (c : CoreSt) : (s.setCore q c).tfailQuad = s.tfailQuad := rfl
@[simp] theorem State.setCore_tfailCause (s : State) (q : Nat) (c : CoreSt) : (s.setCore q c).tfailCause = s.tfailCause := rfl
@[simp] theorem State.setCore_tfailCount (s : State) (q : Nat) (c : CoreSt) : (s.setCore q c).tfailCount = s.tfailCount := rfl
@[simp] theorem State.setCore_slHead (s : State) (q : Nat) (c : CoreSt) : (s.setCore q c).slHead = s.slHead := rfl
@[simp] theorem State.setCore_slTail (s : State) (q : Nat) (c : CoreSt) : (s.setCore q c).slTail = s.slTail := rfl
@[simp] theorem State.setCore_slDropped (s : State) (q : Nat) (c : CoreSt) : (s.setCore q c).slDropped = s.slDropped := rfl
@[simp] theorem State.setCore_slipLog (s : State) (q : Nat) (c : CoreSt) : (s.setCore q c).slipLog = s.slipLog := rfl
@[simp] theorem State.setCore_decs (s : State) (q : Nat) (c : CoreSt) : (s.setCore q c).decs = s.decs := rfl
@[simp] theorem State.setCore_spawns (s : State) (q : Nat) (c : CoreSt) : (s.setCore q c).spawns = s.spawns := rfl
@[simp] theorem State.setCore_preempts (s : State) (q : Nat) (c : CoreSt) : (s.setCore q c).preempts = s.preempts := rfl
@[simp] theorem State.setCore_cells (s : State) (q : Nat) (c : CoreSt) : (s.setCore q c).cells = s.cells := rfl
@[simp] theorem State.setCore_dies (s : State) (q : Nat) (c : CoreSt) : (s.setCore q c).dies = s.dies := rfl
@[simp] theorem State.setCore_hbm (s : State) (q : Nat) (c : CoreSt) : (s.setCore q c).hbm = s.hbm := rfl
@[simp] theorem State.setCore_mem (s : State) (q : Nat) (c : CoreSt) : (s.setCore q c).mem = s.mem := rfl
@[simp] theorem State.setCore_keyTag (s : State) (q : Nat) (c : CoreSt) : (s.setCore q c).keyTag = s.keyTag := rfl
@[simp] theorem State.setCore_poison (s : State) (q : Nat) (c : CoreSt) : (s.setCore q c).poison = s.poison := rfl
@[simp] theorem State.setCore_farBad (s : State) (q : Nat) (c : CoreSt) : (s.setCore q c).farBad = s.farBad := rfl
@[simp] theorem State.setCore_replies (s : State) (q : Nat) (c : CoreSt) : (s.setCore q c).replies = s.replies := rfl
@[simp] theorem State.setCore_msgs (s : State) (q : Nat) (c : CoreSt) : (s.setCore q c).msgs = s.msgs := rfl
@[simp] theorem State.setCore_combine (s : State) (q : Nat) (c : CoreSt) : (s.setCore q c).combine = s.combine := rfl
@[simp] theorem State.setCore_arrivals (s : State) (q : Nat) (c : CoreSt) : (s.setCore q c).arrivals = s.arrivals := rfl
@[simp] theorem State.setCore_laneMsgs (s : State) (q : Nat) (c : CoreSt) : (s.setCore q c).laneMsgs = s.laneMsgs := rfl
@[simp] theorem State.setCore_tables (s : State) (q : Nat) (c : CoreSt) : (s.setCore q c).tables = s.tables := rfl
@[simp] theorem State.setCore_sftabs (s : State) (q : Nat) (c : CoreSt) : (s.setCore q c).sftabs = s.sftabs := rfl
@[simp] theorem State.setCore_monitor (s : State) (q : Nat) (c : CoreSt) : (s.setCore q c).monitor = s.monitor := rfl
@[simp] theorem State.setCore_cur (s : State) (q : Nat) (c : CoreSt) : (s.setCore q c).cur = s.cur := rfl
@[simp] theorem State.setCore_arg (s : State) (q : Nat) (c : CoreSt) : (s.setCore q c).arg = s.arg := rfl
@[simp] theorem State.setCore_inputs (s : State) (q : Nat) (c : CoreSt) : (s.setCore q c).inputs = s.inputs := rfl
@[simp] theorem State.setCore_later (s : State) (q : Nat) (c : CoreSt) : (s.setCore q c).later = s.later := rfl
@[simp] theorem State.setCore_choices (s : State) (q : Nat) (c : CoreSt) : (s.setCore q c).choices = s.choices := rfl
@[simp] theorem State.setCore_fresh (s : State) (q : Nat) (c : CoreSt) : (s.setCore q c).fresh = s.fresh := rfl

/-! ### setCell -/

@[simp] theorem State.core_setCell (s : State) (q j : Nat) (c : CellSt) (o : Nat) : (s.setCell q j c).core o = s.core o := rfl
@[simp] theorem State.die_setCell (s : State) (q j : Nat) (c : CellSt) (o : Nat) : (s.setCell q j c).die o = s.die o := rfl
@[simp] theorem State.stack_setCell (s : State) (q j : Nat) (c : CellSt) (o : Nat) : (s.setCell q j c).stack o = s.stack o := rfl
@[simp] theorem State.entry_setCell (s : State) (q j : Nat) (c : CellSt) (o : Nat) : (s.setCell q j c).entry o = s.entry o := rfl
@[simp] theorem State.setCell_pcc (s : State) (q j : Nat) (c : CellSt) : (s.setCell q j c).pcc = s.pcc := rfl
@[simp] theorem State.setCell_wall (s : State) (q j : Nat) (c : CellSt) : (s.setCell q j c).wall = s.wall := rfl
@[simp] theorem State.setCell_ptp (s : State) (q j : Nat) (c : CellSt) : (s.setCell q j c).ptp = s.ptp := rfl
@[simp] theorem State.setCell_clockOn (s : State) (q j : Nat) (c : CellSt) : (s.setCell q j c).clockOn = s.clockOn := rfl
@[simp] theorem State.setCell_debugHalt (s : State) (q j : Nat) (c : CellSt) : (s.setCell q j c).debugHalt = s.debugHalt := rfl
@[simp] theorem State.setCell_episode (s : State) (q j : Nat) (c : CellSt) : (s.setCell q j c).episode = s.episode := rfl
@[simp] theorem State.setCell_hotDies (s : State) (q j : Nat) (c : CellSt) : (s.setCell q j c).hotDies = s.hotDies := rfl
@[simp] theorem State.setCell_tripped (s : State) (q j : Nat) (c : CellSt) : (s.setCell q j c).tripped = s.tripped := rfl
@[simp] theorem State.setCell_bootState (s : State) (q j : Nat) (c : CellSt) : (s.setCell q j c).bootState = s.bootState := rfl
@[simp] theorem State.setCell_bootStep (s : State) (q j : Nat) (c : CellSt) : (s.setCell q j c).bootStep = s.bootStep := rfl
@[simp] theorem State.setCell_bootSvn (s : State) (q j : Nat) (c : CellSt) : (s.setCell q j c).bootSvn = s.bootSvn := rfl
@[simp] theorem State.setCell_resetReq (s : State) (q j : Nat) (c : CellSt) : (s.setCell q j c).resetReq = s.resetReq := rfl
@[simp] theorem State.setCell_flash (s : State) (q j : Nat) (c : CellSt) : (s.setCell q j c).flash = s.flash := rfl
@[simp] theorem State.setCell_bootImage (s : State) (q j : Nat) (c : CellSt) : (s.setCell q j c).bootImage = s.bootImage := rfl
@[simp] theorem State.setCell_latTable (s : State) (q j : Nat) (c : CellSt) : (s.setCell q j c).latTable = s.latTable := rfl
@[simp] theorem State.setCell_routes (s : State) (q j : Nat) (c : CellSt) : (s.setCell q j c).routes = s.routes := rfl
@[simp] theorem State.setCell_lanesDown (s : State) (q j : Nat) (c : CellSt) : (s.setCell q j c).lanesDown = s.lanesDown := rfl
@[simp] theorem State.setCell_explGo (s : State) (q j : Nat) (c : CellSt) : (s.setCell q j c).explGo = s.explGo := rfl
@[simp] theorem State.setCell_explChanged (s : State) (q j : Nat) (c : CellSt) : (s.setCell q j c).explChanged = s.explChanged := rfl
@[simp] theorem State.setCell_explDup (s : State) (q j : Nat) (c : CellSt) : (s.setCell q j c).explDup = s.explDup := rfl
@[simp] theorem State.setCell_explFound (s : State) (q j : Nat) (c : CellSt) : (s.setCell q j c).explFound = s.explFound := rfl
@[simp] theorem State.setCell_explRunning (s : State) (q j : Nat) (c : CellSt) : (s.setCell q j c).explRunning = s.explRunning := rfl
@[simp] theorem State.setCell_explGen (s : State) (q j : Nat) (c : CellSt) : (s.setCell q j c).explGen = s.explGen := rfl
@[simp] theorem State.setCell_explLast (s : State) (q j : Nat) (c : CellSt) : (s.setCell q j c).explLast = s.explLast := rfl
@[simp] theorem State.setCell_reports (s : State) (q j : Nat) (c : CellSt) : (s.setCell q j c).reports = s.reports := rfl
@[simp] theorem State.setCell_explFlits (s : State) (q j : Nat) (c : CellSt) : (s.setCell q j c).explFlits = s.explFlits := rfl
@[simp] theorem State.setCell_pkgNum (s : State) (q j : Nat) (c : CellSt) : (s.setCell q j c).pkgNum = s.pkgNum := rfl
@[simp] theorem State.setCell_pkgUsed (s : State) (q j : Nat) (c : CellSt) : (s.setCell q j c).pkgUsed = s.pkgUsed := rfl
@[simp] theorem State.setCell_ports (s : State) (q j : Nat) (c : CellSt) : (s.setCell q j c).ports = s.ports := rfl
@[simp] theorem State.setCell_keys (s : State) (q j : Nat) (c : CellSt) : (s.setCell q j c).keys = s.keys := rfl
@[simp] theorem State.setCell_keySlotSel (s : State) (q j : Nat) (c : CellSt) : (s.setCell q j c).keySlotSel = s.keySlotSel := rfl
@[simp] theorem State.setCell_keyPend (s : State) (q j : Nat) (c : CellSt) : (s.setCell q j c).keyPend = s.keyPend := rfl
@[simp] theorem State.setCell_keyData (s : State) (q j : Nat) (c : CellSt) : (s.setCell q j c).keyData = s.keyData := rfl
@[simp] theorem State.setCell_w4base (s : State) (q j : Nat) (c : CellSt) : (s.setCell q j c).w4base = s.w4base := rfl
@[simp] theorem State.setCell_ptpSource (s : State) (q j : Nat) (c : CellSt) : (s.setCell q j c).ptpSource = s.ptpSource := rfl
@[simp] theorem State.setCell_ptpPort (s : State) (q j : Nat) (c : CellSt) : (s.setCell q j c).ptpPort = s.ptpPort := rfl
@[simp] theorem State.setCell_ptpLocked (s : State) (q j : Nat) (c : CellSt) : (s.setCell q j c).ptpLocked = s.ptpLocked := rfl
@[simp] theorem State.setCell_ppsSeen (s : State) (q j : Nat) (c : CellSt) : (s.setCell q j c).ppsSeen = s.ppsSeen := rfl
@[simp] theorem State.setCell_ptpRate (s : State) (q j : Nat) (c : CellSt) : (s.setCell q j c).ptpRate = s.ptpRate := rfl
@[simp] theorem State.setCell_forigin (s : State) (q j : Nat) (c : CellSt) : (s.setCell q j c).forigin = s.forigin := rfl
@[simp] theorem State.setCell_foriginNew (s : State) (q j : Nat) (c : CellSt) : (s.setCell q j c).foriginNew = s.foriginNew := rfl
@[simp] theorem State.setCell_loadAddr (s : State) (q j : Nat) (c : CellSt) : (s.setCell q j c).loadAddr = s.loadAddr := rfl
@[simp] theorem State.setCell_loadStatus (s : State) (q j : Nat) (c : CellSt) : (s.setCell q j c).loadStatus = s.loadStatus := rfl
@[simp] theorem State.setCell_images (s : State) (q j : Nat) (c : CellSt) : (s.setCell q j c).images = s.images := rfl
@[simp] theorem State.setCell_surfBase (s : State) (q j : Nat) (c : CellSt) : (s.setCell q j c).surfBase = s.surfBase := rfl
@[simp] theorem State.setCell_astBase (s : State) (q j : Nat) (c : CellSt) : (s.setCell q j c).astBase = s.astBase := rfl
@[simp] theorem State.setCell_tlbInv (s : State) (q j : Nat) (c : CellSt) : (s.setCell q j c).tlbInv = s.tlbInv := rfl
@[simp] theorem State.setCell_tlbSince (s : State) (q j : Nat) (c : CellSt) : (s.setCell q j c).tlbSince = s.tlbSince := rfl
@[simp] theorem State.setCell_msix (s : State) (q j : Nat) (c : CellSt) : (s.setCell q j c).msix = s.msix := rfl
@[simp] theorem State.setCell_hostOut (s : State) (q j : Nat) (c : CellSt) : (s.setCell q j c).hostOut = s.hostOut := rfl
@[simp] theorem State.setCell_hostAsks (s : State) (q j : Nat) (c : CellSt) : (s.setCell q j c).hostAsks = s.hostAsks := rfl
@[simp] theorem State.setCell_transcript (s : State) (q j : Nat) (c : CellSt) : (s.setCell q j c).transcript = s.transcript := rfl
@[simp] theorem State.setCell_hostWrites (s : State) (q j : Nat) (c : CellSt) : (s.setCell q j c).hostWrites = s.hostWrites := rfl
@[simp] theorem State.setCell_bar0 (s : State) (q j : Nat) (c : CellSt) : (s.setCell q j c).bar0 = s.bar0 := rfl
@[simp] theorem State.setCell_bar2 (s : State) (q j : Nat) (c : CellSt) : (s.setCell q j c).bar2 = s.bar2 := rfl
@[simp] theorem State.setCell_bar4 (s : State) (q j : Nat) (c : CellSt) : (s.setCell q j c).bar4 = s.bar4 := rfl
@[simp] theorem State.setCell_bar4Bits (s : State) (q j : Nat) (c : CellSt) : (s.setCell q j c).bar4Bits = s.bar4Bits := rfl
@[simp] theorem State.setCell_entries (s : State) (q j : Nat) (c : CellSt) : (s.setCell q j c).entries = s.entries := rfl
@[simp] theorem State.setCell_slotBytes (s : State) (q j : Nat) (c : CellSt) : (s.setCell q j c).slotBytes = s.slotBytes := rfl
@[simp] theorem State.setCell_lstatRejected (s : State) (q j : Nat) (c : CellSt) : (s.setCell q j c).lstatRejected = s.lstatRejected := rfl
@[simp] theorem State.setCell_lstatSlot (s : State) (q j : Nat) (c : CellSt) : (s.setCell q j c).lstatSlot = s.lstatSlot := rfl
@[simp] theorem State.setCell_lstatReason (s : State) (q j : Nat) (c : CellSt) : (s.setCell q j c).lstatReason = s.lstatReason := rfl
@[simp] theorem State.setCell_stray (s : State) (q j : Nat) (c : CellSt) : (s.setCell q j c).stray = s.stray := rfl
@[simp] theorem State.setCell_unmatched (s : State) (q j : Nat) (c : CellSt) : (s.setCell q j c).unmatched = s.unmatched := rfl
@[simp] theorem State.setCell_arrivalTable (s : State) (q j : Nat) (c : CellSt) : (s.setCell q j c).arrivalTable = s.arrivalTable := rfl
@[simp] theorem State.setCell_tagged (s : State) (q j : Nat) (c : CellSt) : (s.setCell q j c).tagged = s.tagged := rfl
@[simp] theorem State.setCell_frame (s : State) (q j : Nat) (c : CellSt) : (s.setCell q j c).frame = s.frame := rfl
@[simp] theorem State.setCell_held (s : State) (q j : Nat) (c : CellSt) : (s.setCell q j c).held = s.held := rfl
@[simp] theorem State.setCell_owait (s : State) (q j : Nat) (c : CellSt) : (s.setCell q j c).owait = s.owait := rfl
@[simp] theorem State.setCell_framesOn (s : State) (q j : Nat) (c : CellSt) : (s.setCell q j c).framesOn = s.framesOn := rfl
@[simp] theorem State.setCell_slipNs (s : State) (q j : Nat) (c : CellSt) : (s.setCell q j c).slipNs = s.slipNs := rfl
@[simp] theorem State.setCell_dueAt (s : State) (q j : Nat) (c : CellSt) : (s.setCell q j c).dueAt = s.dueAt := rfl
@[simp] theorem State.setCell_holdFreed (s : State) (q j : Nat) (c : CellSt) : (s.setCell q j c).holdFreed = s.holdFreed := rfl
@[simp] theorem State.setCell_holders (s : State) (q j : Nat) (c : CellSt) : (s.setCell q j c).holders = s.holders := rfl
@[simp] theorem State.setCell_tfailSlot (s : State) (q j : Nat) (c : CellSt) : (s.setCell q j c).tfailSlot = s.tfailSlot := rfl
@[simp] theorem State.setCell_tfailQuad (s : State) (q j : Nat) (c : CellSt) : (s.setCell q j c).tfailQuad = s.tfailQuad := rfl
@[simp] theorem State.setCell_tfailCause (s : State) (q j : Nat) (c : CellSt) : (s.setCell q j c).tfailCause = s.tfailCause := rfl
@[simp] theorem State.setCell_tfailCount (s : State) (q j : Nat) (c : CellSt) : (s.setCell q j c).tfailCount = s.tfailCount := rfl
@[simp] theorem State.setCell_slHead (s : State) (q j : Nat) (c : CellSt) : (s.setCell q j c).slHead = s.slHead := rfl
@[simp] theorem State.setCell_slTail (s : State) (q j : Nat) (c : CellSt) : (s.setCell q j c).slTail = s.slTail := rfl
@[simp] theorem State.setCell_slDropped (s : State) (q j : Nat) (c : CellSt) : (s.setCell q j c).slDropped = s.slDropped := rfl
@[simp] theorem State.setCell_slipLog (s : State) (q j : Nat) (c : CellSt) : (s.setCell q j c).slipLog = s.slipLog := rfl
@[simp] theorem State.setCell_decs (s : State) (q j : Nat) (c : CellSt) : (s.setCell q j c).decs = s.decs := rfl
@[simp] theorem State.setCell_spawns (s : State) (q j : Nat) (c : CellSt) : (s.setCell q j c).spawns = s.spawns := rfl
@[simp] theorem State.setCell_preempts (s : State) (q j : Nat) (c : CellSt) : (s.setCell q j c).preempts = s.preempts := rfl
@[simp] theorem State.setCell_cores (s : State) (q j : Nat) (c : CellSt) : (s.setCell q j c).cores = s.cores := rfl
@[simp] theorem State.setCell_dies (s : State) (q j : Nat) (c : CellSt) : (s.setCell q j c).dies = s.dies := rfl
@[simp] theorem State.setCell_hbm (s : State) (q j : Nat) (c : CellSt) : (s.setCell q j c).hbm = s.hbm := rfl
@[simp] theorem State.setCell_mem (s : State) (q j : Nat) (c : CellSt) : (s.setCell q j c).mem = s.mem := rfl
@[simp] theorem State.setCell_keyTag (s : State) (q j : Nat) (c : CellSt) : (s.setCell q j c).keyTag = s.keyTag := rfl
@[simp] theorem State.setCell_poison (s : State) (q j : Nat) (c : CellSt) : (s.setCell q j c).poison = s.poison := rfl
@[simp] theorem State.setCell_farBad (s : State) (q j : Nat) (c : CellSt) : (s.setCell q j c).farBad = s.farBad := rfl
@[simp] theorem State.setCell_replies (s : State) (q j : Nat) (c : CellSt) : (s.setCell q j c).replies = s.replies := rfl
@[simp] theorem State.setCell_msgs (s : State) (q j : Nat) (c : CellSt) : (s.setCell q j c).msgs = s.msgs := rfl
@[simp] theorem State.setCell_combine (s : State) (q j : Nat) (c : CellSt) : (s.setCell q j c).combine = s.combine := rfl
@[simp] theorem State.setCell_arrivals (s : State) (q j : Nat) (c : CellSt) : (s.setCell q j c).arrivals = s.arrivals := rfl
@[simp] theorem State.setCell_laneMsgs (s : State) (q j : Nat) (c : CellSt) : (s.setCell q j c).laneMsgs = s.laneMsgs := rfl
@[simp] theorem State.setCell_tables (s : State) (q j : Nat) (c : CellSt) : (s.setCell q j c).tables = s.tables := rfl
@[simp] theorem State.setCell_sftabs (s : State) (q j : Nat) (c : CellSt) : (s.setCell q j c).sftabs = s.sftabs := rfl
@[simp] theorem State.setCell_monitor (s : State) (q j : Nat) (c : CellSt) : (s.setCell q j c).monitor = s.monitor := rfl
@[simp] theorem State.setCell_cur (s : State) (q j : Nat) (c : CellSt) : (s.setCell q j c).cur = s.cur := rfl
@[simp] theorem State.setCell_arg (s : State) (q j : Nat) (c : CellSt) : (s.setCell q j c).arg = s.arg := rfl
@[simp] theorem State.setCell_inputs (s : State) (q j : Nat) (c : CellSt) : (s.setCell q j c).inputs = s.inputs := rfl
@[simp] theorem State.setCell_later (s : State) (q j : Nat) (c : CellSt) : (s.setCell q j c).later = s.later := rfl
@[simp] theorem State.setCell_choices (s : State) (q j : Nat) (c : CellSt) : (s.setCell q j c).choices = s.choices := rfl
@[simp] theorem State.setCell_fresh (s : State) (q j : Nat) (c : CellSt) : (s.setCell q j c).fresh = s.fresh := rfl

/-! ### modDie -/

@[simp] theorem State.core_modDie (s : State) (d : Nat) (f : DieSt → DieSt) (o : Nat) : (s.modDie d f).core o = s.core o := rfl
@[simp] theorem State.cell_modDie (s : State) (d : Nat) (f : DieSt → DieSt) (o i : Nat) : (s.modDie d f).cell o i = s.cell o i := rfl
@[simp] theorem State.stack_modDie (s : State) (d : Nat) (f : DieSt → DieSt) (o : Nat) : (s.modDie d f).stack o = s.stack o := rfl
@[simp] theorem State.entry_modDie (s : State) (d : Nat) (f : DieSt → DieSt) (o : Nat) : (s.modDie d f).entry o = s.entry o := rfl
@[simp] theorem State.modDie_pcc (s : State) (d : Nat) (f : DieSt → DieSt) : (s.modDie d f).pcc = s.pcc := rfl
@[simp] theorem State.modDie_wall (s : State) (d : Nat) (f : DieSt → DieSt) : (s.modDie d f).wall = s.wall := rfl
@[simp] theorem State.modDie_ptp (s : State) (d : Nat) (f : DieSt → DieSt) : (s.modDie d f).ptp = s.ptp := rfl
@[simp] theorem State.modDie_clockOn (s : State) (d : Nat) (f : DieSt → DieSt) : (s.modDie d f).clockOn = s.clockOn := rfl
@[simp] theorem State.modDie_debugHalt (s : State) (d : Nat) (f : DieSt → DieSt) : (s.modDie d f).debugHalt = s.debugHalt := rfl
@[simp] theorem State.modDie_episode (s : State) (d : Nat) (f : DieSt → DieSt) : (s.modDie d f).episode = s.episode := rfl
@[simp] theorem State.modDie_hotDies (s : State) (d : Nat) (f : DieSt → DieSt) : (s.modDie d f).hotDies = s.hotDies := rfl
@[simp] theorem State.modDie_tripped (s : State) (d : Nat) (f : DieSt → DieSt) : (s.modDie d f).tripped = s.tripped := rfl
@[simp] theorem State.modDie_bootState (s : State) (d : Nat) (f : DieSt → DieSt) : (s.modDie d f).bootState = s.bootState := rfl
@[simp] theorem State.modDie_bootStep (s : State) (d : Nat) (f : DieSt → DieSt) : (s.modDie d f).bootStep = s.bootStep := rfl
@[simp] theorem State.modDie_bootSvn (s : State) (d : Nat) (f : DieSt → DieSt) : (s.modDie d f).bootSvn = s.bootSvn := rfl
@[simp] theorem State.modDie_resetReq (s : State) (d : Nat) (f : DieSt → DieSt) : (s.modDie d f).resetReq = s.resetReq := rfl
@[simp] theorem State.modDie_flash (s : State) (d : Nat) (f : DieSt → DieSt) : (s.modDie d f).flash = s.flash := rfl
@[simp] theorem State.modDie_bootImage (s : State) (d : Nat) (f : DieSt → DieSt) : (s.modDie d f).bootImage = s.bootImage := rfl
@[simp] theorem State.modDie_latTable (s : State) (d : Nat) (f : DieSt → DieSt) : (s.modDie d f).latTable = s.latTable := rfl
@[simp] theorem State.modDie_routes (s : State) (d : Nat) (f : DieSt → DieSt) : (s.modDie d f).routes = s.routes := rfl
@[simp] theorem State.modDie_lanesDown (s : State) (d : Nat) (f : DieSt → DieSt) : (s.modDie d f).lanesDown = s.lanesDown := rfl
@[simp] theorem State.modDie_explGo (s : State) (d : Nat) (f : DieSt → DieSt) : (s.modDie d f).explGo = s.explGo := rfl
@[simp] theorem State.modDie_explChanged (s : State) (d : Nat) (f : DieSt → DieSt) : (s.modDie d f).explChanged = s.explChanged := rfl
@[simp] theorem State.modDie_explDup (s : State) (d : Nat) (f : DieSt → DieSt) : (s.modDie d f).explDup = s.explDup := rfl
@[simp] theorem State.modDie_explFound (s : State) (d : Nat) (f : DieSt → DieSt) : (s.modDie d f).explFound = s.explFound := rfl
@[simp] theorem State.modDie_explRunning (s : State) (d : Nat) (f : DieSt → DieSt) : (s.modDie d f).explRunning = s.explRunning := rfl
@[simp] theorem State.modDie_explGen (s : State) (d : Nat) (f : DieSt → DieSt) : (s.modDie d f).explGen = s.explGen := rfl
@[simp] theorem State.modDie_explLast (s : State) (d : Nat) (f : DieSt → DieSt) : (s.modDie d f).explLast = s.explLast := rfl
@[simp] theorem State.modDie_reports (s : State) (d : Nat) (f : DieSt → DieSt) : (s.modDie d f).reports = s.reports := rfl
@[simp] theorem State.modDie_explFlits (s : State) (d : Nat) (f : DieSt → DieSt) : (s.modDie d f).explFlits = s.explFlits := rfl
@[simp] theorem State.modDie_pkgNum (s : State) (d : Nat) (f : DieSt → DieSt) : (s.modDie d f).pkgNum = s.pkgNum := rfl
@[simp] theorem State.modDie_pkgUsed (s : State) (d : Nat) (f : DieSt → DieSt) : (s.modDie d f).pkgUsed = s.pkgUsed := rfl
@[simp] theorem State.modDie_ports (s : State) (d : Nat) (f : DieSt → DieSt) : (s.modDie d f).ports = s.ports := rfl
@[simp] theorem State.modDie_keys (s : State) (d : Nat) (f : DieSt → DieSt) : (s.modDie d f).keys = s.keys := rfl
@[simp] theorem State.modDie_keySlotSel (s : State) (d : Nat) (f : DieSt → DieSt) : (s.modDie d f).keySlotSel = s.keySlotSel := rfl
@[simp] theorem State.modDie_keyPend (s : State) (d : Nat) (f : DieSt → DieSt) : (s.modDie d f).keyPend = s.keyPend := rfl
@[simp] theorem State.modDie_keyData (s : State) (d : Nat) (f : DieSt → DieSt) : (s.modDie d f).keyData = s.keyData := rfl
@[simp] theorem State.modDie_w4base (s : State) (d : Nat) (f : DieSt → DieSt) : (s.modDie d f).w4base = s.w4base := rfl
@[simp] theorem State.modDie_ptpSource (s : State) (d : Nat) (f : DieSt → DieSt) : (s.modDie d f).ptpSource = s.ptpSource := rfl
@[simp] theorem State.modDie_ptpPort (s : State) (d : Nat) (f : DieSt → DieSt) : (s.modDie d f).ptpPort = s.ptpPort := rfl
@[simp] theorem State.modDie_ptpLocked (s : State) (d : Nat) (f : DieSt → DieSt) : (s.modDie d f).ptpLocked = s.ptpLocked := rfl
@[simp] theorem State.modDie_ppsSeen (s : State) (d : Nat) (f : DieSt → DieSt) : (s.modDie d f).ppsSeen = s.ppsSeen := rfl
@[simp] theorem State.modDie_ptpRate (s : State) (d : Nat) (f : DieSt → DieSt) : (s.modDie d f).ptpRate = s.ptpRate := rfl
@[simp] theorem State.modDie_forigin (s : State) (d : Nat) (f : DieSt → DieSt) : (s.modDie d f).forigin = s.forigin := rfl
@[simp] theorem State.modDie_foriginNew (s : State) (d : Nat) (f : DieSt → DieSt) : (s.modDie d f).foriginNew = s.foriginNew := rfl
@[simp] theorem State.modDie_loadAddr (s : State) (d : Nat) (f : DieSt → DieSt) : (s.modDie d f).loadAddr = s.loadAddr := rfl
@[simp] theorem State.modDie_loadStatus (s : State) (d : Nat) (f : DieSt → DieSt) : (s.modDie d f).loadStatus = s.loadStatus := rfl
@[simp] theorem State.modDie_images (s : State) (d : Nat) (f : DieSt → DieSt) : (s.modDie d f).images = s.images := rfl
@[simp] theorem State.modDie_surfBase (s : State) (d : Nat) (f : DieSt → DieSt) : (s.modDie d f).surfBase = s.surfBase := rfl
@[simp] theorem State.modDie_astBase (s : State) (d : Nat) (f : DieSt → DieSt) : (s.modDie d f).astBase = s.astBase := rfl
@[simp] theorem State.modDie_tlbInv (s : State) (d : Nat) (f : DieSt → DieSt) : (s.modDie d f).tlbInv = s.tlbInv := rfl
@[simp] theorem State.modDie_tlbSince (s : State) (d : Nat) (f : DieSt → DieSt) : (s.modDie d f).tlbSince = s.tlbSince := rfl
@[simp] theorem State.modDie_msix (s : State) (d : Nat) (f : DieSt → DieSt) : (s.modDie d f).msix = s.msix := rfl
@[simp] theorem State.modDie_hostOut (s : State) (d : Nat) (f : DieSt → DieSt) : (s.modDie d f).hostOut = s.hostOut := rfl
@[simp] theorem State.modDie_hostAsks (s : State) (d : Nat) (f : DieSt → DieSt) : (s.modDie d f).hostAsks = s.hostAsks := rfl
@[simp] theorem State.modDie_transcript (s : State) (d : Nat) (f : DieSt → DieSt) : (s.modDie d f).transcript = s.transcript := rfl
@[simp] theorem State.modDie_hostWrites (s : State) (d : Nat) (f : DieSt → DieSt) : (s.modDie d f).hostWrites = s.hostWrites := rfl
@[simp] theorem State.modDie_bar0 (s : State) (d : Nat) (f : DieSt → DieSt) : (s.modDie d f).bar0 = s.bar0 := rfl
@[simp] theorem State.modDie_bar2 (s : State) (d : Nat) (f : DieSt → DieSt) : (s.modDie d f).bar2 = s.bar2 := rfl
@[simp] theorem State.modDie_bar4 (s : State) (d : Nat) (f : DieSt → DieSt) : (s.modDie d f).bar4 = s.bar4 := rfl
@[simp] theorem State.modDie_bar4Bits (s : State) (d : Nat) (f : DieSt → DieSt) : (s.modDie d f).bar4Bits = s.bar4Bits := rfl
@[simp] theorem State.modDie_entries (s : State) (d : Nat) (f : DieSt → DieSt) : (s.modDie d f).entries = s.entries := rfl
@[simp] theorem State.modDie_slotBytes (s : State) (d : Nat) (f : DieSt → DieSt) : (s.modDie d f).slotBytes = s.slotBytes := rfl
@[simp] theorem State.modDie_lstatRejected (s : State) (d : Nat) (f : DieSt → DieSt) : (s.modDie d f).lstatRejected = s.lstatRejected := rfl
@[simp] theorem State.modDie_lstatSlot (s : State) (d : Nat) (f : DieSt → DieSt) : (s.modDie d f).lstatSlot = s.lstatSlot := rfl
@[simp] theorem State.modDie_lstatReason (s : State) (d : Nat) (f : DieSt → DieSt) : (s.modDie d f).lstatReason = s.lstatReason := rfl
@[simp] theorem State.modDie_stray (s : State) (d : Nat) (f : DieSt → DieSt) : (s.modDie d f).stray = s.stray := rfl
@[simp] theorem State.modDie_unmatched (s : State) (d : Nat) (f : DieSt → DieSt) : (s.modDie d f).unmatched = s.unmatched := rfl
@[simp] theorem State.modDie_arrivalTable (s : State) (d : Nat) (f : DieSt → DieSt) : (s.modDie d f).arrivalTable = s.arrivalTable := rfl
@[simp] theorem State.modDie_tagged (s : State) (d : Nat) (f : DieSt → DieSt) : (s.modDie d f).tagged = s.tagged := rfl
@[simp] theorem State.modDie_frame (s : State) (d : Nat) (f : DieSt → DieSt) : (s.modDie d f).frame = s.frame := rfl
@[simp] theorem State.modDie_held (s : State) (d : Nat) (f : DieSt → DieSt) : (s.modDie d f).held = s.held := rfl
@[simp] theorem State.modDie_owait (s : State) (d : Nat) (f : DieSt → DieSt) : (s.modDie d f).owait = s.owait := rfl
@[simp] theorem State.modDie_framesOn (s : State) (d : Nat) (f : DieSt → DieSt) : (s.modDie d f).framesOn = s.framesOn := rfl
@[simp] theorem State.modDie_slipNs (s : State) (d : Nat) (f : DieSt → DieSt) : (s.modDie d f).slipNs = s.slipNs := rfl
@[simp] theorem State.modDie_dueAt (s : State) (d : Nat) (f : DieSt → DieSt) : (s.modDie d f).dueAt = s.dueAt := rfl
@[simp] theorem State.modDie_holdFreed (s : State) (d : Nat) (f : DieSt → DieSt) : (s.modDie d f).holdFreed = s.holdFreed := rfl
@[simp] theorem State.modDie_holders (s : State) (d : Nat) (f : DieSt → DieSt) : (s.modDie d f).holders = s.holders := rfl
@[simp] theorem State.modDie_tfailSlot (s : State) (d : Nat) (f : DieSt → DieSt) : (s.modDie d f).tfailSlot = s.tfailSlot := rfl
@[simp] theorem State.modDie_tfailQuad (s : State) (d : Nat) (f : DieSt → DieSt) : (s.modDie d f).tfailQuad = s.tfailQuad := rfl
@[simp] theorem State.modDie_tfailCause (s : State) (d : Nat) (f : DieSt → DieSt) : (s.modDie d f).tfailCause = s.tfailCause := rfl
@[simp] theorem State.modDie_tfailCount (s : State) (d : Nat) (f : DieSt → DieSt) : (s.modDie d f).tfailCount = s.tfailCount := rfl
@[simp] theorem State.modDie_slHead (s : State) (d : Nat) (f : DieSt → DieSt) : (s.modDie d f).slHead = s.slHead := rfl
@[simp] theorem State.modDie_slTail (s : State) (d : Nat) (f : DieSt → DieSt) : (s.modDie d f).slTail = s.slTail := rfl
@[simp] theorem State.modDie_slDropped (s : State) (d : Nat) (f : DieSt → DieSt) : (s.modDie d f).slDropped = s.slDropped := rfl
@[simp] theorem State.modDie_slipLog (s : State) (d : Nat) (f : DieSt → DieSt) : (s.modDie d f).slipLog = s.slipLog := rfl
@[simp] theorem State.modDie_decs (s : State) (d : Nat) (f : DieSt → DieSt) : (s.modDie d f).decs = s.decs := rfl
@[simp] theorem State.modDie_spawns (s : State) (d : Nat) (f : DieSt → DieSt) : (s.modDie d f).spawns = s.spawns := rfl
@[simp] theorem State.modDie_preempts (s : State) (d : Nat) (f : DieSt → DieSt) : (s.modDie d f).preempts = s.preempts := rfl
@[simp] theorem State.modDie_cores (s : State) (d : Nat) (f : DieSt → DieSt) : (s.modDie d f).cores = s.cores := rfl
@[simp] theorem State.modDie_cells (s : State) (d : Nat) (f : DieSt → DieSt) : (s.modDie d f).cells = s.cells := rfl
@[simp] theorem State.modDie_hbm (s : State) (d : Nat) (f : DieSt → DieSt) : (s.modDie d f).hbm = s.hbm := rfl
@[simp] theorem State.modDie_mem (s : State) (d : Nat) (f : DieSt → DieSt) : (s.modDie d f).mem = s.mem := rfl
@[simp] theorem State.modDie_keyTag (s : State) (d : Nat) (f : DieSt → DieSt) : (s.modDie d f).keyTag = s.keyTag := rfl
@[simp] theorem State.modDie_poison (s : State) (d : Nat) (f : DieSt → DieSt) : (s.modDie d f).poison = s.poison := rfl
@[simp] theorem State.modDie_farBad (s : State) (d : Nat) (f : DieSt → DieSt) : (s.modDie d f).farBad = s.farBad := rfl
@[simp] theorem State.modDie_replies (s : State) (d : Nat) (f : DieSt → DieSt) : (s.modDie d f).replies = s.replies := rfl
@[simp] theorem State.modDie_msgs (s : State) (d : Nat) (f : DieSt → DieSt) : (s.modDie d f).msgs = s.msgs := rfl
@[simp] theorem State.modDie_combine (s : State) (d : Nat) (f : DieSt → DieSt) : (s.modDie d f).combine = s.combine := rfl
@[simp] theorem State.modDie_arrivals (s : State) (d : Nat) (f : DieSt → DieSt) : (s.modDie d f).arrivals = s.arrivals := rfl
@[simp] theorem State.modDie_laneMsgs (s : State) (d : Nat) (f : DieSt → DieSt) : (s.modDie d f).laneMsgs = s.laneMsgs := rfl
@[simp] theorem State.modDie_tables (s : State) (d : Nat) (f : DieSt → DieSt) : (s.modDie d f).tables = s.tables := rfl
@[simp] theorem State.modDie_sftabs (s : State) (d : Nat) (f : DieSt → DieSt) : (s.modDie d f).sftabs = s.sftabs := rfl
@[simp] theorem State.modDie_monitor (s : State) (d : Nat) (f : DieSt → DieSt) : (s.modDie d f).monitor = s.monitor := rfl
@[simp] theorem State.modDie_cur (s : State) (d : Nat) (f : DieSt → DieSt) : (s.modDie d f).cur = s.cur := rfl
@[simp] theorem State.modDie_arg (s : State) (d : Nat) (f : DieSt → DieSt) : (s.modDie d f).arg = s.arg := rfl
@[simp] theorem State.modDie_inputs (s : State) (d : Nat) (f : DieSt → DieSt) : (s.modDie d f).inputs = s.inputs := rfl
@[simp] theorem State.modDie_later (s : State) (d : Nat) (f : DieSt → DieSt) : (s.modDie d f).later = s.later := rfl
@[simp] theorem State.modDie_choices (s : State) (d : Nat) (f : DieSt → DieSt) : (s.modDie d f).choices = s.choices := rfl
@[simp] theorem State.modDie_fresh (s : State) (d : Nat) (f : DieSt → DieSt) : (s.modDie d f).fresh = s.fresh := rfl

/-! ### modStack -/

@[simp] theorem State.core_modStack (s : State) (k : Nat) (f : StackSt → StackSt) (o : Nat) : (s.modStack k f).core o = s.core o := rfl
@[simp] theorem State.cell_modStack (s : State) (k : Nat) (f : StackSt → StackSt) (o i : Nat) : (s.modStack k f).cell o i = s.cell o i := rfl
@[simp] theorem State.die_modStack (s : State) (k : Nat) (f : StackSt → StackSt) (o : Nat) : (s.modStack k f).die o = s.die o := rfl
@[simp] theorem State.entry_modStack (s : State) (k : Nat) (f : StackSt → StackSt) (o : Nat) : (s.modStack k f).entry o = s.entry o := rfl
@[simp] theorem State.modStack_pcc (s : State) (k : Nat) (f : StackSt → StackSt) : (s.modStack k f).pcc = s.pcc := rfl
@[simp] theorem State.modStack_wall (s : State) (k : Nat) (f : StackSt → StackSt) : (s.modStack k f).wall = s.wall := rfl
@[simp] theorem State.modStack_ptp (s : State) (k : Nat) (f : StackSt → StackSt) : (s.modStack k f).ptp = s.ptp := rfl
@[simp] theorem State.modStack_clockOn (s : State) (k : Nat) (f : StackSt → StackSt) : (s.modStack k f).clockOn = s.clockOn := rfl
@[simp] theorem State.modStack_debugHalt (s : State) (k : Nat) (f : StackSt → StackSt) : (s.modStack k f).debugHalt = s.debugHalt := rfl
@[simp] theorem State.modStack_episode (s : State) (k : Nat) (f : StackSt → StackSt) : (s.modStack k f).episode = s.episode := rfl
@[simp] theorem State.modStack_hotDies (s : State) (k : Nat) (f : StackSt → StackSt) : (s.modStack k f).hotDies = s.hotDies := rfl
@[simp] theorem State.modStack_tripped (s : State) (k : Nat) (f : StackSt → StackSt) : (s.modStack k f).tripped = s.tripped := rfl
@[simp] theorem State.modStack_bootState (s : State) (k : Nat) (f : StackSt → StackSt) : (s.modStack k f).bootState = s.bootState := rfl
@[simp] theorem State.modStack_bootStep (s : State) (k : Nat) (f : StackSt → StackSt) : (s.modStack k f).bootStep = s.bootStep := rfl
@[simp] theorem State.modStack_bootSvn (s : State) (k : Nat) (f : StackSt → StackSt) : (s.modStack k f).bootSvn = s.bootSvn := rfl
@[simp] theorem State.modStack_resetReq (s : State) (k : Nat) (f : StackSt → StackSt) : (s.modStack k f).resetReq = s.resetReq := rfl
@[simp] theorem State.modStack_flash (s : State) (k : Nat) (f : StackSt → StackSt) : (s.modStack k f).flash = s.flash := rfl
@[simp] theorem State.modStack_bootImage (s : State) (k : Nat) (f : StackSt → StackSt) : (s.modStack k f).bootImage = s.bootImage := rfl
@[simp] theorem State.modStack_latTable (s : State) (k : Nat) (f : StackSt → StackSt) : (s.modStack k f).latTable = s.latTable := rfl
@[simp] theorem State.modStack_routes (s : State) (k : Nat) (f : StackSt → StackSt) : (s.modStack k f).routes = s.routes := rfl
@[simp] theorem State.modStack_lanesDown (s : State) (k : Nat) (f : StackSt → StackSt) : (s.modStack k f).lanesDown = s.lanesDown := rfl
@[simp] theorem State.modStack_explGo (s : State) (k : Nat) (f : StackSt → StackSt) : (s.modStack k f).explGo = s.explGo := rfl
@[simp] theorem State.modStack_explChanged (s : State) (k : Nat) (f : StackSt → StackSt) : (s.modStack k f).explChanged = s.explChanged := rfl
@[simp] theorem State.modStack_explDup (s : State) (k : Nat) (f : StackSt → StackSt) : (s.modStack k f).explDup = s.explDup := rfl
@[simp] theorem State.modStack_explFound (s : State) (k : Nat) (f : StackSt → StackSt) : (s.modStack k f).explFound = s.explFound := rfl
@[simp] theorem State.modStack_explRunning (s : State) (k : Nat) (f : StackSt → StackSt) : (s.modStack k f).explRunning = s.explRunning := rfl
@[simp] theorem State.modStack_explGen (s : State) (k : Nat) (f : StackSt → StackSt) : (s.modStack k f).explGen = s.explGen := rfl
@[simp] theorem State.modStack_explLast (s : State) (k : Nat) (f : StackSt → StackSt) : (s.modStack k f).explLast = s.explLast := rfl
@[simp] theorem State.modStack_reports (s : State) (k : Nat) (f : StackSt → StackSt) : (s.modStack k f).reports = s.reports := rfl
@[simp] theorem State.modStack_explFlits (s : State) (k : Nat) (f : StackSt → StackSt) : (s.modStack k f).explFlits = s.explFlits := rfl
@[simp] theorem State.modStack_pkgNum (s : State) (k : Nat) (f : StackSt → StackSt) : (s.modStack k f).pkgNum = s.pkgNum := rfl
@[simp] theorem State.modStack_pkgUsed (s : State) (k : Nat) (f : StackSt → StackSt) : (s.modStack k f).pkgUsed = s.pkgUsed := rfl
@[simp] theorem State.modStack_ports (s : State) (k : Nat) (f : StackSt → StackSt) : (s.modStack k f).ports = s.ports := rfl
@[simp] theorem State.modStack_keys (s : State) (k : Nat) (f : StackSt → StackSt) : (s.modStack k f).keys = s.keys := rfl
@[simp] theorem State.modStack_keySlotSel (s : State) (k : Nat) (f : StackSt → StackSt) : (s.modStack k f).keySlotSel = s.keySlotSel := rfl
@[simp] theorem State.modStack_keyPend (s : State) (k : Nat) (f : StackSt → StackSt) : (s.modStack k f).keyPend = s.keyPend := rfl
@[simp] theorem State.modStack_keyData (s : State) (k : Nat) (f : StackSt → StackSt) : (s.modStack k f).keyData = s.keyData := rfl
@[simp] theorem State.modStack_w4base (s : State) (k : Nat) (f : StackSt → StackSt) : (s.modStack k f).w4base = s.w4base := rfl
@[simp] theorem State.modStack_ptpSource (s : State) (k : Nat) (f : StackSt → StackSt) : (s.modStack k f).ptpSource = s.ptpSource := rfl
@[simp] theorem State.modStack_ptpPort (s : State) (k : Nat) (f : StackSt → StackSt) : (s.modStack k f).ptpPort = s.ptpPort := rfl
@[simp] theorem State.modStack_ptpLocked (s : State) (k : Nat) (f : StackSt → StackSt) : (s.modStack k f).ptpLocked = s.ptpLocked := rfl
@[simp] theorem State.modStack_ppsSeen (s : State) (k : Nat) (f : StackSt → StackSt) : (s.modStack k f).ppsSeen = s.ppsSeen := rfl
@[simp] theorem State.modStack_ptpRate (s : State) (k : Nat) (f : StackSt → StackSt) : (s.modStack k f).ptpRate = s.ptpRate := rfl
@[simp] theorem State.modStack_forigin (s : State) (k : Nat) (f : StackSt → StackSt) : (s.modStack k f).forigin = s.forigin := rfl
@[simp] theorem State.modStack_foriginNew (s : State) (k : Nat) (f : StackSt → StackSt) : (s.modStack k f).foriginNew = s.foriginNew := rfl
@[simp] theorem State.modStack_loadAddr (s : State) (k : Nat) (f : StackSt → StackSt) : (s.modStack k f).loadAddr = s.loadAddr := rfl
@[simp] theorem State.modStack_loadStatus (s : State) (k : Nat) (f : StackSt → StackSt) : (s.modStack k f).loadStatus = s.loadStatus := rfl
@[simp] theorem State.modStack_images (s : State) (k : Nat) (f : StackSt → StackSt) : (s.modStack k f).images = s.images := rfl
@[simp] theorem State.modStack_surfBase (s : State) (k : Nat) (f : StackSt → StackSt) : (s.modStack k f).surfBase = s.surfBase := rfl
@[simp] theorem State.modStack_astBase (s : State) (k : Nat) (f : StackSt → StackSt) : (s.modStack k f).astBase = s.astBase := rfl
@[simp] theorem State.modStack_tlbInv (s : State) (k : Nat) (f : StackSt → StackSt) : (s.modStack k f).tlbInv = s.tlbInv := rfl
@[simp] theorem State.modStack_tlbSince (s : State) (k : Nat) (f : StackSt → StackSt) : (s.modStack k f).tlbSince = s.tlbSince := rfl
@[simp] theorem State.modStack_msix (s : State) (k : Nat) (f : StackSt → StackSt) : (s.modStack k f).msix = s.msix := rfl
@[simp] theorem State.modStack_hostOut (s : State) (k : Nat) (f : StackSt → StackSt) : (s.modStack k f).hostOut = s.hostOut := rfl
@[simp] theorem State.modStack_hostAsks (s : State) (k : Nat) (f : StackSt → StackSt) : (s.modStack k f).hostAsks = s.hostAsks := rfl
@[simp] theorem State.modStack_transcript (s : State) (k : Nat) (f : StackSt → StackSt) : (s.modStack k f).transcript = s.transcript := rfl
@[simp] theorem State.modStack_hostWrites (s : State) (k : Nat) (f : StackSt → StackSt) : (s.modStack k f).hostWrites = s.hostWrites := rfl
@[simp] theorem State.modStack_bar0 (s : State) (k : Nat) (f : StackSt → StackSt) : (s.modStack k f).bar0 = s.bar0 := rfl
@[simp] theorem State.modStack_bar2 (s : State) (k : Nat) (f : StackSt → StackSt) : (s.modStack k f).bar2 = s.bar2 := rfl
@[simp] theorem State.modStack_bar4 (s : State) (k : Nat) (f : StackSt → StackSt) : (s.modStack k f).bar4 = s.bar4 := rfl
@[simp] theorem State.modStack_bar4Bits (s : State) (k : Nat) (f : StackSt → StackSt) : (s.modStack k f).bar4Bits = s.bar4Bits := rfl
@[simp] theorem State.modStack_entries (s : State) (k : Nat) (f : StackSt → StackSt) : (s.modStack k f).entries = s.entries := rfl
@[simp] theorem State.modStack_slotBytes (s : State) (k : Nat) (f : StackSt → StackSt) : (s.modStack k f).slotBytes = s.slotBytes := rfl
@[simp] theorem State.modStack_lstatRejected (s : State) (k : Nat) (f : StackSt → StackSt) : (s.modStack k f).lstatRejected = s.lstatRejected := rfl
@[simp] theorem State.modStack_lstatSlot (s : State) (k : Nat) (f : StackSt → StackSt) : (s.modStack k f).lstatSlot = s.lstatSlot := rfl
@[simp] theorem State.modStack_lstatReason (s : State) (k : Nat) (f : StackSt → StackSt) : (s.modStack k f).lstatReason = s.lstatReason := rfl
@[simp] theorem State.modStack_stray (s : State) (k : Nat) (f : StackSt → StackSt) : (s.modStack k f).stray = s.stray := rfl
@[simp] theorem State.modStack_unmatched (s : State) (k : Nat) (f : StackSt → StackSt) : (s.modStack k f).unmatched = s.unmatched := rfl
@[simp] theorem State.modStack_arrivalTable (s : State) (k : Nat) (f : StackSt → StackSt) : (s.modStack k f).arrivalTable = s.arrivalTable := rfl
@[simp] theorem State.modStack_tagged (s : State) (k : Nat) (f : StackSt → StackSt) : (s.modStack k f).tagged = s.tagged := rfl
@[simp] theorem State.modStack_frame (s : State) (k : Nat) (f : StackSt → StackSt) : (s.modStack k f).frame = s.frame := rfl
@[simp] theorem State.modStack_held (s : State) (k : Nat) (f : StackSt → StackSt) : (s.modStack k f).held = s.held := rfl
@[simp] theorem State.modStack_owait (s : State) (k : Nat) (f : StackSt → StackSt) : (s.modStack k f).owait = s.owait := rfl
@[simp] theorem State.modStack_framesOn (s : State) (k : Nat) (f : StackSt → StackSt) : (s.modStack k f).framesOn = s.framesOn := rfl
@[simp] theorem State.modStack_slipNs (s : State) (k : Nat) (f : StackSt → StackSt) : (s.modStack k f).slipNs = s.slipNs := rfl
@[simp] theorem State.modStack_dueAt (s : State) (k : Nat) (f : StackSt → StackSt) : (s.modStack k f).dueAt = s.dueAt := rfl
@[simp] theorem State.modStack_holdFreed (s : State) (k : Nat) (f : StackSt → StackSt) : (s.modStack k f).holdFreed = s.holdFreed := rfl
@[simp] theorem State.modStack_holders (s : State) (k : Nat) (f : StackSt → StackSt) : (s.modStack k f).holders = s.holders := rfl
@[simp] theorem State.modStack_tfailSlot (s : State) (k : Nat) (f : StackSt → StackSt) : (s.modStack k f).tfailSlot = s.tfailSlot := rfl
@[simp] theorem State.modStack_tfailQuad (s : State) (k : Nat) (f : StackSt → StackSt) : (s.modStack k f).tfailQuad = s.tfailQuad := rfl
@[simp] theorem State.modStack_tfailCause (s : State) (k : Nat) (f : StackSt → StackSt) : (s.modStack k f).tfailCause = s.tfailCause := rfl
@[simp] theorem State.modStack_tfailCount (s : State) (k : Nat) (f : StackSt → StackSt) : (s.modStack k f).tfailCount = s.tfailCount := rfl
@[simp] theorem State.modStack_slHead (s : State) (k : Nat) (f : StackSt → StackSt) : (s.modStack k f).slHead = s.slHead := rfl
@[simp] theorem State.modStack_slTail (s : State) (k : Nat) (f : StackSt → StackSt) : (s.modStack k f).slTail = s.slTail := rfl
@[simp] theorem State.modStack_slDropped (s : State) (k : Nat) (f : StackSt → StackSt) : (s.modStack k f).slDropped = s.slDropped := rfl
@[simp] theorem State.modStack_slipLog (s : State) (k : Nat) (f : StackSt → StackSt) : (s.modStack k f).slipLog = s.slipLog := rfl
@[simp] theorem State.modStack_decs (s : State) (k : Nat) (f : StackSt → StackSt) : (s.modStack k f).decs = s.decs := rfl
@[simp] theorem State.modStack_spawns (s : State) (k : Nat) (f : StackSt → StackSt) : (s.modStack k f).spawns = s.spawns := rfl
@[simp] theorem State.modStack_preempts (s : State) (k : Nat) (f : StackSt → StackSt) : (s.modStack k f).preempts = s.preempts := rfl
@[simp] theorem State.modStack_cores (s : State) (k : Nat) (f : StackSt → StackSt) : (s.modStack k f).cores = s.cores := rfl
@[simp] theorem State.modStack_cells (s : State) (k : Nat) (f : StackSt → StackSt) : (s.modStack k f).cells = s.cells := rfl
@[simp] theorem State.modStack_dies (s : State) (k : Nat) (f : StackSt → StackSt) : (s.modStack k f).dies = s.dies := rfl
@[simp] theorem State.modStack_mem (s : State) (k : Nat) (f : StackSt → StackSt) : (s.modStack k f).mem = s.mem := rfl
@[simp] theorem State.modStack_keyTag (s : State) (k : Nat) (f : StackSt → StackSt) : (s.modStack k f).keyTag = s.keyTag := rfl
@[simp] theorem State.modStack_poison (s : State) (k : Nat) (f : StackSt → StackSt) : (s.modStack k f).poison = s.poison := rfl
@[simp] theorem State.modStack_farBad (s : State) (k : Nat) (f : StackSt → StackSt) : (s.modStack k f).farBad = s.farBad := rfl
@[simp] theorem State.modStack_replies (s : State) (k : Nat) (f : StackSt → StackSt) : (s.modStack k f).replies = s.replies := rfl
@[simp] theorem State.modStack_msgs (s : State) (k : Nat) (f : StackSt → StackSt) : (s.modStack k f).msgs = s.msgs := rfl
@[simp] theorem State.modStack_combine (s : State) (k : Nat) (f : StackSt → StackSt) : (s.modStack k f).combine = s.combine := rfl
@[simp] theorem State.modStack_arrivals (s : State) (k : Nat) (f : StackSt → StackSt) : (s.modStack k f).arrivals = s.arrivals := rfl
@[simp] theorem State.modStack_laneMsgs (s : State) (k : Nat) (f : StackSt → StackSt) : (s.modStack k f).laneMsgs = s.laneMsgs := rfl
@[simp] theorem State.modStack_tables (s : State) (k : Nat) (f : StackSt → StackSt) : (s.modStack k f).tables = s.tables := rfl
@[simp] theorem State.modStack_sftabs (s : State) (k : Nat) (f : StackSt → StackSt) : (s.modStack k f).sftabs = s.sftabs := rfl
@[simp] theorem State.modStack_monitor (s : State) (k : Nat) (f : StackSt → StackSt) : (s.modStack k f).monitor = s.monitor := rfl
@[simp] theorem State.modStack_cur (s : State) (k : Nat) (f : StackSt → StackSt) : (s.modStack k f).cur = s.cur := rfl
@[simp] theorem State.modStack_arg (s : State) (k : Nat) (f : StackSt → StackSt) : (s.modStack k f).arg = s.arg := rfl
@[simp] theorem State.modStack_inputs (s : State) (k : Nat) (f : StackSt → StackSt) : (s.modStack k f).inputs = s.inputs := rfl
@[simp] theorem State.modStack_later (s : State) (k : Nat) (f : StackSt → StackSt) : (s.modStack k f).later = s.later := rfl
@[simp] theorem State.modStack_choices (s : State) (k : Nat) (f : StackSt → StackSt) : (s.modStack k f).choices = s.choices := rfl
@[simp] theorem State.modStack_fresh (s : State) (k : Nat) (f : StackSt → StackSt) : (s.modStack k f).fresh = s.fresh := rfl

/-! ### modEntry -/

@[simp] theorem State.core_modEntry (s : State) (i : Nat) (f : Entry → Entry) (o : Nat) : (s.modEntry i f).core o = s.core o := rfl
@[simp] theorem State.cell_modEntry (s : State) (i : Nat) (f : Entry → Entry) (o j : Nat) : (s.modEntry i f).cell o j = s.cell o j := rfl
@[simp] theorem State.die_modEntry (s : State) (i : Nat) (f : Entry → Entry) (o : Nat) : (s.modEntry i f).die o = s.die o := rfl
@[simp] theorem State.stack_modEntry (s : State) (i : Nat) (f : Entry → Entry) (o : Nat) : (s.modEntry i f).stack o = s.stack o := rfl
@[simp] theorem State.modEntry_pcc (s : State) (i : Nat) (f : Entry → Entry) : (s.modEntry i f).pcc = s.pcc := rfl
@[simp] theorem State.modEntry_wall (s : State) (i : Nat) (f : Entry → Entry) : (s.modEntry i f).wall = s.wall := rfl
@[simp] theorem State.modEntry_ptp (s : State) (i : Nat) (f : Entry → Entry) : (s.modEntry i f).ptp = s.ptp := rfl
@[simp] theorem State.modEntry_clockOn (s : State) (i : Nat) (f : Entry → Entry) : (s.modEntry i f).clockOn = s.clockOn := rfl
@[simp] theorem State.modEntry_debugHalt (s : State) (i : Nat) (f : Entry → Entry) : (s.modEntry i f).debugHalt = s.debugHalt := rfl
@[simp] theorem State.modEntry_episode (s : State) (i : Nat) (f : Entry → Entry) : (s.modEntry i f).episode = s.episode := rfl
@[simp] theorem State.modEntry_hotDies (s : State) (i : Nat) (f : Entry → Entry) : (s.modEntry i f).hotDies = s.hotDies := rfl
@[simp] theorem State.modEntry_tripped (s : State) (i : Nat) (f : Entry → Entry) : (s.modEntry i f).tripped = s.tripped := rfl
@[simp] theorem State.modEntry_bootState (s : State) (i : Nat) (f : Entry → Entry) : (s.modEntry i f).bootState = s.bootState := rfl
@[simp] theorem State.modEntry_bootStep (s : State) (i : Nat) (f : Entry → Entry) : (s.modEntry i f).bootStep = s.bootStep := rfl
@[simp] theorem State.modEntry_bootSvn (s : State) (i : Nat) (f : Entry → Entry) : (s.modEntry i f).bootSvn = s.bootSvn := rfl
@[simp] theorem State.modEntry_resetReq (s : State) (i : Nat) (f : Entry → Entry) : (s.modEntry i f).resetReq = s.resetReq := rfl
@[simp] theorem State.modEntry_flash (s : State) (i : Nat) (f : Entry → Entry) : (s.modEntry i f).flash = s.flash := rfl
@[simp] theorem State.modEntry_bootImage (s : State) (i : Nat) (f : Entry → Entry) : (s.modEntry i f).bootImage = s.bootImage := rfl
@[simp] theorem State.modEntry_latTable (s : State) (i : Nat) (f : Entry → Entry) : (s.modEntry i f).latTable = s.latTable := rfl
@[simp] theorem State.modEntry_routes (s : State) (i : Nat) (f : Entry → Entry) : (s.modEntry i f).routes = s.routes := rfl
@[simp] theorem State.modEntry_lanesDown (s : State) (i : Nat) (f : Entry → Entry) : (s.modEntry i f).lanesDown = s.lanesDown := rfl
@[simp] theorem State.modEntry_explGo (s : State) (i : Nat) (f : Entry → Entry) : (s.modEntry i f).explGo = s.explGo := rfl
@[simp] theorem State.modEntry_explChanged (s : State) (i : Nat) (f : Entry → Entry) : (s.modEntry i f).explChanged = s.explChanged := rfl
@[simp] theorem State.modEntry_explDup (s : State) (i : Nat) (f : Entry → Entry) : (s.modEntry i f).explDup = s.explDup := rfl
@[simp] theorem State.modEntry_explFound (s : State) (i : Nat) (f : Entry → Entry) : (s.modEntry i f).explFound = s.explFound := rfl
@[simp] theorem State.modEntry_explRunning (s : State) (i : Nat) (f : Entry → Entry) : (s.modEntry i f).explRunning = s.explRunning := rfl
@[simp] theorem State.modEntry_explGen (s : State) (i : Nat) (f : Entry → Entry) : (s.modEntry i f).explGen = s.explGen := rfl
@[simp] theorem State.modEntry_explLast (s : State) (i : Nat) (f : Entry → Entry) : (s.modEntry i f).explLast = s.explLast := rfl
@[simp] theorem State.modEntry_reports (s : State) (i : Nat) (f : Entry → Entry) : (s.modEntry i f).reports = s.reports := rfl
@[simp] theorem State.modEntry_explFlits (s : State) (i : Nat) (f : Entry → Entry) : (s.modEntry i f).explFlits = s.explFlits := rfl
@[simp] theorem State.modEntry_pkgNum (s : State) (i : Nat) (f : Entry → Entry) : (s.modEntry i f).pkgNum = s.pkgNum := rfl
@[simp] theorem State.modEntry_pkgUsed (s : State) (i : Nat) (f : Entry → Entry) : (s.modEntry i f).pkgUsed = s.pkgUsed := rfl
@[simp] theorem State.modEntry_ports (s : State) (i : Nat) (f : Entry → Entry) : (s.modEntry i f).ports = s.ports := rfl
@[simp] theorem State.modEntry_keys (s : State) (i : Nat) (f : Entry → Entry) : (s.modEntry i f).keys = s.keys := rfl
@[simp] theorem State.modEntry_keySlotSel (s : State) (i : Nat) (f : Entry → Entry) : (s.modEntry i f).keySlotSel = s.keySlotSel := rfl
@[simp] theorem State.modEntry_keyPend (s : State) (i : Nat) (f : Entry → Entry) : (s.modEntry i f).keyPend = s.keyPend := rfl
@[simp] theorem State.modEntry_keyData (s : State) (i : Nat) (f : Entry → Entry) : (s.modEntry i f).keyData = s.keyData := rfl
@[simp] theorem State.modEntry_w4base (s : State) (i : Nat) (f : Entry → Entry) : (s.modEntry i f).w4base = s.w4base := rfl
@[simp] theorem State.modEntry_ptpSource (s : State) (i : Nat) (f : Entry → Entry) : (s.modEntry i f).ptpSource = s.ptpSource := rfl
@[simp] theorem State.modEntry_ptpPort (s : State) (i : Nat) (f : Entry → Entry) : (s.modEntry i f).ptpPort = s.ptpPort := rfl
@[simp] theorem State.modEntry_ptpLocked (s : State) (i : Nat) (f : Entry → Entry) : (s.modEntry i f).ptpLocked = s.ptpLocked := rfl
@[simp] theorem State.modEntry_ppsSeen (s : State) (i : Nat) (f : Entry → Entry) : (s.modEntry i f).ppsSeen = s.ppsSeen := rfl
@[simp] theorem State.modEntry_ptpRate (s : State) (i : Nat) (f : Entry → Entry) : (s.modEntry i f).ptpRate = s.ptpRate := rfl
@[simp] theorem State.modEntry_forigin (s : State) (i : Nat) (f : Entry → Entry) : (s.modEntry i f).forigin = s.forigin := rfl
@[simp] theorem State.modEntry_foriginNew (s : State) (i : Nat) (f : Entry → Entry) : (s.modEntry i f).foriginNew = s.foriginNew := rfl
@[simp] theorem State.modEntry_loadAddr (s : State) (i : Nat) (f : Entry → Entry) : (s.modEntry i f).loadAddr = s.loadAddr := rfl
@[simp] theorem State.modEntry_loadStatus (s : State) (i : Nat) (f : Entry → Entry) : (s.modEntry i f).loadStatus = s.loadStatus := rfl
@[simp] theorem State.modEntry_images (s : State) (i : Nat) (f : Entry → Entry) : (s.modEntry i f).images = s.images := rfl
@[simp] theorem State.modEntry_surfBase (s : State) (i : Nat) (f : Entry → Entry) : (s.modEntry i f).surfBase = s.surfBase := rfl
@[simp] theorem State.modEntry_astBase (s : State) (i : Nat) (f : Entry → Entry) : (s.modEntry i f).astBase = s.astBase := rfl
@[simp] theorem State.modEntry_tlbInv (s : State) (i : Nat) (f : Entry → Entry) : (s.modEntry i f).tlbInv = s.tlbInv := rfl
@[simp] theorem State.modEntry_tlbSince (s : State) (i : Nat) (f : Entry → Entry) : (s.modEntry i f).tlbSince = s.tlbSince := rfl
@[simp] theorem State.modEntry_msix (s : State) (i : Nat) (f : Entry → Entry) : (s.modEntry i f).msix = s.msix := rfl
@[simp] theorem State.modEntry_hostOut (s : State) (i : Nat) (f : Entry → Entry) : (s.modEntry i f).hostOut = s.hostOut := rfl
@[simp] theorem State.modEntry_hostAsks (s : State) (i : Nat) (f : Entry → Entry) : (s.modEntry i f).hostAsks = s.hostAsks := rfl
@[simp] theorem State.modEntry_transcript (s : State) (i : Nat) (f : Entry → Entry) : (s.modEntry i f).transcript = s.transcript := rfl
@[simp] theorem State.modEntry_hostWrites (s : State) (i : Nat) (f : Entry → Entry) : (s.modEntry i f).hostWrites = s.hostWrites := rfl
@[simp] theorem State.modEntry_bar0 (s : State) (i : Nat) (f : Entry → Entry) : (s.modEntry i f).bar0 = s.bar0 := rfl
@[simp] theorem State.modEntry_bar2 (s : State) (i : Nat) (f : Entry → Entry) : (s.modEntry i f).bar2 = s.bar2 := rfl
@[simp] theorem State.modEntry_bar4 (s : State) (i : Nat) (f : Entry → Entry) : (s.modEntry i f).bar4 = s.bar4 := rfl
@[simp] theorem State.modEntry_bar4Bits (s : State) (i : Nat) (f : Entry → Entry) : (s.modEntry i f).bar4Bits = s.bar4Bits := rfl
@[simp] theorem State.modEntry_slotBytes (s : State) (i : Nat) (f : Entry → Entry) : (s.modEntry i f).slotBytes = s.slotBytes := rfl
@[simp] theorem State.modEntry_lstatRejected (s : State) (i : Nat) (f : Entry → Entry) : (s.modEntry i f).lstatRejected = s.lstatRejected := rfl
@[simp] theorem State.modEntry_lstatSlot (s : State) (i : Nat) (f : Entry → Entry) : (s.modEntry i f).lstatSlot = s.lstatSlot := rfl
@[simp] theorem State.modEntry_lstatReason (s : State) (i : Nat) (f : Entry → Entry) : (s.modEntry i f).lstatReason = s.lstatReason := rfl
@[simp] theorem State.modEntry_stray (s : State) (i : Nat) (f : Entry → Entry) : (s.modEntry i f).stray = s.stray := rfl
@[simp] theorem State.modEntry_unmatched (s : State) (i : Nat) (f : Entry → Entry) : (s.modEntry i f).unmatched = s.unmatched := rfl
@[simp] theorem State.modEntry_arrivalTable (s : State) (i : Nat) (f : Entry → Entry) : (s.modEntry i f).arrivalTable = s.arrivalTable := rfl
@[simp] theorem State.modEntry_tagged (s : State) (i : Nat) (f : Entry → Entry) : (s.modEntry i f).tagged = s.tagged := rfl
@[simp] theorem State.modEntry_frame (s : State) (i : Nat) (f : Entry → Entry) : (s.modEntry i f).frame = s.frame := rfl
@[simp] theorem State.modEntry_held (s : State) (i : Nat) (f : Entry → Entry) : (s.modEntry i f).held = s.held := rfl
@[simp] theorem State.modEntry_owait (s : State) (i : Nat) (f : Entry → Entry) : (s.modEntry i f).owait = s.owait := rfl
@[simp] theorem State.modEntry_framesOn (s : State) (i : Nat) (f : Entry → Entry) : (s.modEntry i f).framesOn = s.framesOn := rfl
@[simp] theorem State.modEntry_slipNs (s : State) (i : Nat) (f : Entry → Entry) : (s.modEntry i f).slipNs = s.slipNs := rfl
@[simp] theorem State.modEntry_dueAt (s : State) (i : Nat) (f : Entry → Entry) : (s.modEntry i f).dueAt = s.dueAt := rfl
@[simp] theorem State.modEntry_holdFreed (s : State) (i : Nat) (f : Entry → Entry) : (s.modEntry i f).holdFreed = s.holdFreed := rfl
@[simp] theorem State.modEntry_holders (s : State) (i : Nat) (f : Entry → Entry) : (s.modEntry i f).holders = s.holders := rfl
@[simp] theorem State.modEntry_tfailSlot (s : State) (i : Nat) (f : Entry → Entry) : (s.modEntry i f).tfailSlot = s.tfailSlot := rfl
@[simp] theorem State.modEntry_tfailQuad (s : State) (i : Nat) (f : Entry → Entry) : (s.modEntry i f).tfailQuad = s.tfailQuad := rfl
@[simp] theorem State.modEntry_tfailCause (s : State) (i : Nat) (f : Entry → Entry) : (s.modEntry i f).tfailCause = s.tfailCause := rfl
@[simp] theorem State.modEntry_tfailCount (s : State) (i : Nat) (f : Entry → Entry) : (s.modEntry i f).tfailCount = s.tfailCount := rfl
@[simp] theorem State.modEntry_slHead (s : State) (i : Nat) (f : Entry → Entry) : (s.modEntry i f).slHead = s.slHead := rfl
@[simp] theorem State.modEntry_slTail (s : State) (i : Nat) (f : Entry → Entry) : (s.modEntry i f).slTail = s.slTail := rfl
@[simp] theorem State.modEntry_slDropped (s : State) (i : Nat) (f : Entry → Entry) : (s.modEntry i f).slDropped = s.slDropped := rfl
@[simp] theorem State.modEntry_slipLog (s : State) (i : Nat) (f : Entry → Entry) : (s.modEntry i f).slipLog = s.slipLog := rfl
@[simp] theorem State.modEntry_decs (s : State) (i : Nat) (f : Entry → Entry) : (s.modEntry i f).decs = s.decs := rfl
@[simp] theorem State.modEntry_spawns (s : State) (i : Nat) (f : Entry → Entry) : (s.modEntry i f).spawns = s.spawns := rfl
@[simp] theorem State.modEntry_preempts (s : State) (i : Nat) (f : Entry → Entry) : (s.modEntry i f).preempts = s.preempts := rfl
@[simp] theorem State.modEntry_cores (s : State) (i : Nat) (f : Entry → Entry) : (s.modEntry i f).cores = s.cores := rfl
@[simp] theorem State.modEntry_cells (s : State) (i : Nat) (f : Entry → Entry) : (s.modEntry i f).cells = s.cells := rfl
@[simp] theorem State.modEntry_dies (s : State) (i : Nat) (f : Entry → Entry) : (s.modEntry i f).dies = s.dies := rfl
@[simp] theorem State.modEntry_hbm (s : State) (i : Nat) (f : Entry → Entry) : (s.modEntry i f).hbm = s.hbm := rfl
@[simp] theorem State.modEntry_mem (s : State) (i : Nat) (f : Entry → Entry) : (s.modEntry i f).mem = s.mem := rfl
@[simp] theorem State.modEntry_keyTag (s : State) (i : Nat) (f : Entry → Entry) : (s.modEntry i f).keyTag = s.keyTag := rfl
@[simp] theorem State.modEntry_poison (s : State) (i : Nat) (f : Entry → Entry) : (s.modEntry i f).poison = s.poison := rfl
@[simp] theorem State.modEntry_farBad (s : State) (i : Nat) (f : Entry → Entry) : (s.modEntry i f).farBad = s.farBad := rfl
@[simp] theorem State.modEntry_replies (s : State) (i : Nat) (f : Entry → Entry) : (s.modEntry i f).replies = s.replies := rfl
@[simp] theorem State.modEntry_msgs (s : State) (i : Nat) (f : Entry → Entry) : (s.modEntry i f).msgs = s.msgs := rfl
@[simp] theorem State.modEntry_combine (s : State) (i : Nat) (f : Entry → Entry) : (s.modEntry i f).combine = s.combine := rfl
@[simp] theorem State.modEntry_arrivals (s : State) (i : Nat) (f : Entry → Entry) : (s.modEntry i f).arrivals = s.arrivals := rfl
@[simp] theorem State.modEntry_laneMsgs (s : State) (i : Nat) (f : Entry → Entry) : (s.modEntry i f).laneMsgs = s.laneMsgs := rfl
@[simp] theorem State.modEntry_tables (s : State) (i : Nat) (f : Entry → Entry) : (s.modEntry i f).tables = s.tables := rfl
@[simp] theorem State.modEntry_sftabs (s : State) (i : Nat) (f : Entry → Entry) : (s.modEntry i f).sftabs = s.sftabs := rfl
@[simp] theorem State.modEntry_monitor (s : State) (i : Nat) (f : Entry → Entry) : (s.modEntry i f).monitor = s.monitor := rfl
@[simp] theorem State.modEntry_cur (s : State) (i : Nat) (f : Entry → Entry) : (s.modEntry i f).cur = s.cur := rfl
@[simp] theorem State.modEntry_arg (s : State) (i : Nat) (f : Entry → Entry) : (s.modEntry i f).arg = s.arg := rfl
@[simp] theorem State.modEntry_inputs (s : State) (i : Nat) (f : Entry → Entry) : (s.modEntry i f).inputs = s.inputs := rfl
@[simp] theorem State.modEntry_later (s : State) (i : Nat) (f : Entry → Entry) : (s.modEntry i f).later = s.later := rfl
@[simp] theorem State.modEntry_choices (s : State) (i : Nat) (f : Entry → Entry) : (s.modEntry i f).choices = s.choices := rfl
@[simp] theorem State.modEntry_fresh (s : State) (i : Nat) (f : Entry → Entry) : (s.modEntry i f).fresh = s.fresh := rfl

/-! ### irq -/

@[simp] theorem State.core_irq (s : State) (v : Nat) (o : Nat) : (s.irq v).core o = s.core o := rfl
@[simp] theorem State.cell_irq (s : State) (v : Nat) (o i : Nat) : (s.irq v).cell o i = s.cell o i := rfl
@[simp] theorem State.die_irq (s : State) (v : Nat) (o : Nat) : (s.irq v).die o = s.die o := rfl
@[simp] theorem State.stack_irq (s : State) (v : Nat) (o : Nat) : (s.irq v).stack o = s.stack o := rfl
@[simp] theorem State.entry_irq (s : State) (v : Nat) (o : Nat) : (s.irq v).entry o = s.entry o := rfl
@[simp] theorem State.irq_pcc (s : State) (v : Nat) : (s.irq v).pcc = s.pcc := rfl
@[simp] theorem State.irq_wall (s : State) (v : Nat) : (s.irq v).wall = s.wall := rfl
@[simp] theorem State.irq_ptp (s : State) (v : Nat) : (s.irq v).ptp = s.ptp := rfl
@[simp] theorem State.irq_clockOn (s : State) (v : Nat) : (s.irq v).clockOn = s.clockOn := rfl
@[simp] theorem State.irq_debugHalt (s : State) (v : Nat) : (s.irq v).debugHalt = s.debugHalt := rfl
@[simp] theorem State.irq_episode (s : State) (v : Nat) : (s.irq v).episode = s.episode := rfl
@[simp] theorem State.irq_hotDies (s : State) (v : Nat) : (s.irq v).hotDies = s.hotDies := rfl
@[simp] theorem State.irq_tripped (s : State) (v : Nat) : (s.irq v).tripped = s.tripped := rfl
@[simp] theorem State.irq_bootState (s : State) (v : Nat) : (s.irq v).bootState = s.bootState := rfl
@[simp] theorem State.irq_bootStep (s : State) (v : Nat) : (s.irq v).bootStep = s.bootStep := rfl
@[simp] theorem State.irq_bootSvn (s : State) (v : Nat) : (s.irq v).bootSvn = s.bootSvn := rfl
@[simp] theorem State.irq_resetReq (s : State) (v : Nat) : (s.irq v).resetReq = s.resetReq := rfl
@[simp] theorem State.irq_flash (s : State) (v : Nat) : (s.irq v).flash = s.flash := rfl
@[simp] theorem State.irq_bootImage (s : State) (v : Nat) : (s.irq v).bootImage = s.bootImage := rfl
@[simp] theorem State.irq_latTable (s : State) (v : Nat) : (s.irq v).latTable = s.latTable := rfl
@[simp] theorem State.irq_routes (s : State) (v : Nat) : (s.irq v).routes = s.routes := rfl
@[simp] theorem State.irq_lanesDown (s : State) (v : Nat) : (s.irq v).lanesDown = s.lanesDown := rfl
@[simp] theorem State.irq_explGo (s : State) (v : Nat) : (s.irq v).explGo = s.explGo := rfl
@[simp] theorem State.irq_explChanged (s : State) (v : Nat) : (s.irq v).explChanged = s.explChanged := rfl
@[simp] theorem State.irq_explDup (s : State) (v : Nat) : (s.irq v).explDup = s.explDup := rfl
@[simp] theorem State.irq_explFound (s : State) (v : Nat) : (s.irq v).explFound = s.explFound := rfl
@[simp] theorem State.irq_explRunning (s : State) (v : Nat) : (s.irq v).explRunning = s.explRunning := rfl
@[simp] theorem State.irq_explGen (s : State) (v : Nat) : (s.irq v).explGen = s.explGen := rfl
@[simp] theorem State.irq_explLast (s : State) (v : Nat) : (s.irq v).explLast = s.explLast := rfl
@[simp] theorem State.irq_reports (s : State) (v : Nat) : (s.irq v).reports = s.reports := rfl
@[simp] theorem State.irq_explFlits (s : State) (v : Nat) : (s.irq v).explFlits = s.explFlits := rfl
@[simp] theorem State.irq_pkgNum (s : State) (v : Nat) : (s.irq v).pkgNum = s.pkgNum := rfl
@[simp] theorem State.irq_pkgUsed (s : State) (v : Nat) : (s.irq v).pkgUsed = s.pkgUsed := rfl
@[simp] theorem State.irq_ports (s : State) (v : Nat) : (s.irq v).ports = s.ports := rfl
@[simp] theorem State.irq_keys (s : State) (v : Nat) : (s.irq v).keys = s.keys := rfl
@[simp] theorem State.irq_keySlotSel (s : State) (v : Nat) : (s.irq v).keySlotSel = s.keySlotSel := rfl
@[simp] theorem State.irq_keyPend (s : State) (v : Nat) : (s.irq v).keyPend = s.keyPend := rfl
@[simp] theorem State.irq_keyData (s : State) (v : Nat) : (s.irq v).keyData = s.keyData := rfl
@[simp] theorem State.irq_w4base (s : State) (v : Nat) : (s.irq v).w4base = s.w4base := rfl
@[simp] theorem State.irq_ptpSource (s : State) (v : Nat) : (s.irq v).ptpSource = s.ptpSource := rfl
@[simp] theorem State.irq_ptpPort (s : State) (v : Nat) : (s.irq v).ptpPort = s.ptpPort := rfl
@[simp] theorem State.irq_ptpLocked (s : State) (v : Nat) : (s.irq v).ptpLocked = s.ptpLocked := rfl
@[simp] theorem State.irq_ppsSeen (s : State) (v : Nat) : (s.irq v).ppsSeen = s.ppsSeen := rfl
@[simp] theorem State.irq_ptpRate (s : State) (v : Nat) : (s.irq v).ptpRate = s.ptpRate := rfl
@[simp] theorem State.irq_forigin (s : State) (v : Nat) : (s.irq v).forigin = s.forigin := rfl
@[simp] theorem State.irq_foriginNew (s : State) (v : Nat) : (s.irq v).foriginNew = s.foriginNew := rfl
@[simp] theorem State.irq_loadAddr (s : State) (v : Nat) : (s.irq v).loadAddr = s.loadAddr := rfl
@[simp] theorem State.irq_loadStatus (s : State) (v : Nat) : (s.irq v).loadStatus = s.loadStatus := rfl
@[simp] theorem State.irq_images (s : State) (v : Nat) : (s.irq v).images = s.images := rfl
@[simp] theorem State.irq_surfBase (s : State) (v : Nat) : (s.irq v).surfBase = s.surfBase := rfl
@[simp] theorem State.irq_astBase (s : State) (v : Nat) : (s.irq v).astBase = s.astBase := rfl
@[simp] theorem State.irq_tlbInv (s : State) (v : Nat) : (s.irq v).tlbInv = s.tlbInv := rfl
@[simp] theorem State.irq_tlbSince (s : State) (v : Nat) : (s.irq v).tlbSince = s.tlbSince := rfl
@[simp] theorem State.irq_hostOut (s : State) (v : Nat) : (s.irq v).hostOut = s.hostOut := rfl
@[simp] theorem State.irq_hostAsks (s : State) (v : Nat) : (s.irq v).hostAsks = s.hostAsks := rfl
@[simp] theorem State.irq_transcript (s : State) (v : Nat) : (s.irq v).transcript = s.transcript := rfl
@[simp] theorem State.irq_hostWrites (s : State) (v : Nat) : (s.irq v).hostWrites = s.hostWrites := rfl
@[simp] theorem State.irq_bar0 (s : State) (v : Nat) : (s.irq v).bar0 = s.bar0 := rfl
@[simp] theorem State.irq_bar2 (s : State) (v : Nat) : (s.irq v).bar2 = s.bar2 := rfl
@[simp] theorem State.irq_bar4 (s : State) (v : Nat) : (s.irq v).bar4 = s.bar4 := rfl
@[simp] theorem State.irq_bar4Bits (s : State) (v : Nat) : (s.irq v).bar4Bits = s.bar4Bits := rfl
@[simp] theorem State.irq_entries (s : State) (v : Nat) : (s.irq v).entries = s.entries := rfl
@[simp] theorem State.irq_slotBytes (s : State) (v : Nat) : (s.irq v).slotBytes = s.slotBytes := rfl
@[simp] theorem State.irq_lstatRejected (s : State) (v : Nat) : (s.irq v).lstatRejected = s.lstatRejected := rfl
@[simp] theorem State.irq_lstatSlot (s : State) (v : Nat) : (s.irq v).lstatSlot = s.lstatSlot := rfl
@[simp] theorem State.irq_lstatReason (s : State) (v : Nat) : (s.irq v).lstatReason = s.lstatReason := rfl
@[simp] theorem State.irq_stray (s : State) (v : Nat) : (s.irq v).stray = s.stray := rfl
@[simp] theorem State.irq_unmatched (s : State) (v : Nat) : (s.irq v).unmatched = s.unmatched := rfl
@[simp] theorem State.irq_arrivalTable (s : State) (v : Nat) : (s.irq v).arrivalTable = s.arrivalTable := rfl
@[simp] theorem State.irq_tagged (s : State) (v : Nat) : (s.irq v).tagged = s.tagged := rfl
@[simp] theorem State.irq_frame (s : State) (v : Nat) : (s.irq v).frame = s.frame := rfl
@[simp] theorem State.irq_held (s : State) (v : Nat) : (s.irq v).held = s.held := rfl
@[simp] theorem State.irq_owait (s : State) (v : Nat) : (s.irq v).owait = s.owait := rfl
@[simp] theorem State.irq_framesOn (s : State) (v : Nat) : (s.irq v).framesOn = s.framesOn := rfl
@[simp] theorem State.irq_slipNs (s : State) (v : Nat) : (s.irq v).slipNs = s.slipNs := rfl
@[simp] theorem State.irq_dueAt (s : State) (v : Nat) : (s.irq v).dueAt = s.dueAt := rfl
@[simp] theorem State.irq_holdFreed (s : State) (v : Nat) : (s.irq v).holdFreed = s.holdFreed := rfl
@[simp] theorem State.irq_holders (s : State) (v : Nat) : (s.irq v).holders = s.holders := rfl
@[simp] theorem State.irq_tfailSlot (s : State) (v : Nat) : (s.irq v).tfailSlot = s.tfailSlot := rfl
@[simp] theorem State.irq_tfailQuad (s : State) (v : Nat) : (s.irq v).tfailQuad = s.tfailQuad := rfl
@[simp] theorem State.irq_tfailCause (s : State) (v : Nat) : (s.irq v).tfailCause = s.tfailCause := rfl
@[simp] theorem State.irq_tfailCount (s : State) (v : Nat) : (s.irq v).tfailCount = s.tfailCount := rfl
@[simp] theorem State.irq_slHead (s : State) (v : Nat) : (s.irq v).slHead = s.slHead := rfl
@[simp] theorem State.irq_slTail (s : State) (v : Nat) : (s.irq v).slTail = s.slTail := rfl
@[simp] theorem State.irq_slDropped (s : State) (v : Nat) : (s.irq v).slDropped = s.slDropped := rfl
@[simp] theorem State.irq_slipLog (s : State) (v : Nat) : (s.irq v).slipLog = s.slipLog := rfl
@[simp] theorem State.irq_decs (s : State) (v : Nat) : (s.irq v).decs = s.decs := rfl
@[simp] theorem State.irq_spawns (s : State) (v : Nat) : (s.irq v).spawns = s.spawns := rfl
@[simp] theorem State.irq_preempts (s : State) (v : Nat) : (s.irq v).preempts = s.preempts := rfl
@[simp] theorem State.irq_cores (s : State) (v : Nat) : (s.irq v).cores = s.cores := rfl
@[simp] theorem State.irq_cells (s : State) (v : Nat) : (s.irq v).cells = s.cells := rfl
@[simp] theorem State.irq_dies (s : State) (v : Nat) : (s.irq v).dies = s.dies := rfl
@[simp] theorem State.irq_hbm (s : State) (v : Nat) : (s.irq v).hbm = s.hbm := rfl
@[simp] theorem State.irq_mem (s : State) (v : Nat) : (s.irq v).mem = s.mem := rfl
@[simp] theorem State.irq_keyTag (s : State) (v : Nat) : (s.irq v).keyTag = s.keyTag := rfl
@[simp] theorem State.irq_poison (s : State) (v : Nat) : (s.irq v).poison = s.poison := rfl
@[simp] theorem State.irq_farBad (s : State) (v : Nat) : (s.irq v).farBad = s.farBad := rfl
@[simp] theorem State.irq_replies (s : State) (v : Nat) : (s.irq v).replies = s.replies := rfl
@[simp] theorem State.irq_msgs (s : State) (v : Nat) : (s.irq v).msgs = s.msgs := rfl
@[simp] theorem State.irq_combine (s : State) (v : Nat) : (s.irq v).combine = s.combine := rfl
@[simp] theorem State.irq_arrivals (s : State) (v : Nat) : (s.irq v).arrivals = s.arrivals := rfl
@[simp] theorem State.irq_laneMsgs (s : State) (v : Nat) : (s.irq v).laneMsgs = s.laneMsgs := rfl
@[simp] theorem State.irq_tables (s : State) (v : Nat) : (s.irq v).tables = s.tables := rfl
@[simp] theorem State.irq_sftabs (s : State) (v : Nat) : (s.irq v).sftabs = s.sftabs := rfl
@[simp] theorem State.irq_monitor (s : State) (v : Nat) : (s.irq v).monitor = s.monitor := rfl
@[simp] theorem State.irq_cur (s : State) (v : Nat) : (s.irq v).cur = s.cur := rfl
@[simp] theorem State.irq_arg (s : State) (v : Nat) : (s.irq v).arg = s.arg := rfl
@[simp] theorem State.irq_inputs (s : State) (v : Nat) : (s.irq v).inputs = s.inputs := rfl
@[simp] theorem State.irq_later (s : State) (v : Nat) : (s.irq v).later = s.later := rfl
@[simp] theorem State.irq_choices (s : State) (v : Nat) : (s.irq v).choices = s.choices := rfl
@[simp] theorem State.irq_fresh (s : State) (v : Nat) : (s.irq v).fresh = s.fresh := rfl

end Sys2Proof.Machine
end

