-- ==== Sys2Proof/Laws/Memory.lean ====
section
/-! SUPPORT. Global memory: every operation keeps its canonical form, a read after a write gives what was written, and a write
leaves the bytes of other addresses alone. -/

namespace Sys2Proof.Machine

/-! ### Canonical form -/

theorem putBytes_wf {d : Byte} {m : Sparse Byte} (h : swf d m = true) (a : Nat) (bs : List Byte) :
    swf d (putBytes d m a bs) = true := by
  induction bs generalizing m a with
  | nil => exact h
  | cons b bs ih => exact ih (swf_sset h a b) (a + 1)

/-- Taking new keys keeps the canonical form. -/
theorem rekey_wf {s : State} (h : Memory.wf s.mem = true) (g : Nat) (k : BitVec 512) (w : Nat) :
    Memory.wf (rekey s g k w).mem = true := by
  unfold rekey
  split
  · exact h
  · dsimp only
    split
    · exact h
    · exact putBytes_wf h _ _

/-- One byte written keeps the canonical form. -/
theorem putByte_wf {s : State} (h : Memory.wf s.mem = true) (k : BitVec 512) (w a : Nat) (b : Byte) :
    Memory.wf (putByte s k w a b).mem = true := swf_sset (rekey_wf h _ _ _) _ _

/-- A write keeps the canonical form. -/
theorem putRun_wf {s : State} (h : Memory.wf s.mem = true) (k : BitVec 512) (home pa : Nat) (bs : List (Option Byte)) :
    Memory.wf (putRun s k home pa bs).mem = true := by
  induction bs generalizing s pa with
  | nil => exact h
  | cons b bs ih =>
    cases b with
    | none => exact ih h _
    | some b => exact ih (putByte_wf h _ _ _ _) _

/-- A fold of operations that keep the bytes of memory keeps them. -/
theorem foldl_mem {β : Type} (f : State → β → State) (hf : ∀ t b, (f t b).mem = t.mem) (l : List β) (s : State) :
    (l.foldl f s).mem = s.mem := by
  induction l generalizing s with
  | nil => rfl
  | cons b l ih => exact (ih _).trans (hf s b)

/-- The marks of poison change no byte. -/
theorem poisonRun_mem (s : State) (home pa : Nat) (bs : List (Option Byte)) (pois : Bool) :
    (poisonRun s home pa bs pois).mem = s.mem := by
  unfold poisonRun
  refine foldl_mem _ (fun t i => ?_) _ _
  dsimp only
  split
  · rfl
  · split <;> rfl

/-- A write performed at home keeps the canonical form, whatever it answers. -/
theorem physWrite_wf {s : State} (h : Memory.wf s.mem = true) (key home pa : Nat) (bs : List (Option Byte)) (pois : Bool)
    (clock : List Nat) : Memory.wf (physWrite s key home pa bs pois clock).2.mem = true := by
  unfold physWrite
  split
  · exact h
  · dsimp only
    split
    · exact h
    · show Memory.wf (applyCount _ _ _).mem = true
      rw [show ∀ (u : State) h c, (applyCount u h c).mem = u.mem from fun _ _ _ => rfl]
      rw [poisonRun_mem]
      exact putRun_wf h _ _ _ _

/-- A granule holds its bytes under keys it was last written with: putting it under the same keys and tweak is nothing. -/
theorem rekey_same {s : State} {g w : Nat} {k : BitVec 512} (h : sget none s.keyTag g = some (k, w)) : rekey s g k w = s := by
  simp [rekey, h]

/-! ### Read after write -/

theorem sget_putBytes_of_lt {d : Byte} (m : Sparse Byte) {a x : Nat} (h : x < a) (bs : List Byte) :
    sget d (putBytes d m a bs) x = sget d m x := by
  induction bs generalizing m a with
  | nil => rfl
  | cons b bs ih =>
    rw [putBytes, ih _ (by omega), sget_sset_of_ne (by omega)]

theorem sget_putBytes_of_ge {d : Byte} (m : Sparse Byte) {a x : Nat} (bs : List Byte) (h : a + bs.length ≤ x) :
    sget d (putBytes d m a bs) x = sget d m x := by
  induction bs generalizing m a with
  | nil => rfl
  | cons b bs ih =>
    simp only [List.length_cons] at h
    rw [putBytes, ih _ (by omega), sget_sset_of_ne (by omega)]

/-- The byte just written reads as written. -/
@[simp] theorem rawByte_putByte_self (s : State) (k : BitVec 512) (w a : Nat) (b : Byte) : (putByte s k w a b).rawByte a = b := by
  simp [putByte, State.rawByte]

theorem rawByte_rekey_of_ne {s : State} {g a : Nat} (h : a / 64 ≠ g) (k : BitVec 512) (w : Nat) :
    (rekey s g k w).rawByte a = s.rawByte a := by
  unfold rekey
  split
  · rfl
  · dsimp only
    split
    · rfl
    · rcases Nat.lt_or_ge a (64 * g) with hl | hg
      · exact sget_putBytes_of_lt _ hl _
      · exact sget_putBytes_of_ge _ _ (by simp only [List.length_map, List.length_range]; omega)

/-- A byte of another granule is left alone. -/
theorem rawByte_putByte_of_granule {s : State} {x a : Nat} (h : x / 64 ≠ a / 64) (k : BitVec 512) (w : Nat) (b : Byte) :
    (putByte s k w a b).rawByte x = s.rawByte x := by
  have hx : x ≠ a := fun e => h (e ▸ rfl)
  simp only [putByte, State.rawByte, sget_sset_of_ne hx]
  exact rawByte_rekey_of_ne h k w

/-- Under the keys and the tweak the granule already has, every other byte is left alone. -/
theorem rawByte_putByte_of_ne {s : State} {x a w : Nat} {k : BitVec 512} (hk : sget none s.keyTag (a / 64) = some (k, w)) (h : x ≠ a)
    (b : Byte) : (putByte s k w a b).rawByte x = s.rawByte x := by
  simp [putByte, State.rawByte, sget_sset_of_ne h, rekey_same hk]

/-- The granule of a byte written has the keys and the tweak of the write. -/
@[simp] theorem keyTag_putByte (s : State) (k : BitVec 512) (w a : Nat) (b : Byte) :
    sget none (putByte s k w a b).keyTag (a / 64) = some (k, w) := by
  simp only [putByte, rekey]
  split
  · assumption
  · simp

/-- Reset memory has the canonical form. -/
theorem reset_wf : Memory.wf State.reset.mem = true := rfl

end Sys2Proof.Machine
end

