-- ==== Sys2Proof/Laws/Slots.lean ====
section
/-! SUPPORT. The shared operations of slots: what they answer when their checks pass, and that they leave global memory alone. -/

namespace Sys2Proof.Machine

open Sys2Proof.Safety

/-! ### The course of a slot -/

/-- A slot whose encoding is legal and whose shared checks pass runs its body, or is quashed. -/
theorem issueSlot_admitted {s : State} {i : Instr} {live : Bool} (h : admitted s i live = true) (body : State → State) :
    issueSlot s i false live body = if live then body s else nextSlot s s.cur := by
  simp only [admitted, Bool.and_eq_true, Bool.not_eq_true', Option.isNone_iff_eq_none] at h
  simp only [issueSlot, h.1]
  rw [if_neg (by simp), if_neg (by simpa using h.2)]

/-- A slot that runs. -/
theorem issueSlot_runs {s : State} {i : Instr} (h : Runs s i) (body : State → State) :
    issueSlot s i false (liveGuard s i) body = body s := by
  rw [h.2, issueSlot_admitted h.1, if_pos rfl]

/-- A slot whose encoding is illegal traps first (R273, R303). -/
theorem issueSlot_ill (s : State) (i : Instr) (live : Bool) (body : State → State) :
    issueSlot s i true live body = illTrap s s.cur := by simp [issueSlot]

/-- A slot before the last one: the next slot follows, and nothing else changes. -/
theorem nextSlot_of_lt {s : State} {q : Nat} (h : (s.core q).slot < 4) :
    nextSlot s q = s.setCore q { s.core q with slot := (s.core q).slot + 1 } := by
  simp [nextSlot, h]

theorem writeX_zero (s : State) (q lat : Nat) (v : Word) : writeX s q lat 0 v = s := by simp [writeX]

theorem writeX_of_ne {n : Nat} (h : n ≠ 0) (s : State) (q lat : Nat) (v : Word) :
    writeX s q lat n v = writeLater s q lat (.x n) (wide v) := by simp [writeX, h]

/-! ### Global memory -/

/-- Global memory is the same data: bytes, keys and poison. -/
def SameData (s t : State) : Prop := t.mem = s.mem ∧ t.keyTag = s.keyTag ∧ t.poison = s.poison

theorem SameData.refl (s : State) : SameData s s := ⟨rfl, rfl, rfl⟩

theorem SameData.trans {s t u : State} (h : SameData s t) (k : SameData t u) : SameData s u :=
  ⟨k.1.trans h.1, k.2.1.trans h.2.1, k.2.2.trans h.2.2⟩

theorem SameData.same {s t : State} (h : SameData s t) : SameMemory s t :=
  ⟨fun a => by simp [State.rawByte, h.1], fun g => by rw [h.2.1], fun g => by rw [h.2.2]⟩

theorem SameData.setCore (s : State) (q : Nat) (c : CoreSt) : SameData s (s.setCore q c) := ⟨rfl, rfl, rfl⟩
theorem SameData.setCell (s : State) (q j : Nat) (c : CellSt) : SameData s (s.setCell q j c) := ⟨rfl, rfl, rfl⟩

/-- A fold of operations that keep global memory keeps it. -/
theorem SameData.foldl {β : Type} (f : State → β → State) (hf : ∀ t b, SameData t (f t b)) (l : List β) (s : State) :
    SameData s (l.foldl f s) := by
  induction l generalizing s with
  | nil => exact .refl s
  | cons b l ih => exact (hf s b).trans (ih _)

theorem countQuad_data (s : State) (q src n : Nat) : SameData s (countQuad s q src n) := by
  refine .foldl _ (fun t k => ?_) _ _
  unfold countQuadOne noteWrap
  dsimp only
  split
  · exact .refl _
  · split <;> exact ⟨rfl, rfl, rfl⟩

theorem nextSlot_data (s : State) (q : Nat) : SameData s (nextSlot s q) := by
  unfold nextSlot
  dsimp only
  split
  · exact .setCore _ _ _
  · exact .setCore _ _ _

theorem writeX_data (s : State) (q lat n : Nat) (v : Word) : SameData s (writeX s q lat n v) := by
  unfold writeX; split <;> exact ⟨rfl, rfl, rfl⟩

theorem writeP_data (s : State) (q lat n : Nat) (v m : Pred) : SameData s (writeP s q lat n v m) := by
  unfold writeP; split <;> exact ⟨rfl, rfl, rfl⟩

theorem noteWrite_data (s : State) (q : Nat) (i : Instr) : SameData s (noteWrite s q i) := by
  unfold noteWrite; split <;> exact ⟨rfl, rfl, rfl⟩

theorem advanceDraw_data (s : State) (q : Nat) (i : Instr) : SameData s (advanceDraw s q i) := by
  unfold advanceDraw; dsimp only; split <;> exact ⟨rfl, rfl, rfl⟩

theorem failTask_data (s : State) (q c : Nat) : SameData s (failTask s q c) := by
  unfold failTask; dsimp only; split <;> exact ⟨rfl, rfl, rfl⟩

theorem modCore_data (s : State) (q : Nat) (f : CoreSt → CoreSt) : SameData s (s.modCore q f) := ⟨rfl, rfl, rfl⟩
theorem modArch_data (s : State) (q : Nat) (f : Arch → Arch) : SameData s (s.modArch q f) := ⟨rfl, rfl, rfl⟩
theorem modDie_data (s : State) (d : Nat) (f : DieSt → DieSt) : SameData s (s.modDie d f) := ⟨rfl, rfl, rfl⟩
theorem modCell_data (s : State) (q j : Nat) (f : CellSt → CellSt) : SameData s (s.modCell q j f) := ⟨rfl, rfl, rfl⟩

theorem freshData (s : State) (n : Nat) : SameData s { s with fresh := n } := ⟨rfl, rfl, rfl⟩

theorem SameData.ite {c : Prop} [Decidable c] {s a b : State} (ha : SameData s a) (hb : SameData s b) :
    SameData s (if c then a else b) := by
  split
  · exact ha
  · exact hb

theorem sysWrite_data (s : State) (q n : Nat) (w : Word) : SameData s (sysWrite s q n w) := by
  unfold sysWrite
  dsimp only
  repeat' first
    | with_reducible apply SameData.ite
    | with_reducible exact modArch_data _ _ _
    | with_reducible exact modCore_data _ _ _
    | with_reducible exact SameData.refl _
    | with_reducible refine SameData.trans ?_ (modCell_data _ _ _ _)

/-- A result lies in registers and tables of units, never in global memory. -/
theorem putResult_data (s : State) (q : Nat) (w : PendWrite) : SameData s (putResult s q w) := by
  unfold putResult
  split <;> first | exact sysWrite_data _ _ _ _ | exact ⟨rfl, rfl, rfl⟩

theorem putBack_data (s : State) (q : Nat) (w : PendWrite) : SameData s (putBack s q w) := by
  unfold putBack
  split
  · split <;> exact ⟨rfl, rfl, rfl⟩
  · split
    · exact ⟨rfl, rfl, rfl⟩
    · exact putResult_data _ _ _

theorem cancelFrom_data (s : State) (q b : Nat) : SameData s (cancelFrom s q b) := by
  unfold cancelFrom
  exact ((SameData.foldl _ (fun t w => putBack_data t q w) _ s).trans (modCore_data _ _ _)).trans
    (.foldl _ (fun _ _ => modCell_data _ _ _ _) _ _)

theorem takeTrap_data (s : State) (q : Nat) (t : Trap) : SameData s (takeTrap s q t) := by
  have h0 : SameData s (if t.cause = 9 then countQuad s q 0x103 1 else s) := by
    split
    · exact countQuad_data _ _ _ _
    · exact .refl _
  have h1 := h0.trans (.foldl (fun u j => u.modCell q j CellSt.unpin) (fun _ _ => modCell_data _ _ _ _) [0, 1, 2, 3] _)
  unfold takeTrap
  dsimp only
  split
  · exact h1.trans (modCore_data _ _ _)
  · exact (h1.trans (modCore_data _ _ _)).trans (failTask_data _ _ _)

theorem raiseTrap_data (s : State) (q : Nat) (t : Trap) : SameData s (raiseTrap s q t) := by
  exact ((cancelFrom_data _ _ _).trans (modCore_data _ _ _)).trans (SameData.ite (modCore_data _ _ _) (takeTrap_data _ _ _))

theorem slotTrap_data (s : State) (q c : Nat) (v : Word) : SameData s (slotTrap s q c v) := raiseTrap_data _ _ _

theorem illTrap_data (s : State) (q : Nat) : SameData s (illTrap s q) := slotTrap_data _ _ _ _

theorem spanFault_data (s : State) (q n j : Nat) : SameData s (spanFault s q n j) := slotTrap_data _ _ _ _

/-- A slot keeps global memory when its body does. -/
theorem issueSlot_data {s : State} {i : Instr} {ill live : Bool} {body : State → State} (h : SameData s (body s)) :
    SameData s (issueSlot s i ill live body) := by
  unfold issueSlot
  refine SameData.ite (illTrap_data _ _) ?_
  split
  · exact spanFault_data _ _ _ _
  · exact SameData.ite (slotTrap_data _ _ _ _) (SameData.ite h (nextSlot_data _ _))

/-! ### Translation and the queue of global operations -/

theorem fillL1_data (s : State) (who : Agent) (e : Nat × Nat × Nat × Word) : SameData s (fillL1 s who e) := by
  unfold fillL1; split <;> exact ⟨rfl, rfl, rfl⟩

theorem NoDirtyLine.of_dies {s t : State} {d : Nat} (h : NoDirtyLine s d) (e : t.dies = s.dies) : NoDirtyLine t d := by
  simpa [NoDirtyLine, State.die, e] using h

theorem cancelFills_data (s : State) (d n : Nat) : SameData s (cancelFills s d n) ∧ (cancelFills s d n).dies = s.dies := by
  unfold cancelFills; split <;> exact ⟨⟨rfl, rfl, rfl⟩, rfl⟩

theorem rdcFind_mem {r : Sparse RdcLine} {n : Nat} {l : RdcLine} (h : rdcFind r n = some l) : ∃ k, (k, l) ∈ r := by
  unfold rdcFind at h
  split at h
  · rename_i p hp; cases h; exact ⟨p.1, List.mem_of_find?_eq_some hp⟩
  · cases h

/-- A line without written bytes is dropped and nothing is written back. -/
theorem flushLine_clean {s : State} {d : Nat} (h : NoDirtyLine s d) (n : Nat) :
    SameData s (flushLine s d n) ∧ NoDirtyLine (flushLine s d n) d := by
  unfold flushLine
  split
  · rename_i l hl
    obtain ⟨k, hk⟩ := rdcFind_mem hl
    have hd : l.dirty = 0 := h _ hk
    have hc := cancelFills_data s d (l.place.pa / 128)
    have hw : writeBackLine s d l = cancelFills s d (l.place.pa / 128) := by simp [writeBackLine, hd]
    rw [hw]
    have hn := cancelFills_data (cancelFills s d (l.place.pa / 128)) d n
    refine ⟨(hc.1.trans hn.1).trans ⟨rfl, rfl, rfl⟩, fun x hx => ?_⟩
    rw [dropLine, State.die_modDie, State.die, hn.2, hc.2] at hx
    exact h x (mem_of_mem_serase hx)
  · exact ⟨.refl _, h⟩

theorem flushTables_clean {s : State} {d : Nat} (h : NoDirtyLine s d) (key va fuel level table : Nat) :
    SameData s (flushTables s d key va fuel level table) ∧ NoDirtyLine (flushTables s d key va fuel level table) d := by
  induction fuel generalizing s level table with
  | zero => exact ⟨.refl _, h⟩
  | succ fuel ih =>
    unfold flushTables
    dsimp only
    have hf := flushLine_clean h ((table + 8 * (va / 2 ^ (39 - 9 * level) % 512)) / 128)
    split
    · exact hf
    · exact ⟨hf.1.trans (ih hf.2 _ _).1, (ih hf.2 _ _).2⟩

theorem flushWalk_clean {s : State} {d : Nat} (h : NoDirtyLine s d) (asid va : Nat) :
    SameData s (flushWalk s d asid va) ∧ NoDirtyLine (flushWalk s d asid va) d := by
  unfold flushWalk
  dsimp only
  have hf := flushLine_clean h ((nfield s.astBase 15 37 * 32768 + 8 * asid) / 128)
  split
  · exact hf
  · have ht := flushTables_clean hf.2
    exact ⟨hf.1.trans (ht _ _ _ _ _).1, (ht _ _ _ _ _).2⟩

theorem fillL1_clean {s : State} {d : Nat} (h : NoDirtyLine s d) (who : Agent) (e : Nat × Nat × Nat × Word) :
    NoDirtyLine (fillL1 s who e) d := NoDirtyLine.of_dies h (by unfold fillL1; split <;> rfl)

/-- A translation found, or the right it lacks: the state is as it was. -/
theorem use_clean {s t : State} {d : Nat} (ht : SameData s t ∧ NoDirtyLine t d) (c : Prop) [Decidable c] (p : Place)
    (k : Nat × Nat) : SameData s (if c then (t, Except.ok p) else (t, .error k) : State × Except (Nat × Nat) Place).1 ∧
      NoDirtyLine (if c then (t, Except.ok p) else (t, .error k) : State × Except (Nat × Nat) Place).1 d := by
  split <;> exact ht

/-- Translation fills TLBs; where the walk finds no written line of its tables in a cache it changes no byte. -/
theorem translate_clean {s : State} {who : Agent} (h : NoDirtyLine s who.tlbDie) (asid va need : Nat) :
    SameData s (translate s who asid va need).1 ∧ NoDirtyLine (translate s who asid va need).1 who.tlbDie := by
  have hw := flushWalk_clean h asid va
  unfold translate
  dsimp only
  split
  · exact use_clean ⟨.refl _, h⟩ _ _ _
  · split
    · exact use_clean ⟨fillL1_data _ _ _, fillL1_clean h _ _⟩ _ _ _
    · split
      · exact hw
      · split
        · exact hw
        · refine use_clean ⟨(hw.1.trans (modDie_data _ _ _)).trans (fillL1_data _ _ _), fillL1_clean (fun x hx => ?_) _ _⟩ _ _ _
          rw [State.die_modDie] at hx
          exact hw.2 x hx

theorem withPlace_data {s : State} {q va need : Nat} {k : State → Place → State} (hs : NoDirtyLine s (quadDie q))
    (h : ∀ t p, SameData t (k t p)) : SameData s (withPlace s q va need k) := by
  have ht := (translate_clean (who := .core q) hs (s.core q).asid va need).1
  unfold withPlace
  split
  · rename_i t e he; rw [he] at ht; exact ht.trans (slotTrap_data _ _ _ _)
  · rename_i t p he; rw [he] at ht; exact ht.trans (h _ _)

theorem pushOp_data (s : State) (q : Nat) (m : MemOp) : SameData s (pushOp s q m) :=
  SameData.trans ⟨rfl, rfl, rfl⟩ (nextSlot_data _ _)

/-! ### Commands of cells -/

theorem reserve_data {s t : State} {q j n : Nat} {b : Option Nat} (h : reserve s q j n b = .ok t) : SameData s t := by
  unfold reserve at h
  dsimp only at h
  split at h
  · cases h; exact .refl _
  · split at h
    · cases h
    · split at h
      · cases h
      · split at h
        · cases h
        · cases h; exact (modCore_data _ _ _).trans (modCell_data _ _ _ _)

theorem placeIn_data {s t : State} {q j : Nat} {r : CellReq} (h : placeIn s q j r = .ok t) : SameData s t := by
  unfold placeIn at h
  dsimp only at h
  split at h
  · split at h
    · split at h
      · cases h
      · split at h
        · cases h
        · rename_i hr
          cases h
          refine (reserve_data hr).trans (SameData.trans ?_ ((modCell_data _ _ _ _).trans (modCore_data _ _ _)))
          exact SameData.ite (freshData _ _) (.refl _)
    · cases h; exact (modCell_data _ _ _ _).trans (modArch_data _ _ _)
  · split at h
    · cases h; exact (modCell_data _ _ _ _).trans (modArch_data _ _ _)
    · split at h
      · cases h
      · split at h
        · cases h
        · rename_i hr
          cases h
          exact (reserve_data hr).trans ((modCell_data _ _ _ _).trans (modArch_data _ _ _))

theorem placeAll_data (s : State) (q : Nat) (r : CellReq) (js : List Nat) : SameData s (placeAll s q r js).1 := by
  induction js generalizing s with
  | nil => exact .refl _
  | cons j js ih =>
    unfold placeAll
    split
    · exact .refl _
    · rename_i h; exact (placeIn_data h).trans (ih _)

theorem granuleTrap_data (s : State) (q j x k st : Nat) : SameData s (granuleTrap s q j x k st) := by
  unfold granuleTrap; dsimp only; split <;> exact slotTrap_data _ _ _ _

theorem placeCmd_data (s : State) (r : CellReq) : SameData s (placeCmd s r) := by
  have hp := placeAll_data s s.cur r (cellsOf r.cm)
  unfold placeCmd
  dsimp only
  repeat' split
  all_goals first
    | exact slotTrap_data _ _ _ _
    | exact granuleTrap_data _ _ _ _ _ _
    | exact .refl _
    | exact spanFault_data _ _ _ _
    | (rename_i h; rw [h] at hp; exact hp.trans (nextSlot_data _ _))

end Sys2Proof.Machine
end

