-- ==== Sys2Proof/Tests/Slice0.lean ====
section
/-! SUPPORT. The model's own tests: ill-formed terms that the checks refuse, words written out from the encodings, single steps on
small states, and witnesses that the hypotheses of the statements can be met. -/

namespace Sys2Proof.Tests

open Sys2Proof Sys2Proof.Machine Sys2Proof.Safety

set_option Elab.async false

/-! ### Well-formedness: an ill-formed term for each check -/

def anySR : SR := { fn := 0, ng := 0, pg := 0, b := 0, a := 0, d := 0 }
def anySI : SI := { ng := 0, pg := 0, imm := 0, a := 0, d := 0 }
def anySL : SL := { imm := 0, d := 0 }
def anyVR : VR := { ty := 0, ng := 0, pg := 0, b := 0, a := 0, d := 0, cm := 0 }
def anyTG : TG := { ng := 0, pg := 0, xs := 0, td := 0, tb := 0, ta := 0, ss := 0, se := 0, sw := 0, we := 0, cm := 0 }
def anyER : ER := { rsv := 0, ng := 0, pg := 0, fn := 0, xc := 0, xb := 0, xa := 0, cm := 0 }
def anyEV : EV := { rsv := 0, xa := 0, fn := 0, a := 0, d := 0, cm := 0 }
def anyEI : EI := { imm := 0, xa := 0, cm := 0 }

/-- An instruction in a slot whose map does not hold it (R304 to R307). -/
theorem test_wf_refuses_wrong_slot :
    wfSlot .v (.add anySR) = false ∧ wfSlot .a (.ldb anySI) = false ∧ wfSlot .b (.br anySI) = false ∧ wfSlot .t (.vmin anyVR) = false ∧
    wfSlot .v (.tld anyTG) = false ∧ wfSlot .a (.coll anyER) = false ∧ wfSlot .a .coldReset = false ∧ wfSlot .b (.fenceAcq anySR) = true := by
  decide +kernel

/-- Fields that select among the constructors of one opcode: rm 6 (R305), FENCE kinds (R359), XFER's row bit, PSEND's lane bit (R428) and
PBIND's off bit. -/
theorem test_wf_refuses_wrong_field :
    (∀ mk ∈ ([.vadd, .vsub, .vmul, .vfma, .vfnma, .vscale, .vrcp, .vrsq, .vexp2, .vlog2, .vcvt, .vcvtfx, .vscan, .vsegsum,
      .vred] : List (BitVec 3 → VR → Instr)), wfSlot .v (mk 6 anyVR) = false ∧ wfSlot .v (mk 5 anyVR) = true) ∧
    (∀ mk ∈ ([.fenceRel, .fenceFull, .fenceRed, .fenceEng] : List (SR → Instr)), wfSlot .b (mk anySR) = false) ∧
    wfSlot .b (.fenceAcq { anySR with fn := 1 }) = false ∧
    wfSlot .e (.xfer { anyER with fn := 1 }) = false ∧ wfSlot .e (.xferRow anyER) = false ∧
    wfSlot .e (.psend { anyEV with fn := 8 }) = false ∧ wfSlot .e (.psendG anyEV) = false ∧
    wfSlot .e (.pbind { anyER with fn := 128 }) = false ∧ wfSlot .e (.pbindOff anyER) = false := by decide +kernel

/-- Bits that are an assigned opcode, or do not fit the slot, are no unassigned opcode (R303, R286). -/
theorem test_wf_refuses_assigned_bits :
    unassignedBits .a 0x01 = false ∧ unassignedBits .a 0x1_0000_0000_40 = false ∧ unassignedBits .b 0x0400000063 = false ∧
    unassignedBits .b 0x0500000063 = true ∧ unassignedBits .a 0x40 = true ∧ unassignedBits .v 0x16 = true ∧ unassignedBits .t 0x0F = true ∧
    unassignedBits .e 0x18 = true := by decide +kernel

/-- The first operand of an event names a unit that exists: the least number that does not. -/
theorem test_wf_refuses_missing_outside :
    ∀ x ∈ ([
      (.imagePushWrite, 16777216), (.droopDetect, 10), (.thermalWarning, 10), (.thermalTrip, 10), (.requestTimeout, 266),
      (.flitReceive, 24), (.nakReceive, 24), (.portRetrain, 24), (.timeFlitReceive, 24), (.exploreProbe, 10), (.exploreReport, 10),
      (.keySlotLoad, 128), (.keySlotClear, 128), (.registerWrite, 67633152), (.counterWrap, 266), (.dieLogTailWrite, 10),
      (.stackLogTailWrite, 16), (.hostBar4Read, 1099511627776), (.hostBar4Write, 1099511627776), (.launchSlotWrite, 4096),
      (.entryCommit, 4096), (.hostDepDecrement, 4096),
      (.arrivalEntryWrite, 1024), (.replayRelease, 10), (.replayDiscard, 10), (.entryRelease, 4096), (.taskStart, 4096),
      (.poolNextRun, 4096), (.runComplete, 4096), (.entryComplete, 4096), (.entryFail, 4096), (.preemptRequest, 4096)] : List (Instr × Nat)),
      wfEvent { EvArg.none with a := x.2 } x.1 = false ∧ wfEvent { EvArg.none with a := x.2 - 1 } x.1 = true := by decide +kernel

/-- The same of the events that follow. -/
theorem test_wf_refuses_missing_package :
    ∀ x ∈ ([
      (.contextSave, 4096), (.preemptResume, 4096), (.commandStart, 256), (.timedArrival, 256), (.portRowRead, 256),
      (.portEntryWrite, 256), (.loadReply, 256), (.waitaReturn, 256), (.trapEntry, 256), (.deferredTrap, 256), (.residualHold, 256),
      (.residualHoldEnd, 256), (.spillBatch, 256), (.spillComplete, 256), (.runAheadRead, 256), (.demandReadReturn, 256),
      (.bteChunk, 10), (.bteCommandComplete, 10), (.ceRecordAccept, 10), (.ceTransferEmit, 10), (.ceTransferReceive, 10),
      (.ceAcknowledge, 10), (.codedPacketDecode, 10), (.fallbackRequest, 10), (.pairRowDeliver, 256), (.pairCreditReturn, 256),
      (.ovlComplete, 256), (.pfrComplete, 10), (.rdcLineExpiry, 10), (.stackRd, 16), (.stackWr, 16), (.stackWrm, 16),
      (.stackAtom, 16), (.stackRed, 16)] : List (Instr × Nat)),
      wfEvent { EvArg.none with a := x.2 } x.1 = false ∧ wfEvent { EvArg.none with a := x.2 - 1 } x.1 = true := by decide +kernel

/-- The same of the events that follow. -/
theorem test_wf_refuses_missing_unit :
    ∀ x ∈ ([
      (.stackReduce, 16), (.stackSrch, 16), (.stackZfill, 16), (.ingressGrant, 16), (.ingressAging, 16), (.granuleReadResolve, 16),
      (.writeDrain, 16), (.starvationTimeout, 16), (.redBatchAck, 16), (.redAckTimeout, 16), (.reduceChunk, 16), (.eccError, 16),
      (.migrationPoll, 16), (.migrateToFar, 16), (.migrateToNear, 16), (.migrateFetch, 16), (.migrateBadOp, 16), (.searchRound, 16),
      (.listMessage, 16), (.distMessage, 16), (.searchComplete, 16), (.gwynBreak, 256), (.gwynPrint, 256), (.gwynMem, 256),
      (.gwynSpm, 256), (.gwynRdc, 10), (.resendFromStaging, 10)] : List (Instr × Nat)),
      wfEvent { EvArg.none with a := x.2 } x.1 = false ∧ wfEvent { EvArg.none with a := x.2 - 1 } x.1 = true := by decide +kernel

/-- The second and third operands likewise, and data that runs past its window. -/
theorem test_wf_refuses_missing_part :
    (∀ x ∈ ([(.exploreProbe, 64), (.exploreReport, 64), (.counterWrap, 4),
      (.launchSlotWrite, 60), (.replayRelease, 17), (.replayDiscard, 17),
      (.poolNextRun, 256), (.entryFail, 256), (.preemptRequest, 4096), (.commandStart, 4), (.portRowRead, 4), (.portEntryWrite, 4),
      (.residualHold, 4), (.spillBatch, 4), (.spillComplete, 4), (.runAheadRead, 4), (.demandReadReturn, 4), (.bteChunk, 16),
      (.bteCommandComplete, 16), (.ingressGrant, 32), (.ingressAging, 32), (.granuleReadResolve, 32), (.writeDrain, 32),
      (.starvationTimeout, 32), (.redBatchAck, 256), (.redAckTimeout, 256), (.gwynBreak, 2048), (.gwynSpm, 4),
      (.gwynRdc, 256)] : List (Instr × Nat)),
      wfEvent { EvArg.none with b := x.2 } x.1 = false ∧ wfEvent { EvArg.none with b := x.2 - 1 } x.1 = true) ∧
    (∀ x ∈ ([(.commandStart, 3), (.portRowRead, 8),
      (.portEntryWrite, 8)] : List (Instr × Nat)),
      wfEvent { EvArg.none with c := x.2 } x.1 = false ∧ wfEvent { EvArg.none with c := x.2 - 1 } x.1 = true) ∧
    wfEvent { EvArg.none with a := 2 ^ 50, b := 2 ^ 40 } .foriginWrite = true ∧
    wfEvent { EvArg.none with a := 1099511627775, bytes := [1, 2] } .hostBar4Write = false ∧
    wfEvent { EvArg.none with b := 59, bytes := [1, 2] } .launchSlotWrite = false ∧
    wfEvent EvArg.none (.add anySR) = false ∧ Instr.wf EvArg.none (.vadd 7 anyVR) = false := by decide +kernel

/-! ### Decoding: each constructor by a word written out from R290 to R293 and the maps of R304 to R307 -/

/-- The fields of the words below. -/
def wordSR : SR := { fn := 0xA5, ng := 1, pg := 10, b := 49, a := 14, d := 19 }
def wordSI : SI := { ng := 1, pg := 18, imm := 0x2CE5, a := 14, d := 19 }
def wordSL : SL := { imm := 0x2CE53AD, d := 19 }
def wordVR : VR := { ty := 5, ng := 1, pg := 10, b := 307, a := 202, d := 85, cm := 11 }
def wordTG : TG := { ng := 1, pg := 10, xs := 49, td := 6, tb := 19, ta := 13, ss := 9, se := 1, sw := 3, we := 1, cm := 11 }
def wordER (fn : BitVec 8) : ER := { rsv := 9, ng := 1, pg := 10, fn := fn, xc := 49, xb := 14, xa := 19, cm := 11 }
def wordEV (fn : BitVec 8) : EV := { rsv := 9, xa := 49, fn := fn, a := 202, d := 85, cm := 11 }
def wordEI : EI := { imm := 0x2CE53AD1, xa := 19, cm := 11 }

/-- Format S.R of slots A and B. -/
theorem test_decode_SR : ∀ x ∈ ([(0x01, .add), (0x02, .sub), (0x03, .mul), (0x04, .mulh), (0x05, .mulhn), (0x06, .div), (0x07, .divn),
    (0x08, .rem), (0x09, .remn), (0x0A, .andx), (0x0B, .orx), (0x0C, .xorx), (0x0D, .andn), (0x0E, .shl), (0x0F, .shr), (0x10, .sra),
    (0x11, .rot), (0x12, .clz), (0x13, .ctz), (0x14, .popc), (0x15, .min), (0x16, .max), (0x17, .minn), (0x18, .maxn), (0x19, .ext),
    (0x1A, .extn), (0x1B, .ins), (0x1C, .sel), (0x1D, .pcmp), (0x1E, .plog), (0x1F, .xtop), (0x29, .ptox), (0x70, .fadd), (0x71, .fsub),
    (0x72, .fmul), (0x73, .ffma), (0x74, .fdiv), (0x75, .fsqrt), (0x76, .fmin), (0x77, .fmax), (0x78, .fcmp),
    (0x79, .fcvt)] : List (BitVec 8 × (SR → Instr))),
    decodeSlot .a (0b10100101_1_01010_110001_001110_010011#40 ++ x.1) = x.2 wordSR ∧
    decodeSlot .b (0b10100101_1_01010_110001_001110_010011#40 ++ x.1) = x.2 wordSR := by decide +kernel

/-- Format S.R of slot A only and of slot B only, the other slot refusing; FENCE's kind stands in fn[2:0]. -/
theorem test_decode_SR_one_slot :
    (∀ x ∈ ([(0x82, .jr), (0x83, .jrl)] : List (BitVec 8 × (SR → Instr))),
      decodeSlot .a (0b10100101_1_01010_110001_001110_010011#40 ++ x.1) = x.2 wordSR ∧
      decodeSlot .b (0b10100101_1_01010_110001_001110_010011#40 ++ x.1) =
        .unassignedOpcode (0b10100101_1_01010_110001_001110_010011#40 ++ x.1)) ∧
    (∀ x ∈ ([(0x50, .ldbAcq), (0x51, .ldbnAcq), (0x52, .ldhAcq), (0x53, .ldhnAcq), (0x54, .ldwAcq), (0x55, .ldwnAcq), (0x56, .lddAcq),
      (0x58, .stbRel), (0x59, .sthRel), (0x5A, .stwRel), (0x5B, .stdRel), (0x60, .amo), (0x61, .cas), (0x62, .red), (0x64, .waita),
      (0x65, .cwb), (0x66, .cinv), (0x67, .cwbi), (0x68, .pfr)] : List (BitVec 8 × (SR → Instr))),
      decodeSlot .b (0b10100101_1_01010_110001_001110_010011#40 ++ x.1) = x.2 wordSR ∧
      decodeSlot .a (0b10100101_1_01010_110001_001110_010011#40 ++ x.1) =
        .unassignedOpcode (0b10100101_1_01010_110001_001110_010011#40 ++ x.1)) ∧
    (∀ x ∈ ([(0xA8, .fenceAcq), (0xA9, .fenceRel), (0xAA, .fenceFull), (0xAB, .fenceRed), (0xAC, .fenceEng)] : List (BitVec 8 × (SR → Instr))),
      decodeSlot .b ((x.1 ++ 0b1_01010_110001_001110_010011_01100011#32).setWidth 48) = x.2 { wordSR with fn := x.1 }) ∧
    decodeSlot .b 0b00000000_10101101_1_01010_110001_001110_010011_01100011 =
      .unassignedOpcode 0b00000000_10101101_1_01010_110001_001110_010011_01100011 := by decide +kernel

/-- Format S.I. -/
theorem test_decode_SI :
    (∀ x ∈ ([(0x20, .addi), (0x21, .andi), (0x22, .ori), (0x23, .xori), (0x24, .shli), (0x25, .shri), (0x26, .srai), (0x27, .roti),
      (0x28, .lea), (0x30, .pcmpiEq), (0x31, .pcmpiNe), (0x32, .pcmpiLt), (0x33, .pcmpiLe), (0x34, .pcmpiGt), (0x35, .pcmpiGe),
      (0x36, .pcmpiLtn), (0x37, .pcmpiLen), (0x38, .pcmpiGtn), (0x39, .pcmpiGen)] : List (BitVec 8 × (SI → Instr))),
      decodeSlot .a (0b1_10010_10110011100101_001110_010011#40 ++ x.1) = x.2 wordSI ∧
      decodeSlot .b (0b1_10010_10110011100101_001110_010011#40 ++ x.1) = x.2 wordSI) ∧
    (∀ x ∈ ([(0x40, .ldb), (0x41, .ldbn), (0x42, .ldh), (0x43, .ldhn), (0x44, .ldw), (0x45, .ldwn), (0x46, .ldd), (0x48, .stb),
      (0x49, .sth), (0x4A, .stw), (0x4B, .std)] : List (BitVec 8 × (SI → Instr))),
      decodeSlot .b (0b1_10010_10110011100101_001110_010011#40 ++ x.1) = x.2 wordSI ∧
      decodeSlot .a (0b1_10010_10110011100101_001110_010011#40 ++ x.1) =
        .unassignedOpcode (0b1_10010_10110011100101_001110_010011#40 ++ x.1)) ∧
    (∀ x ∈ ([(0x80, .br), (0x81, .brl), (0x84, .loop), (0x85, .loopx), (0x86, .idle), (0x87, .seg), (0x89, .rgn), (0x8A, .tend),
      (0x8B, .isync), (0x8C, .sysr), (0x8D, .sysw), (0x8F, .tret)] : List (BitVec 8 × (SI → Instr))),
      decodeSlot .a (0b1_10010_10110011100101_001110_010011#40 ++ x.1) = x.2 wordSI ∧
      decodeSlot .b (0b1_10010_10110011100101_001110_010011#40 ++ x.1) =
        .unassignedOpcode (0b1_10010_10110011100101_001110_010011#40 ++ x.1)) := by decide +kernel

/-- Format S.L. -/
theorem test_decode_SL :
    (∀ x ∈ ([(0x3A, .li), (0x3B, .lih)] : List (BitVec 8 × (SL → Instr))),
      decodeSlot .a (0b10110011100101001110101101_010011#40 ++ x.1) = x.2 wordSL ∧
      decodeSlot .b (0b10110011100101001110101101_010011#40 ++ x.1) = x.2 wordSL) ∧
    (∀ x ∈ ([(0x88, .key), (0x8E, .trap), (0x90, .brk)] : List (BitVec 8 × (SL → Instr))),
      decodeSlot .a (0b10110011100101001110101101_010011#40 ++ x.1) = x.2 wordSL ∧
      decodeSlot .b (0b10110011100101001110101101_010011#40 ++ x.1) =
        .unassignedOpcode (0b10110011100101001110101101_010011#40 ++ x.1)) := by decide +kernel

/-- Format V.R, and the rounding groups with each rm; rm 6 and 7 are unassigned. -/
theorem test_decode_VR :
    (∀ x ∈ ([(0x01, .vmin), (0x02, .vmax), (0x03, .vabs), (0x04, .vneg), (0x05, .vclamp), (0x06, .viadd), (0x07, .visub), (0x08, .vimul),
      (0x09, .vimulh), (0x0A, .vand), (0x0B, .vor), (0x0C, .vxor), (0x0D, .vandn), (0x0E, .vshl), (0x0F, .vshr), (0x90, .vsra),
      (0x91, .vimin), (0x92, .vimax), (0x93, .viminn), (0x94, .vimaxn), (0x95, .vsel), (0x96, .vmov), (0x97, .vbcast), (0x98, .viota),
      (0x99, .vperm), (0x9A, .vrot), (0x9B, .vcxs), (0x9C, .vextr), (0x9D, .vins), (0x9E, .vcmpr), (0x9F, .vpcnt), (0xA0, .vrng),
      (0xA1, .vtma), (0xA2, .vtmm), (0xA3, .vtmf), (0xB0, .vcmpEq), (0xB1, .vcmpNe), (0xB2, .vcmpLt), (0xB3, .vcmpLe), (0xB4, .vcmpGt),
      (0xB5, .vcmpGe), (0xC0, .vicmpEq), (0xC1, .vicmpNe), (0xC2, .vicmpLt), (0xC3, .vicmpLe), (0xC4, .vicmpGt), (0xC5, .vicmpGe),
      (0xC6, .vicmpLtn), (0xC7, .vicmpLen), (0xC8, .vicmpGtn), (0xC9, .vicmpGen)] : List (BitVec 8 × (VR → Instr))),
      decodeSlot .v (0b101_1_01010_100110011_011001010_001010101_1011#40 ++ x.1) = x.2 wordVR) ∧
    (∀ x ∈ ([(0b00010#5, .vadd), (0b00011#5, .vsub), (0b00100#5, .vmul), (0b00101#5, .vfma), (0b00110#5, .vfnma), (0b00111#5, .vscale),
      (0b01000#5, .vrcp), (0b01001#5, .vrsq), (0b01010#5, .vexp2), (0b01011#5, .vlog2), (0b01100#5, .vcvt), (0b01101#5, .vcvtfx),
      (0b01110#5, .vscan), (0b01111#5, .vsegsum), (0b10000#5, .vred)] : List (BitVec 5 × (BitVec 3 → VR → Instr))),
      (∀ rm ∈ ([0, 1, 2, 3, 4, 5] : List (BitVec 3)),
        decodeSlot .v (0b101_1_01010_100110011_011001010_001010101_1011#40 ++ x.1 ++ rm) = x.2 rm wordVR) ∧
      (∀ rm ∈ ([6, 7] : List (BitVec 3)), decodeSlot .v (0b101_1_01010_100110011_011001010_001010101_1011#40 ++ x.1 ++ rm) =
        .unassignedOpcode (0b101_1_01010_100110011_011001010_001010101_1011#40 ++ x.1 ++ rm))) := by decide +kernel

/-- Format T.G. -/
theorem test_decode_TG : ∀ x ∈ ([(0x01, .tld), (0x02, .tst), (0x03, .tfill), (0x04, .tzero), (0x05, .wld), (0x06, .mma), (0x07, .mmas),
    (0x08, .azero), (0x09, .drain), (0x0A, .fpush), (0x0B, .tstat), (0x0C, .tclr), (0x0D, .trsum),
    (0x0E, .tcsum)] : List (BitVec 8 × (TG → Instr))),
    decodeSlot .t (0b1_01010_110001_0110_10011_01101_1001_1_0011_1_1011#40 ++ x.1) = x.2 wordTG := by decide +kernel

/-- Format E.R; XFER and PBIND with the bit of fn that selects their two forms. -/
theorem test_decode_ER :
    (∀ x ∈ ([(0x01, .xferRow), (0x03, .sftab), (0x04, .span), (0x09, .rseed), (0x0D, .coll), (0x0E, .shpin), (0x0F, .shrel), (0x10, .nnq),
      (0x11, .tspawn), (0x12, .natm), (0x13, .ovl), (0x15, .pbindOff), (0x16, .pparm)] : List (BitVec 8 × (ER → Instr))),
      decodeSlot .e (0b1001_1_01010_10100101_110001_001110_010011_1011#40 ++ x.1) = x.2 (wordER 0b10100101)) ∧
    decodeSlot .e 0b1001_1_01010_10100100_110001_001110_010011_1011_00000001 = .xfer (wordER 0b10100100) ∧
    decodeSlot .e 0b1001_1_01010_00100101_110001_001110_010011_1011_00010101 = .pbind (wordER 0b00100101) := by decide +kernel

/-- Formats E.V and E.I; PSEND with the bit of fn that selects its lane. -/
theorem test_decode_EV_EI :
    (∀ x ∈ ([(0x02, .sfop), (0x07, .rpush), (0x08, .rpop), (0x0A, .psend), (0x0B, .precv), (0x0C, .precvG)] : List (BitVec 8 × (EV → Instr))),
      decodeSlot .e (0b1001_110001_10100101_011001010_001010101_1011#40 ++ x.1) = x.2 (wordEV 0b10100101)) ∧
    decodeSlot .e 0b1001_110001_10101101_011001010_001010101_1011_00001010 = .psendG (wordEV 0b10101101) ∧
    (∀ x ∈ ([(0x05, .spend), (0x06, .rev), (0x14, .pswap), (0x17, .phase)] : List (BitVec 8 × (EI → Instr))),
      decodeSlot .e (0b101100111001010011101011010001_010011_1011#40 ++ x.1) = x.2 wordEI) := by decide +kernel

/-- NOP and the hints of every slot, whatever the other bits (R308), and opcodes no map holds (R303). -/
theorem test_decode_nop_hint : ∀ k ∈ ([.a, .b, .v, .t, .e] : List SlotKind),
    decodeSlot k 0xFFFFFFFF00 = .nop ∧ (∀ n ∈ ([0, 1, 2, 3, 4, 5, 6, 7, 8, 9, 10, 11, 12, 13, 14, 15] : List (BitVec 4)),
      decodeSlot k (0xFFFFFFFF#40 ++ 0xF#4 ++ n) = .hint n) ∧
    (∀ op ∈ ([0x0AD, 0x0D1, 0x0E7] : List (BitVec 8)), decodeSlot k (0x12345678#40 ++ op) = .unassignedOpcode (0x12345678#40 ++ op)) := by
  decide +kernel

/-- The slots of a bundle at their bit ranges (R286): each slot's lowest bit. -/
theorem test_bundle_slots :
    bundleSlot .a (1 <<< 32) = 1 ∧ bundleSlot .b (1 <<< 72) = 1 ∧ bundleSlot .v (1 <<< 112) = 1 ∧ bundleSlot .t (1 <<< 160) = 1 ∧
    bundleSlot .e (1 <<< 208) = 1 ∧ bundleSlot .a (1 <<< 72) = 0 ∧ bundleSlot .e (1 <<< 255) = 1 <<< 47 := by decide +kernel

/-! ### Witnesses: encoding and the step -/

/-- The state after reset with core 0 changed. -/
def core0 (f : CoreSt → CoreSt) : State := State.reset.modCore 0 f

/-- The state after reset with the registers of core 0 changed. -/
def arch0 (f : Arch → Arch) : State := State.reset.modArch 0 f

/-- Runs from its two checks. -/
theorem runs_of {s : State} {i : Instr} (h : (admitted s i true && liveGuard s i) = true) : Runs s i := by
  simpa [Runs] using h

/-- The next state of an outcome that has one. -/
def nextOf (o : Host.Outcome State Fault Refusal) : Option State :=
  match o with
  | .next t => some t
  | _ => none

theorem next_of {o : Host.Outcome State Fault Refusal} (h : (nextOf o).isSome = true) : ∃ t, o = .next t := by
  unfold nextOf at h
  split at h
  · exact ⟨_, rfl⟩
  · simp at h

theorem witness_SlotRoundTrip : wfSlot .a (.add wordSR) = true ∧ wfSlot .b (.std wordSI) = true ∧ wfSlot .v (.vadd 5 wordVR) = true ∧
    wfSlot .t (.mma wordTG) = true ∧ wfSlot .e (.psendG (wordEV 0xFF)) = true ∧ wfSlot .b (.unassignedOpcode 0xFFFFFFFF63) = true := by
  decide +kernel

theorem witness_WordRoundTrip : (2 ^ 40 - 1 : BitVec 48).toNat < 2 ^ slotWidth .a ∧ slotOp 0 = 0 ∧ 0xF0 ≤ slotOp 0xF0 ∧
    slotOp 0xEF ≠ 0 ∧ ¬ 0xF0 ≤ slotOp 0xEF := by decide +kernel

/-- A core inside its bundle; one that issues; a step that is due; acts of the outside world in and out of the recovery state, and
one that names die 10. -/
theorem witness_StepRunsDecoded :
    (let s := State.reset.withFetchWord 256 0x010000000000
     resetDue s = false ∧ s.hostAsks = [] ∧ s.inputs = [] ∧ s.clockOn = true ∧ s.later = [] ∧ midCore (pump s) = some 0) ∧
    (let s := { core0 fun c => { c with run := .running } with bootState := 2 }
     resetDue s = false ∧ s.hostAsks = [] ∧ s.inputs = [] ∧ s.clockOn = true ∧ s.later = [] ∧ midCore (pump s) = none ∧
     dueAct (pump s) = none ∧ issueCore (pump s) = some 0 ∧
     ((pump s).core 0).stopsHere = false ∧ breaksHere ((pump s).core 0) = false) ∧
    (let s := { State.reset with bootState := 2, episode := some (1, 0), pcc := 300 }
     resetDue s = false ∧ s.hostAsks = [] ∧ s.inputs = [] ∧ s.clockOn = true ∧ s.later = [] ∧ midCore (pump s) = none ∧
     dueAct (pump s) = some (act .stretchEpisodeEnd 0 0 0)) ∧
    (wfEvent EvArg.none .tlbShootdown = true ∧ hidden .tlbShootdown EvArg.none = true ∧ hidden .imagePushWrite EvArg.none = false ∧
     wfEvent { EvArg.none with a := 10 } .droopDetect = false) ∧
    (firstInput false [(.registerWrite, EvArg.none)] = some ((.registerWrite, EvArg.none), []) ∧
     firstInput true [(.hostBar4Read, EvArg.none), (.droopDetect, EvArg.none)] =
       some ((.droopDetect, EvArg.none), [(.hostBar4Read, EvArg.none)])) := by decide +kernel

theorem witness_NeverStops :
    ∃ t, step { State.reset with bootState := 2, inputs := [(.droopDetect, { EvArg.none with a := 10 })] } = .next t :=
  next_of (by decide +kernel)

theorem witness_MemoryStaysCanonical : Memory.wf State.reset.mem = true ∧
    (nextOf (step { State.reset with bootState := 2 })).isSome = true := by decide +kernel

theorem witness_SlotsLeaveMemory : wfSlot .b (.std anySI) = true ∧ (∃ t, exec (.std anySI) State.reset = .next t) :=
  ⟨by decide, next_of (by decide +kernel)⟩

theorem witness_RegisterWrites : let p : PendWrite := { due := 0, rank := 0, bid := 7, dst := .x 5, val := 1 }
    p.due ≤ State.reset.pcc ∧ p.rank < 5 ∧ 0 < 1 ∧ p.bid < 8 := by decide +kernel

theorem witness_ResultTiming : (State.reset.core 0).arch.pend = [] ∧ (5 : Nat) ≠ 0 ∧ State.reset.pcc + 3 ≤ 3 ∧ 2 < State.reset.pcc + 3 := by
  decide +kernel

/-! ### Witnesses: instructions of slots A and B -/

/-- Slot instructions with a scalar guard that compute a register or predicate. -/
def computing : List Instr :=
  (([.add, .sub, .mul, .mulh, .mulhn, .div, .divn, .rem, .remn, .andx, .orx, .xorx, .andn, .shl, .shr, .sra, .rot, .clz, .ctz, .popc,
    .min, .max, .minn, .maxn, .ext, .extn, .ins, .sel, .pcmp, .plog, .xtop, .ptox, .fadd, .fsub, .fmul, .ffma, .fdiv, .fsqrt,
    .fmin, .fmax, .fcmp, .fcvt] : List (SR → Instr)).map fun mk => mk anySR) ++
  (([.addi, .andi, .ori, .xori, .shli, .shri, .srai, .roti, .lea, .pcmpiEq, .pcmpiNe, .pcmpiLt, .pcmpiLe, .pcmpiGt, .pcmpiGe,
    .pcmpiLtn, .pcmpiLen, .pcmpiGtn, .pcmpiGen] : List (SI → Instr)).map fun mk => mk anySI)

/-- The control and memory instructions with a scalar guard. -/
def acting : List Instr :=
  (([.br, .brl, .loop, .loopx, .idle, .seg, .rgn, .tend, .isync, .sysr, .sysw, .tret, .ldb, .ldbn, .ldh, .ldhn, .ldw, .ldwn, .ldd,
    .stb, .sth, .stw, .std] : List (SI → Instr)).map fun mk => mk anySI) ++
  (([.jr, .jrl, .ldbAcq, .ldbnAcq, .ldhAcq, .ldhnAcq, .ldwAcq, .ldwnAcq, .lddAcq, .stbRel, .sthRel, .stwRel, .stdRel, .amo, .cas, .red,
    .fenceAcq, .fenceRel, .fenceFull, .fenceRed, .fenceEng, .waita, .cwb, .cinv, .cwbi, .pfr] : List (SR → Instr)).map fun mk => mk anySR)

/-- Each of them runs in the state after reset, outside spans and walks, under the guard that is always true; and with ng set its
guard is false. This meets the hypotheses Runs, admitted and liveGuard of RegisterArithmetic, Division, BitFields,
SelectAndPredicates, Immediates, ScalarFloat, Branches, TimeControl, RgnTendIsync, SystemAccess, LocalAccess, GlobalAccess,
FencesAndWaits and RangeOps. -/
theorem witness_Runs : ∀ i ∈ computing ++ acting, Runs State.reset i := by
  have h : ∀ i ∈ computing ++ acting, (admitted State.reset i true && liveGuard State.reset i) = true := by decide +kernel
  exact fun i hi => runs_of (h i hi)

theorem witness_outside : (regs State.reset).walking = false ∧ (State.reset.core 0).spanNow = none ∧ (State.reset.core 0).rev = none ∧
    (State.reset.core 0).slot = 0 ∧ (regs State.reset).pc < 2048 := by decide +kernel

theorem witness_RegisterFrame : ∀ i ∈ computing, computes i = true ∧ encodingOk i = true ∧ Runs State.reset i ∧
    (State.reset.core State.reset.cur).slot < 2 := by
  have h : ∀ i ∈ computing, computes i = true ∧ encodingOk i = true ∧ (State.reset.core State.reset.cur).slot < 2 := by decide +kernel
  exact fun i hi => ⟨(h i hi).1, (h i hi).2.1, witness_Runs i (List.mem_append_left _ hi), (h i hi).2.2⟩

/-- PCMP codes 9 and 10 are where its two clauses meet (R322); LI and LIH take no guard. -/
theorem witness_Comparisons : (9 : BitVec 8).toNat % 16 < 10 ∧ 10 ≤ (10 : BitVec 8).toNat % 16 ∧
    admitted State.reset (.li anySL) true = true ∧ admitted State.reset (.lih anySL) true = true := by decide +kernel

/-- A reserved mode, type 3 and conversion 7 (R208, R325, R328). -/
theorem witness_ScalarFloat : encodingOk (.fadd { anySR with fn := 5 }) = true ∧ encodingOk (.fadd { anySR with fn := 6 }) = false ∧
    encodingOk (.fcvt { anySR with fn := 0xC0 }) = true ∧ encodingOk (.fcvt { anySR with fn := 0xE0 }) = false ∧
    encodingOk (.fmin { anySR with fn := 0x07 }) = true ∧ encodingOk (.fcmp { anySR with fn := 0x18 }) = false := by decide +kernel

theorem witness_FloatCodesRoundTrip : (Fmt.e2m1.decode 15).isNaN = false ∧ 15 < 2 ^ Fmt.e2m1.width ∧
    (Fmt.f32.decode 0xFF800000).isNaN = false ∧ (Fmt.e4m3.decode 0x7E).isNaN = false ∧ (65535 : Nat) < 2 ^ 16 := by decide +kernel

/-- A quashed slot; one whose encoding raises ILL; one that a span forbids (R225). -/
theorem witness_QuashedSlots :
    (∀ i ∈ computing ++ acting, guarded i = true) ∧
    liveGuard State.reset (.add { anySR with ng := 1 }) = false ∧ admitted State.reset (.add { anySR with ng := 1 }) false = true ∧
    guardedIll (.loop { anySI with a := 1 }) = true ∧ guardedIll (.loop { anySI with a := 1, imm := 1 }) = false ∧
    (let s := arch0 fun a => { a with rvs := 0x2000 }
     spanCheck (s.core s.cur) (.br anySI) true = some 3 ∧ spanCheck (s.core s.cur) (.br anySI) false = some 3 ∧ (regs s).walking = false ∧ guardedIll (.br anySI) = false) := by decide +kernel

theorem witness_NopAndHints : admitted State.reset .nop true = true ∧ admitted State.reset (.hint 0) true = true ∧
    admitted State.reset (.hint 15) true = true := by decide +kernel

theorem witness_Branches : let c : CoreSt := { CoreSt.reset with taken := some 2047 }
    c.taken = some 2047 ∧ c.keyBase = none ∧ liveGuard State.reset (.jrl { anySR with ng := 1 }) = false ∧
    admitted State.reset (.jrl { anySR with ng := 1 }) false = true := by decide +kernel

/-- Count 1 and offset 1 run, 0 does not (R330); LOOPX with the greatest offset; a quashed LOOP. -/
theorem witness_LoopOpen :
    let f : SI := { anySI with imm := 1, a := 1 }
    Runs State.reset (.loop f) ∧ f.imm ≠ 0 ∧ f.a ≠ 0 ∧ (State.reset.core 0).slot = 0 ∧ (State.reset.core 0).arch.pc < 2048 ∧
    Runs State.reset (.loopx { f with imm := 2047 }) ∧ ((2047 : BitVec 14).extractLsb' 0 11).toNat ≠ 0 ∧
    ((2048 : BitVec 14).extractLsb' 0 11).toNat = 0 ∧ admitted State.reset (.loop { f with ng := 1 }) false = true ∧
    liveGuard State.reset (.loop { f with ng := 1 }) = false  := by
  unfold Runs
  decide +kernel

/-- Counter 0 at its exit below counter 1's back edge; all exits; a taken branch; TEND. -/
theorem witness_LoopTest :
    let l (v : Nat) : LoopCtr := { value := BitVec.ofNat 32 v, first := 3, last := 7, active := true }
    let c : CoreSt := { CoreSt.reset with arch := { Arch.reset with pc := 7, lc := sset LoopCtr.zero (sset LoopCtr.zero [] 0 (l 0)) 1 (l 1) } }
    let m (n : Nat) := sget LoopCtr.zero c.arch.lc n
    c.taken = none ∧ c.ending = false ∧ ((m 1).active && (m 1).last.toNat == 7) = true ∧ (m 1).value ≠ 0 ∧
    ((m 0).active && (m 0).last.toNat == 7) = true ∧ (m 0).value = 0 ∧
    (∀ n, n < 4 → ((sget LoopCtr.zero CoreSt.reset.arch.lc n).active && (sget LoopCtr.zero CoreSt.reset.arch.lc n).last.toNat == 0) = true →
      (sget LoopCtr.zero CoreSt.reset.arch.lc n).value = 0) := by decide +kernel

/-- KEY at its cycle and a cycle late (R160). -/
theorem witness_TimeControl : admitted State.reset (.key anySL) true = true ∧ State.reset.pcc ≤ (State.reset.core 0).taskStart + 0 ∧
    (let s := { State.reset with pcc := 1 }
     admitted s (.key anySL) true = true ∧ (s.core 0).taskStart + 0 < s.pcc ∧ (regs s).walking = false) := by decide +kernel

/-- The last record address below 256 KiB, the first address beyond, a misaligned one, a record of five ranges; the end of ISYNC and
each condition it waits for. -/
theorem witness_RgnTendIsync :
    (let s := arch0 fun a => { a with x := sset 0 a.x 1 0x3FFC0 }
     let w := (regs s).rx 1
     w.toNat < 0x40000 ∧ w.toNat % 64 = 0 ∧ rgnOk (bitsOfBytes 512 ((regs s).ldmBytes w.toNat 64)) = true ∧ (regs s).pc < 2048) ∧
    (0x40000 : Word).toNat % 64 = 0 ∧ (1 : Word).toNat % 64 ≠ 0 ∧ rgnOk (5 <<< 104) = false ∧
    (let s := { core0 fun c => { c with sync := some (.isync 0) } with pcc := 2 }
     (s.core 0).slot = 0 ∧ cellsDone s 0 = true ∧ resultsDone (s.core 0) = true ∧ (s.core 0).ovlBusy = false ∧ 0 + 2 ≤ s.pcc ∧
     ¬ 0 + 3 ≤ s.pcc) ∧
    resultsDone { CoreSt.reset with arch := { Arch.reset with pend := [{ due := 9, rank := 0, bid := 0, dst := .x 1, val := 0 }] } } = false := by
  decide +kernel

/-- The first and last numbers of each range of R340 and the numbers beside them; a residual register in a span. -/
theorem witness_SystemAccess :
    (∀ n ∈ ([0, 0x0B, 0x10, 0x17, 0x20, 0x27, 0xC0, 0xD0, 0xE0, 0xE4] : List Nat), registerNumber n = true) ∧
    (∀ n ∈ ([0x0C, 0x0F, 0x18, 0x1F, 0x28, 0xBF, 0xD1, 0xDF, 0xE1, 0xE3, 0xE5] : List Nat), registerNumber n = false) ∧
    (let s := arch0 fun a => { a with rvs := 0x2000 }
     (regs s).inSpan = true ∧ Runs s (.sysw { anySI with imm := 0x04 }) ∧ (regs s).walking = false) ∧
    (let s := core0 fun c => { c with arch := { c.arch with rvs := 0x2000, tcause := 0x80000000 } }
     (regs s).inSpan = true ∧ Runs s (.sysw { anySI with imm := 0xC0 }) ∧ Runs s (.sysw { anySI with imm := 0xD0 }))  := by
  unfold Runs
  decide +kernel

theorem witness_SystemRegisters : sysRead State.reset 0 0x24 = some 0x800 ∧ sysRead State.reset 0 0x27 = some 0x800 ∧
    ∀ n ∈ ([0x04, 0xE4, 0x00, 0xD0] : List Nat), registerNumber n = true := by decide +kernel

/-- A bundle with its snapshot, and a handler that is entered. -/
theorem witness_PreciseTraps :
    let c : CoreSt := { CoreSt.reset with bid := 3, snaps := [(2, Arch.reset, none), (3, Arch.reset, none)] }
    c.snaps.find? (fun p => p.1 == c.bid) = some (c.bid, Arch.reset, none) := by decide +kernel

/-- Handlers enabled; the same with TIMING, and in a handler: no entry; a task whose entry can fail. -/
theorem witness_TrapEntry :
    (let c := (arch0 fun a => { a with tvec := 0x805 }).core 0
     c.arch.tvec.getLsbD 11 = true ∧ c.arch.inHandler = false ∧ (8 : Nat) ≠ 9) ∧
    (let c := (arch0 fun a => { a with tvec := 0x805, tcause := 0x80000000 }).core 0
     c.arch.inHandler = true) ∧ (Entry.free.failReq = none) ∧ (31 : Nat) < 32 ∧ (3 : Nat) < 4 ∧ (7 : Nat) < 8 ∧ (15 : Nat) < 16 := by
  decide +kernel

/-- A trap as TRAP leaves it, with the bundle that follows still to be named. -/
def softTrap (cause : Nat) : Trap :=
  { cause := cause, slot := 0, origin := 0, cell := 0, chan := 0, ce := false, gstep := false, tval := 7, tpc := 2048, seen := 0 }

/-- A pending TRAP; a pending BRK with the monitor attached; a deferred trap that is due. -/
theorem witness_SoftAndDeferredTraps :
    (∀ f ∈ ([.trap anySL, .brk anySL] : List Instr), admitted State.reset f true = true) ∧
    (let s := core0 fun c => { c with run := .running, trapReq := some (softTrap 16) }
     s.arg.a = 0 ∧ trapEntryDue s 0 = true ∧ (softTrap 16).cause ≠ 15) ∧
    (let s := { core0 fun c => { c with run := .running, trapReq := some (softTrap 15) } with monitor := true }
     trapEntryDue s 0 = true ∧ (softTrap 15).cause = 15) ∧
    (let s := core0 fun c => { c with run := .running, deferred := [softTrap 12] }
     firstDeferred (s.core s.arg.a).deferred = some (softTrap 12) ∧ deferredDue s s.arg.a = true) := by decide +kernel

/-- TRET in a handler, in one a walk's trap entered, and outside one. -/
theorem witness_TrapReturn :
    let s := arch0 fun a => { a with tcause := 0x80000000, tpc := 9 }
    Runs s (.tret anySI) ∧ (regs s).inHandler = true ∧ (regs s).tcause.getLsbD 18 = false ∧ (regs State.reset).inHandler = false ∧
    ({ CoreSt.reset with lockNext := true, taken := some 9 } : CoreSt).lockNext = true  := by
  unfold Runs
  decide +kernel

/-! ### Witnesses: memory, cells, engines, spans -/

/-- Core 0 with one translation in its TLB: the first 2 MiB of address space 0, valid with the rights given (bits R, W, X). -/
def mapped (rights : Nat) (f : Arch → Arch) : State :=
  core0 fun c => { c with arch := f c.arch, tlb := [(0, 0, 2 ^ 21, BitVec.ofNat 64 (3 + 4 * rights))] }

/-- The failing kind of a translation, or none where it succeeds. -/
def failing (s : State) (va need : Nat) : Option (Nat × Nat) :=
  match (translate s (.core 0) 0 va need).2 with
  | .ok _ => none
  | .error e => some e

/-- The first and the last aligned doubleword of the window, a misaligned address in it and below 2^48, and the addresses around the
two spaces (R345, R347). -/
theorem witness_LocalAccess :
    (0 : Nat) + 8 ≤ 0x40000 ∧ (0x3FFF8 : Nat) + 8 ≤ 0x40000 ∧ 0x3FFF8 % 8 = 0 ∧
    (let s := arch0 fun a => { a with x := sset 0 a.x 1 0xFFFFF0000003FFF8 }
     ((regs s).rx 1 + BitVec.ofNat 64 8 * ((0 : BitVec 14).extractLsb' 2 12).signExtend 64).toNat = 0xFFFFF00000000000 + 0x3FFF8 ∧
     Runs s (.ldd { anySI with a := 1 })) ∧
    0xFFFFF00000000000 ≤ (0xFFFFF0000003FFFF : Word).toNat ∧ (0xFFFFF0000003FFFF : Word).toNat < 0xFFFFF00000040000 ∧
    (0xFFFFF0000003FFFF : Word).toNat % 2 ≠ 0 ∧ (0xFFFFFFFFFFFF : Word).toNat < 2 ^ 48 ∧ (0xFFFFFFFFFFFF : Word).toNat % 8 ≠ 0 ∧
    2 ^ 48 ≤ (0x1000000000000 : Word).toNat ∧ (0xFFFFEFFFFFFFFFFF : Word).toNat < 0xFFFFF00000000000  := by
  unfold Runs
  decide +kernel

/-- A page with every right, one without R, and an address that does not translate; the last policies and scopes that are no ILL. -/
theorem witness_GlobalAccess :
    failing (mapped 7 id) 0 3 = none ∧ failing (mapped 7 id) 0x1FFFF8 3 = none ∧ failing (mapped 6 id) 8 1 = some (5, 0) ∧
    failing (mapped 7 id) 0x200000 1 = some (7, 3) ∧ Runs (mapped 7 id) (.std anySI) ∧ Runs (mapped 7 id) (.cas anySR) ∧
    ((0x09 : BitVec 8).extractLsb' 0 2).toNat < 2 ∧ ((0x09 : BitVec 8).extractLsb' 2 2).toNat < 3 ∧
    guardedIll (.amo { anySR with fn := 0xBA }) = false ∧ guardedIll (.cas { anySR with fn := 0xBF }) = false ∧
    guardedIll (.red { anySR with fn := 0xFA }) = false  := by
  unfold Runs
  decide +kernel

/-- WAITA with a reserved bit in its spec, a misaligned one, one in scratchpad, global ones that translate and that do not. -/
theorem witness_FencesAndWaits :
    ((0x20 : BitVec 8).extractLsb' 4 2).toNat < 3 ∧ ((0x0C : BitVec 8).extractLsb' 0 3).toNat < 5 ∧
    specOk 0x1000000000000 = false ∧ specOk 0x4 = true ∧ nfield (0x4 : Word) 0 22 % 8 ≠ 0 ∧ nfield (0x4 : Word) 0 22 % 4 = 0 ∧
    specOk 0x1C000000003FFFF8 = true ∧ specLocal 0x1C000000003FFFF8 = true ∧ specLocal 0x8 = false ∧
    failing (mapped 7 id) 8 1 = none ∧ failing (mapped 6 id) 8 1 = some (5, 0) ∧
    Runs (mapped 7 id) (.fenceEng { anySR with fn := 0x24 }) ∧ Runs (mapped 7 id) (.waita { anySR with fn := 0x2C })  := by
  unfold Runs
  decide +kernel

/-- The first address beyond 48 bits, the lengths around the limits, ranges whose pages have right W and lack it. -/
theorem witness_RangeOps :
    ¬ 2 ^ 48 ≤ (0xFFFFFFFFFFFF : Word).toNat ∧ 2 ^ 48 ≤ (0x1000000000000 : Word).toNat ∧ 2 ^ 36 < (0x1000000001 : Word).toNat ∧
    (0x1000000000 : Word).toNat ≤ 2 ^ 36 ∧ 2 ^ 30 < (0x40000001 : Word).toNat ∧ (0x40000000 : Word).toNat ≤ 2 ^ 30 ∧
    (pagesLackW (mapped 7 id) 0 0 2 8 4095).2 = none ∧ (pagesLackW (mapped 5 id) 0 0 2 8 4095).2 = some 8 ∧
    specOk 0 = true ∧ specOk 0x1000000000000008 = true ∧ specLocal 0x1000000000000008 = true ∧ failing (mapped 7 id) 8 2 = none ∧
    Runs (mapped 7 id) (.cinv anySR) ∧ Runs (mapped 7 id) (.pfr anySR)  := by
  unfold Runs
  decide +kernel

theorem witness_GlobalMemory : (2 : Nat) < 3 ∧ 2 ^ 40 - 1 < 2 ^ 40 ∧ (127 : Nat) / 64 = 64 / 64 ∧ (63 : Nat) / 64 ≠ 64 / 64 := by decide

/-- v255 and q0 as sources, q6 as destination, and the first codes beyond; all four cells. -/
theorem witness_VectorIssue :
    let f : VR := { anyVR with ty := 5, b := 255, a := 256, d := 255, cm := 15 }
    let s := arch0 fun a => { a with portCnt := sset 0 a.portCnt (portKey 0 0) 9 }
    vecIll (.viadd f) = false ∧ admitted State.reset (.viadd f) true = true ∧ vecIll (.viadd { f with d := 264 }) = true ∧
    vecIll (.viadd { f with b := 262 }) = true ∧
    hasRoom State.reset (plainReq (.viadd { f with a := 0 }) 15 1 ((regs State.reset).guardBits 0 0) true) = true ∧
    hasRoom s (plainReq (.viadd { f with cm := 1 }) 1 1 ((regs s).guardBits 0 0) true) = true ∧
    vecIll (.vadd 0 { f with ty := 0, d := 262 }) = false := by decide +kernel

/-- A VIADD at the head of a queue whose bundle has committed. -/
def waitingAdd : State :=
  let k := { commandOf State.reset (plainReq (.viadd { anyVR with cm := 1 }) 1 1 0 true) with lock := true, start := 0, arrive := 0, bid := 0 }
  let s := (core0 fun c => { c with bid := 1, run := .running }).modCell 0 0 fun x => { x with qVec := [k] }
  { s with arg := { EvArg.none with c := 1 } }

theorem witness_VectorLanes : ∃ k, queueTurn waitingAdd waitingAdd.arg.a waitingAdd.arg.b 1 = .start k ∧ waitingAdd.arg.c = 1 ∧
    k.erc = false ∧ k.resOps = 0 ∧ k.instr = .viadd { anyVR with cm := 1 } :=
  ⟨((waitingAdd.cell 0 0).qVec.headD (commandOf State.reset (plainReq .nop 0 0 0 true))), by decide +kernel, by decide +kernel,
    by decide +kernel, by decide +kernel, by decide +kernel⟩

/-- A format word in each queue; DRAIN and TSTAT at the ends of their operand codes, and the codes beyond. -/
theorem witness_TileIssue :
    let s := arch0 fun a => { a with fmtCopy := [0, 1, 2, 3].foldl (fun m j => sset [] m j [0]) a.fmtCopy }
    let i : Instr := .tzero { anyTG with cm := 15 }
    tileIll i = false ∧ admitted s i true = true ∧ tileTrap (regs s) i 0 (cellsOf 15) = none ∧
    hasRoom s { plainReq i 15 0 ((regs s).guardBits 0 0) true with popsFmt := popsWord i } = true ∧
    tileIll (.tzero { anyTG with td := 7 }) = false ∧ tileIll (.tzero { anyTG with td := 8 }) = true ∧
    tileIll (.drain { anyTG with ta := 19 }) = false ∧ tileIll (.drain { anyTG with ta := 20 }) = true ∧
    tileIll (.tstat { anyTG with ta := 16 }) = false ∧ tileIll (.tstat { anyTG with ta := 15 }) = true ∧
    tileIll (.fpush { anyTG with cm := 15 }) = false ∧ tileTrap (regs State.reset) (.fpush { anyTG with cm := 15 }) 0 (cellsOf 15) = none := by
  decide +kernel

/-- XFER at the ends of scratchpad; SFOP's last function; a pair of each role; PHASE at the last element. -/
theorem witness_CellEngineIssue :
    (256 : Nat) ≤ 65536 ∧ (spmSize - 65536) % 256 = 0 ∧ spmSize - 65536 + 65536 ≤ spmSize ∧ (0x100000000 : Word).getLsbD 32 = true ∧
    admitted State.reset (.xfer anyER) true = true ∧ hasRoom State.reset (plainReq (.xfer anyER) 15 2 0 true) = true ∧
    setOk (BitVec.ofNat 1024 (2 ^ 320 + 2 ^ 352 + 2 ^ 384 + 2 ^ 416)) = true ∧ (0x09 : BitVec 8).toNat % 16 < 10 ∧ sfopType { anyEV with fn := 9 } ≠ 3 ∧ srcCode 255 ≠ none ∧ dstCode 263 ≠ none ∧
    srcCode 256 ≠ none ∧ dstCode 256 = none ∧ srcCode 262 = none ∧
    (0x100000 : BitVec 64).getLsbD 20 = true ∧ (0x100000 : BitVec 64).getLsbD 19 = false ∧ (0x180000 : BitVec 64).getLsbD 19 = true ∧
    (let s := arch0 fun a => { a with portLen := sset 0 a.portLen (portKey 0 0) 8 }
     ∀ j ∈ cellsOf 1, (7 : Nat) < sget 0 (regs s).portLen (portKey j 0)) ∧
    (∀ i ∈ ([.rseed anyER, .pbind anyER, .phase anyEI, .psend anyEV, .precv anyEV] : List Instr), admitted State.reset i true = true) := by
  decide +kernel

/-- Core 0 with residual windows and HBM areas of some size, and stacks of a depth. -/
def stacked (depth : Nat) (f : Arch → Arch) : State :=
  arch0 fun a => f { a with
    rsWin := [0, 1, 2, 3].foldl (fun m j => sset 0 m j (BitVec.ofNat 29 (2 ^ 16 * 64))) a.rsWin
    rsHbm := [0, 1, 2, 3].foldl (fun m j => sset 0 m j (BitVec.ofNat 64 (2 ^ 12))) a.rsHbm
    rsTop := [0, 1, 2, 3].foldl (fun m j => sset 0 m j (BitVec.ofNat 40 depth)) a.rsTop }

/-- RPOP of the 16 granules that are there; RPUSH on an empty stack. -/
theorem witness_ExplicitResiduals :
    let s := stacked 16 id
    (s.core 0).spanNow = none ∧ (regs s).inSpan = false ∧ (regs s).revActive = false ∧ admitted s (.rpop { anyEV with cm := 15 }) true = true ∧
    hasRoom s (plainReq (.rpop { anyEV with cm := 15 }) 15 2 0 (liveGuard s (.rpop { anyEV with cm := 15 }))) = true ∧
    (∀ j, j < 4 → (regs s).winSize j ≠ 0 ∧ (s.cell 0 j).spilled ≤ (regs s).depth j ∧ 16 ≤ (regs s).depth j) ∧
    admitted s (.rpush { anyEV with cm := 15 }) true = true ∧
    hasRoom s (plainReq (.rpush { anyEV with cm := 15 }) 15 2 0 (liveGuard s (.rpush { anyEV with cm := 15 }))) = true := by decide +kernel

/-- Records that translate with each right, and the ends of what each request takes; PSWAP beside RGN, a quashed RGN and none. -/
theorem witness_EngineRequests :
    (let s := mapped 7 id
     (checkPages s 0 0 1 2 0 191).2 = none ∧ (checkPages s 0 0 4 18 0x10000 0x1FFFF).2 = none ∧ (checkPages s 0 0 2 2 8 15).2 = none ∧
     (checkPages s 0 0 1 4 0 8263).2 = none) ∧
    (∀ i ∈ ([.coll, .shpin, .shrel, .nnq, .sftab, .tspawn, .natm, .ovl, .pparm] : List (ER → Instr)),
      (admitted (mapped 7 id) (i anyER) true && liveGuard (mapped 7 id) (i anyER)) = true) ∧
    (32 : Word).toNat % 32 = 0 ∧ (65536 : Word).toNat ≤ 65536 ∧ (4096 : Word).toNat ≤ 4096 ∧ (0x3FFC0 : Word).toNat + 64 ≤ 0x40000 ∧
    (0x3FF80 : Word).toNat + 128 ≤ 0x40000 ∧ (0x3FFC0 : Word).toNat % 64 = 0 ∧ (1 : Word).toNat % 64 ≠ 0 ∧
    (let bundle (a e : Nat) : State := core0 fun c => { c with
       slot := 4, planes := sset 0 c.planes 0 (BitVec.ofNat 256 (a * 2 ^ 32 + e * 2 ^ 208)), tags := sset none c.tags 1 (some (0x10000, 0)) }
     (admitted (bundle 0x89 0x14) (.pswap anyEI) true = true ∧ ((bundle 0x89 0x14).core 0).drainPoint = .rgn ∧
       sget none ((bundle 0x89 0x14).core 0).tags 1 ≠ none) ∧
     ((bundle 0x8A 0x14).core 0).drainPoint = .tend ∧ ((bundle 0x8000000089 0x14).core 0).drainPoint = .quashed ∧
     ((bundle 0 0x14).core 0).drainPoint = .none) := by decide +kernel

/-- SPAN with the descriptor of zeros, at the last address, at a misaligned one, in a span; SPEND in a span and outside. -/
theorem witness_SpanBoundaries :
    let s := stacked 2 id
    let t := (stacked 2 fun a => { a with rvs := 0x2000 }).modCore 0 fun c => { c with slot := 4 }
    let u := s.modCore 0 fun c => { c with slot := 4 }
    Runs u (.span anyER) ∧ (regs u).walking = false ∧ (regs u).inSpan = false ∧ (regs u).revActive = false ∧ descOk (regs u) 0 = true ∧
    windowsOk (regs u) = true ∧ (0x3FF80 : Word).toNat + 128 ≤ 0x40000 ∧ ¬ (0x3FFC0 : Word).toNat + 128 ≤ 0x40000 ∧ descOk (regs u) (1 <<< 17) = false ∧
    (∀ j, j < 4 → (regs u).winSize j ≠ 0 ∧ (u.cell 0 j).spilled ≤ (regs u).depth j ∧ (regs u).depth j + 1 < 2 ^ 40) ∧
    admitted t (.spend anyEI) true = true ∧ (regs t).inSpan = true ∧ admitted u (.spend anyEI) true = true ∧
    (let h := arch0 fun a => { a with rvs := 0x2000, tcause := 0x80000000 }
     Runs h (.span anyER) ∧ (regs h).inSpan = true ∧ (regs h).walking = false)  := by
  unfold Runs
  decide +kernel

/-- A span of bundles 3 and 4 whose records stand on each stack, all of zeros; one without SPEND; stacks too low. -/
theorem witness_ReverseStarts :
    let code (c : CoreSt) : CoreSt := { c with
      planes := sset 0 (sset 0 c.planes 3 (BitVec.ofNat 256 (0x04 * 2 ^ 208))) 4 (BitVec.ofNat 256 (0x05 * 2 ^ 208)) }
    let s := (stacked 2 id).modCore 0 code
    let t := (stacked 0 id).modCore 0 code
    admitted s (.rev { anyEI with imm := 4 }) true = true ∧ (regs s).walking = false ∧ (regs s).inSpan = false ∧ (regs s).revActive = false ∧
    descOk (regs s) 0 = true ∧ decodeSlot .e (bundleSlot .e ((s.core 0).bundleAt 4)) = .spend anyEI ∧ scanSpan (s.core 0) 4 2047 1 = some 3 ∧
    (match (topRecords s 0 0 [0, 1, 2, 3]).2 with | .ok _ => true | .error _ => false) = true ∧
    (match (topRecords t 0 0 [0, 1, 2, 3]).2 with | .error (0, .mismatch) => true | _ => false) = true ∧
    decodeSlot .e (bundleSlot .e ((s.core 0).bundleAt 5)) = .nop ∧
    (match (restoreCells s 0 (1 <<< 16) [] [0, 1, 2, 3]).2 with | none => true | some _ => false) = true ∧
    (let h := arch0 fun a => { a with rvs := 0x2800, tcause := 0x80000000 }
     admitted h (.rev anyEI) true = true ∧ (regs h).walking = false ∧ (regs h).inSpan = true ∧ (regs h).revActive = true) := by decide +kernel

/-- ADD in slot A, and ROTI in slot B of the bundle on another register. -/
theorem witness_ScalarInverse :
    let fa : SR := { anySR with d := 5, a := 5, b := 9 }
    let fb : SI := { anySI with d := 6, a := 6, imm := 7 }
    fa.d = fa.a ∧ fa.b ≠ fa.d ∧ fb.d = fb.a ∧ (5 : Nat) ≠ 0 ∧ (6 : Nat) ≠ 0 ∧ (5 : Nat) ≠ 6 ∧
    ¬ (readsDest (.add fa) (.roti fb) = true ∧ readsDest (.roti fb) (.add fa) = true) := by decide +kernel

/-! ### Witnesses: the package, its host, Trestle -/

/-- One clause of BootAndClock: a die at its trip point reports anew once 256 cycles have passed, and not before. The verdicts on the
flash image are the firmware's (log 11): they are free in the model, so either may hold. -/
theorem witness_BootAndClock :
    State.reset.bootState = 1 ∧ ({ State.reset with episode := some (1, 0) } : State).episode = some (1, 0) ∧
    (let s := { State.reset with pcc := 255, hotDies := sset 0 [] 0 256 }
     s.pcc < sget 0 s.hotDies s.arg.a) ∧
    (let s := { State.reset with pcc := 256, hotDies := sset 0 [] 0 256 }
     sget 0 s.hotDies s.arg.a ≤ s.pcc) := by decide +kernel

/-- A good flit that is in order, one out of order, a bad one, and a nak. -/
theorem witness_LinksAndExploration_flits :
    (State.reset.port 0).up = true ∧ (State.reset.port 0).rxNext = 0 ∧ flitGood (sealFlit (rawFlit 4 0) 0 0) = true ∧
    flitSeq (sealFlit (rawFlit 4 0) 0 0) = 0 ∧ flitType (sealFlit (rawFlit 4 0) 0 0) = 4 ∧ flitSeq (sealFlit (rawFlit 4 0) 4095 0) ≠ 0 ∧
    flitType (sealFlit (rawFlit 2 0) 0 7) = 2 ∧
    flitGood ((crc32c (bytesOf (0 : BitVec 992) 124) ^^^ 1) ++ (0 : BitVec 992) : BitVec (32 + 992)) = false :=
  ⟨by decide +kernel, by decide +kernel, flitGood_sealFlit .., by rw [flitSeq_sealFlit], by rw [flitType_sealFlit]; decide +kernel,
    by rw [flitSeq_sealFlit]; decide, by rw [flitType_sealFlit]; decide +kernel,
    by rw [flitGood_append, beq_eq_false_iff_ne]; intro h; have := congrArg (crc32c (bytesOf (0 : BitVec 992) 124) ^^^ ·) h; simp at this⟩

/-- A report of die 1 of a package, of no links. -/
def someReport (pkg : Nat) : BitVec 1024 :=
  rawFlit 4 (explPayload (explHeader 0 1 pkg 3 1 1 ++ [1, 3, 1, 0] ++ [BitVec.ofNat 8 pkg, 0]))

/-- Naks that name a flit and that name none; retrains at 16 replays;
each source of the clock. Probes and reports of every kind; an exploration over at its last cycle. -/
theorem witness_LinksAndExploration :
    (let l : List (BitVec 1024) := [7, 8]
     let s := State.reset.modPort 0 fun v => { v with replay := l, replays := [3, 16] }
     ((s.port 0).replay.findIdx? fun g => flitSeq g == 7) = some 0 ∧ 0 + 1 < (s.port 0).replay.length ∧
     ((s.port 0).replay.findIdx? fun g => flitSeq g == 0) = none ∧ (s.port 0).replay ≠ [] ∧ (∃ n ∈ (s.port 0).replays, 16 ≤ n) ∧
     (s.port 0).up = true ∧ (s.port 0).replay.length < 512) ∧
    ((State.reset.modPort 0 fun v => { v with up := false }).port 0).up = false ∧
    (let s := { State.reset with ptpSource := 1 }
     (s.ptpSource = 1 ∨ s.ptpSource = 2) ∧ s.ptpPort.toNat = s.arg.a ∧ (s.port s.arg.a).up = true) ∧
    explorationDue State.reset = false ∧ explorationDue { State.reset with explGo := true } = true ∧
    (let f := probeFlit 15 0 0 0 1
     explKind f = 0 ∧ explHop f = 15 ∧ acceptsProbe State.reset 1 0 (explHop f) 1 = true ∧ explKind (BitVec.allOnes 1024) ≠ 0) ∧
    (let f := someReport 0
     let s := State.reset.modDie 2 fun x => { x with parent := some (0, 1, explGenOf f) }
     explKind f = 1 ∧ (s.die 2).parent = some (0, 1, explGenOf f) ∧ lanePeer 2 0 ≠ none ∧ (2, 0) ∉ s.lanesDown) ∧
    (let f := someReport 5
     let s := { (State.reset.modDie 0 fun x => { x with parent := some (255, 0, explGenOf f) }) with explRunning := true }
     (s.die 0).parent = some (255, 0, explGenOf f) ∧ (readReport f 0).pkg ≠ s.pkgUsed.toNat ∧ s.reports = [] ∧
     (readReport (someReport 0) 16).pkg = s.pkgUsed.toNat) ∧
    (let s := { State.reset with explRunning := true, pcc := 65536 }
     s.explLast + 65536 ≤ s.pcc ∧ ¬ s.explLast + 65537 ≤ s.pcc) := by decide +kernel

/-- Key updates, counters of the last quad and the first die, log tails at the greatest distance, an access under a valid key that ends at
the end of memory, shootdowns idle and under way. -/
theorem witness_HostWrites :
    ({ State.reset with keyPend := some (1, none) } : State).keyPend = some (1, none) ∧ State.reset.keyPend = none ∧ State.reset.arg.a = 0 ∧
    (255 : Nat) < 256 ∧ ¬ (256 : Nat) < 256 ∧ (256 + 512 - 0) % 512 ≤ 256 ∧ ¬ (257 + 512 - 0) % 512 ≤ 256 ∧
    State.reset.keyOf (nfield State.reset.w4base 0 7) = none ∧
    (let s := { State.reset with keys := sset none [] 0 (some 5), w4base := 0x000FFFFFC0000000 }
     s.keyOf (nfield s.w4base 0 7) = some 5 ∧ (s.die 0).rdc = [] ∧ nfield s.w4base 30 22 * 2 ^ 30 + 0 + 8 ≤ 2 ^ 52) ∧
    (let s := { State.reset with keys := sset none [] 0 (some 5), w4base := 0xFFC0000000, arg := { EvArg.none with a := 2 ^ 30 - 1, bytes := [7] } }
     s.keyOf (nfield s.w4base 0 7) = some 5 ∧ nfield s.w4base 30 22 * 2 ^ 30 + s.arg.a + 1 ≤ 2 ^ 40 ∧
     ¬ nfield s.w4base 30 22 * 2 ^ 30 + s.arg.a + 2 ≤ 2 ^ 40) ∧
    State.reset.tlbInv.getLsbD 63 = false ∧ (0x8000000000000000 : Word).getLsbD 63 = true ∧
    0 + State.reset.arg.b ≤ 2 ^ State.reset.bar4Bits ∧ 2 ^ State.reset.bar4Bits < (2 ^ 40 - 1) + 2 ∧
    (let s := { State.reset with hostAsks := [.read 2 0x7FFC0 64], bootState := 2 }
     s.hostAsks = .read 2 0x7FFC0 64 :: [] ∧ resetDue s = false ∧ s.bootState ≠ 3 ∧ 0x7FFC0 + 64 ≤ 0x80000) ∧
    ({ State.reset with bootState := 3 } : State).bootState = 3 := by decide +kernel

/-- The image of a one-quad task at physical quad 0 of the host's binding, as the host stores it. -/
def hostImage : State := { State.reset with images := [{ addr := 0, dies := [0], quads := [0], overlays := [] }] }

/-- Slot 0 as the host writes it for one quad, logical quad 0. -/
def written : State := { hostImage with slotBytes := sset 0 [] 0 (BitVec.ofNat 512 (2 ^ 80)) }

/-- An arrived message of tag 9 and length 3. -/
def arrived : State := { State.reset with tagged := [(9, 3, 0)] }

/-- Slots free, waiting at count 0 and 1, and running; commits that name no range, set a reserved bit, and are captured; messages with and
without an entry; a new origin before and after the present; the loader's images in use and not. -/
theorem witness_LaunchAndLoad :
    (State.reset.entry 0).st = .free ∧ (0 : Nat) + 60 ≤ 64 ∧
    (let s := State.reset.modEntry 0 fun e => { e with st := .waiting, count := 1 }
     (s.entry 0).st ≠ .free ∧ (s.entry 0).st = .waiting ∧ 0 < (s.entry 0).count) ∧
    (let s := State.reset.modEntry 0 fun e => { e with st := .waiting, count := 0 }
     (s.entry 0).st ≠ .free ∧ ¬ ((s.entry 0).st = .waiting ∧ 0 < (s.entry 0).count)) ∧
    (0x80000000 : Word).getLsbD 31 = true ∧ (0x7FFFFFFF : Word).getLsbD 31 = false ∧
    imgRangeOk (slotImage written 0 0x80000000) = true ∧ imgReservedOk (slotImage written 0 0x80000000) = true ∧
    imgRangeOk (slotImage State.reset 0 0x80000000) = false ∧ imgReservedOk (slotImage written 0 0xFFFFFFFF) = false ∧
    physAll (hostBinding written (slotImage written 0 0x80000000))
      ((List.range (imgCount (slotImage written 0 0x80000000))).map fun i => imgFirst (slotImage written 0 0x80000000) + i) = some [0] ∧
    State.reset.decs = [] ∧
    arrived.tagged = [(9, 3, 0)] ∧ arrived.arrivalTable = [] ∧
    (let s := { (arrived.modEntry 5 fun e => { e with st := .waiting, count := 1 }) with
       arrivalTable := [(1023, BitVec.ofNat 128 (2 ^ 79 + 5 * 2 ^ 64 + 3 * 2 ^ 32 + 9))] }
     let v : BitVec 128 := BitVec.ofNat 128 (2 ^ 79 + 5 * 2 ^ 64 + 3 * 2 ^ 32 + 9)
     s.arrivalTable.find? (fun p => p.2.getLsbD 79 && p.2.extractLsb' 0 32 == 9 && nfield p.2 32 32 == 3) = some (1023, v) ∧
     (s.entry (nfield v 64 12)).st = .waiting ∧ 0 < (s.entry (nfield v 64 12)).count) ∧
    switchDue State.reset = false ∧
    (let s := { State.reset with foriginNew := some 1, framesOn := true }
     s.foriginNew = some 1 ∧ switchDue s = true ∧ s.ptp < 1 * nsUnits) ∧
    (let s := { State.reset with foriginNew := some 0, framesOn := true }
     switchDue s = true ∧ 0 * nsUnits ≤ s.ptp) ∧
    (State.reset.images.find? fun i => i.addr == 0) = none ∧ (hostImage.images.find? fun i => i.addr == hostImage.loadAddr.toNat).isSome = true ∧
    hostImage.entries = [] := by decide +kernel

/-- A container whose magic is not there does not load. -/
theorem witness_loadRefused : (loadImage (loaderStatus { State.reset with keys := sset none [] 0 (some 5) } 1) 0 0).isNone = true := by decide +kernel

/-- Measurement indices 0, 1, 3 and all; each view gwyn shows; a page that translates. -/
theorem witness_MonitorAndAttestation :
    (([0, 0, 0, 0xFF] : List Byte)[3]?).getD 0 = 0xFF ∧ (([0, 0, 0, 3] : List Byte)[3]?).getD 0 = 3 ∧ State.reset.tripped = false ∧
    sysRead State.reset 0 0xE4 = some 0 ∧ ({ EvArg.none with view := .vector 3 255 0 255 32 } : EvArg).view = .vector 3 255 0 255 32 ∧
    (let s := { (State.reset.modDie 0 fun x => { x with tlb := [(0, 0, 2 ^ 21, 0x1F)] }) with keys := sset none [] 0 (some 5) }
     (match (translate s (.engine 0) (s.core 0).asid 4000 1).2 with | .ok p => decide (p.pa + 96 ≤ 2 ^ 40 ∧ s.keyOf p.key = some 5) | _ => false) = true ∧
     (s.die 0).rdc = [] ∧ 4000 % 4096 + 96 ≤ 4096 ∧
     failing (mapped 7 id) 4000 0 = none ∧ (rdcFind (s.die 0).rdc 31).isNone = true) := by decide +kernel

/-- A load that waits for its reply. -/
def pendingLoad : MemOp :=
  { tag := 0, gen := 0, bid := 0, bundle := 0, kind := .load, va := 64, place := { pa := 64, key := 0, home := 0, soft := false }, len := 8,
    data := 0, cmp := 0, fn := 0, flt := false, flush := false, policy := 0, acq := false, rel := false, scope := 0, dst := 5,
    signed := false, issued := 0, phase := 1, result := 0, pois := false, timedOut := false, status := 0 }

/-- The reply to it. -/
def itsReply : Reply :=
  { op := 0, status := 0, die := 0, agent := 0, tag := 0, gen := 0, stack := 0, rcount := 0, rfail := 0, pmask := 0,
    data := List.replicate 32 0, clock := [], home := 0, applied := 0, pa := 64, fill := false }

/-- A WAITA on a word of core 0's own scratchpad, for it to be equal to cmp, with a time-out. -/
def waits (cmp : Word) (tout : Nat) : State :=
  let w : Waita := { bid := 0, bundle := 0, spec := 0x1000000000000000, place := { pa := 0, key := 0, home := 0, soft := false }, cmp := cmp,
                     cond := 0, wide := true, scope := 0, dst := 5, tout := tout, issued := 0, nextRead := 0, lost := none }
  core0 fun c => { c with bid := 1, run := .running, waita := some w }

/-- A WAITA on a word of core 0's own scratchpad reads 0. -/
def reads (s : State) : Option Nat :=
  match (s.core 0).waita with
  | some w => (match (waitaRead s 0 w).2 with | .ok v => some v | .error _ => none)
  | none => none

/-- Replies with and without an open request; a request open for the limit; answered loads; WAITAs that hold, are late, and go on; an
overlay that is there, a prefetch, a table, lines at and before their 4,096th cycle. -/
theorem witness_Replies :
    (let s : State := { (core0 fun c => { c with lsq := [pendingLoad] }) with replies := [itsReply] }
     s.replies[s.arg.a]? = some itsReply ∧ itsReply.die = 0 ∧ itsReply.op ≠ 4 ∧
     ((s.core 0).lsq.find? fun m : MemOp => m.tag == itsReply.tag && m.gen == itsReply.gen && m.phase == 1) = some pendingLoad) ∧
    ((State.reset.core 0).lsq.find? fun m : MemOp => m.tag == itsReply.tag && m.gen == itsReply.gen && m.phase == 1) = none ∧
    (let s := { (core0 fun c => { c with lsq := [pendingLoad] }) with pcc := 0x01000000 }
     (s.core 0).lsq.find? (fun m => m.tag == s.arg.b && m.lateBy s) = some pendingLoad ∧ logRoom (s.die 0).deHead (s.die 0).deTail = true) ∧
    (let m := { pendingLoad with phase := 2 }
     answered { (core0 fun c => { c with bid := 1, run := .running, lsq := [m] }) with pcc := 1 } 0 = some m ∧ m.status = 0 ∧ m.pois = false) ∧
    (let m := { pendingLoad with phase := 2, status := 3 }
     answered { (core0 fun c => { c with bid := 1, run := .running, lsq := [m] }) with pcc := 1 } 0 = some m ∧ m.status ≠ 0) ∧
    ((waits 0 0).core 0).waita.isSome = true ∧ reads (waits 0 0) = some 0 ∧
    (∀ w, ((waits 0 0).core 0).waita = some w → w.bid < ((waits 0 0).core 0).bid ∧ w.holds 0 = true) ∧
    (∀ w, ((waits 1 1).core 0).waita = some w → w.holds 0 = false ∧ w.tout ≠ 0 ∧ w.issued + w.tout ≤ 1) ∧
    (∀ w, ((waits 1 0).core 0).waita = some w → w.holds 0 = false ∧ ¬ (w.tout ≠ 0)) ∧
    ovlReady (core0 fun c => { c with run := .running, ovlBusy := true, bid := 1, actions := [(0, .ovl 0 0x10000 0 0)] }) 0 = some (0, 0x10000, 0, 0) ∧
    (let l : RdcLine := { RdcLine.absent with filled := 0 }
     rdcFind [(0, l)] 0 = some l ∧ l.place.soft = false ∧ l.filled + 4096 ≤ 4096 ∧ 4095 < l.filled + 4096) := by decide +kernel

/-- One run of an entry: one quad, not yet started. -/
def oneRun : Gang :=
  { id := 0, inst := 0, quads := [0], idxs := [[0, 0, 0, 0, 0, 0]], temporal := 0, start := 0, started := false, nextAt := 0, ended := false,
    resumed := false, away := false, ctxs := [], dispatched := 0 }

/-- Slot 0 holds an entry. -/
def entry0 (f : Entry → Entry) : State := State.reset.modEntry 0 f

/-- Boundaries that begin and are held, a held one that opens, releases of both kinds, a grant, a failing and a completing entry. -/
theorem witness_Releases :
    boundaryDue State.reset = false ∧ heldOpenDue State.reset = false ∧ releaseDue State.reset 0 = false ∧
    (let s := { State.reset with framesOn := true }
     s.framesOn = true ∧ s.held = false ∧ s.dueAt ≤ s.ptp ∧ s.entries = []) ∧
    heldOpenDue { State.reset with held := true } = true ∧
    releaseDue { (entry0 fun e => { e with st := .waiting }) with framesOn := true } 0 = true ∧ imgNest ((entry0 fun e => { e with st := .waiting }).entry 0).image = false ∧
    (let s := entry0 fun e => { e with st := .released, image := BitVec.ofNat 512 (2 ^ 80), binding := [0] }
     ranking s = [0] ∧ s.explRunning = false ∧ (s.entry 0).st = .released ∧ (s.entry 0).failReq = none ∧ (s.entry 0).pooled = false ∧
     (s.entry 0).gangs = [] ∧ (∀ q ∈ (s.entry 0).targets, quadFree s q = true) ∧ imgPairs (s.entry 0).image = 0) ∧
    (let s := (entry0 fun e => { e with st := .released, image := BitVec.ofNat 512 (2 ^ 80), binding := [0] }).modCore 0 fun c => { c with ovlBusy := true }
     ranking s = [0] ∧ (s.entry 0).targets = [0] ∧ quadFree s 0 = false) ∧
    (let s := entry0 fun e => { e with st := .running, failReq := some (0, 2) }
     (s.entry 0).st ≠ .free ∧ (s.entry 0).failReq = some (0, 2)) ∧
    ((entry0 fun e => { e with st := .completing }).entry 0).st = .completing := by decide +kernel

/-- Each of the states a run passes through. -/
theorem witness_TaskRuns :
    oneRun.startDue 0 = true ∧ ({ oneRun with nextAt := 32, start := 32 } : Gang).nextDue 32 = true ∧
    ({ oneRun with nextAt := 32, start := 32 } : Gang).nextDue 31 = false ∧ ({ oneRun with resumed := true } : Gang).resumeDue 0 = true ∧
    oneRun.quads.Nodup ∧ oneRun.idxs.length = oneRun.quads.length ∧ (∀ w ∈ oneRun.idxs, w.length = 6) ∧
    (let s := (entry0 fun e => { e with st := .running, gangs := [oneRun] }).modCore 0 fun c => { c with tags := sset none [] 0 (some (0, 0)) }
     (s.entry 0).gang 0 = some oneRun ∧
     ∀ q ∈ oneRun.quads, sget none (s.core q).tags (s.core q).active = some (imgCode (s.entry 0).image, imgAsid (s.entry 0).image)) ∧
    (let s := entry0 fun e => { e with st := .running, gangs := [oneRun] }
     (s.core 0).planeOf 0 0 = none ∧ (overlayRead s 0 0 0 0).2.isNone = true ∧ (s.entry 0).st ≠ .free) ∧
    (let g := { oneRun with started := true }
     runDone (core0 fun c => { c with run := .ended }) g = true ∧ runDone (core0 fun c => { c with run := .running }) g = false ∧
     saveDue (core0 fun c => { c with run := .atRgn, preempt := true }) g = true ∧
     (saveQuads (core0 fun c => { c with run := .atRgn, preempt := true }) 0 [0]).2 = false) ∧
    (resumeQuads (acquireAll State.reset) 0 { oneRun with resumed := true } []).2 = true ∧
    (resumeQuads (acquireAll State.reset) 0 { oneRun with resumed := true } [(0, 0)]).2 = false := by decide +kernel

/-! ### Witnesses: quads, engines, stacks -/

/-- Cell 0 of quad 0 changed. -/
def cell0 (f : CellSt → CellSt) (g : CoreSt → CoreSt) : State := (core0 g).modCell 0 0 f

/-- A command of an instruction of cell 0 that its bundle has committed and that may start now. -/
def readyCmd (i : Instr) (live lock : Bool) : Cmd :=
  { commandOf State.reset (plainReq i 1 2 0 live) with lock := lock, start := 0, arrive := 0, bid := 0 }

/-- A queue with nothing to do; a quashed and a late command; an RPOP of spilled granules. -/
theorem witness_QuadEvents_queues :
    queueTurn State.reset 0 0 2 = .idle ∧
    (let k := readyCmd (.rseed anyER) false true
     queueTurn (cell0 (fun x => { x with qSf := [k] }) fun c => { c with bid := 1 }) 0 0 2 = .start k ∧ k.gtrue = false) ∧
    (let k := readyCmd (.rseed anyER) true false
     queueTurn { cell0 (fun x => { x with qSf := [k] }) (fun c => { c with bid := 1 }) with pcc := 1 } 0 0 2 = .timing k 1 0) ∧
    (let k := { readyCmd (.rpop anyEV) true true with resLen := 16 }
     queueTurn (cell0 (fun x => { x with qSf := [k], spilled := 16 }) fun c => { c with bid := 1, arch := (stacked 16 id).core 0 |>.arch }) 0 0 2 =
       .demand k) := by decide +kernel

/-- A timed row that has arrived. -/
def timedRow : Arrival := { due := 0, quad := 0, cell := 0, rank := 0, eff := .accRow 255 7 1, crosses := true }

/-- A port whose set has one element. -/
def onePort : QPort :=
  { QPort.unbound with bound := true, set := BitVec.ofNat 1024 (2 ^ 320 + 2 ^ 352 + 2 ^ 384 + 2 ^ 416) }

/-- A granule that no shrinking of its window can place. -/
def farGranule : WaitGranule := { pos := 2000000, val := 0, bundle := 7, queue := 2 }

/-- A row for lane 0 of quad 0, and a credit for it. -/
def laneRow : LaneMsg := { due := 0, quad := 0, lane := 0, row := some 7, crosses := false }

/-- Arrivals, rows of input and output ports, a hold and its end, spills, run-ahead and demand reads, lanes. -/
theorem witness_QuadEvents :
    firstArrival [timedRow] 0 0 = some timedRow ∧ (State.reset.core 0).hold = none ∧
    portReadDue State.reset 0 0 5 = false ∧
    (let s := cell0 (fun x => { x with qports := sset QPort.unbound x.qports 5 onePort }) id
     portReadDue s 0 0 5 = true ∧ ((s.cell 0 0).port 5).erc = false) ∧
    portWriteDue { cell0 (fun x => { x with qports := sset QPort.unbound x.qports 6 { onePort with held := [(0, 7, 1)] } }) id with pcc := 1 } 0 0 6 = true ∧
    (let s := cell0 (fun x => { x with waiting := [{ pos := 4, val := 0, bundle := 7, queue := 2 }] }) fun c => { c with arch := ((stacked 5 id).core 0).arch }
     holdDue s 0 0 = true ∧ holdHopeless s 0 0 = false) ∧
    (let s := cell0 (fun x => { x with waiting := [farGranule], reserved := [(0, 1), (1, 2000000)] })
       fun c => { c with arch := ((stacked 2000000 id).core 0).arch }
     holdDue s 0 0 = true ∧ holdHopeless s 0 0 = true ∧ (s.cell 0 0).waiting.head? = some farGranule) ∧
    (let s := cell0 id fun c => { c with hold := some { since := 0, cell := 0, when_ := 0, frame := 0 } }
     holdEndDue s 0 = true) ∧
    spillDue State.reset 0 0 = false ∧ aheadDue State.reset 0 0 = false ∧
    ({ (State.reset.cell 0 0) with batch := some { lo := 0, n := 16, done := true } } : CellSt).batch = some { lo := 0, n := 16, done := true } ∧
    laneDue { State.reset with laneMsgs := [laneRow] } 0 false = some laneRow ∧ (sget [] (State.reset.core 0).lanes 0).length < 16 ∧
    laneDue { State.reset with laneMsgs := [{ laneRow with row := none }] } 0 true = some { laneRow with row := none } := by decide +kernel

/-- A key slot that is valid. -/
def keyed (s : State) : State := { s with keys := sset none [] 0 (some 5) }

/-- A page for the engines of die 1, and stacks of 100 granules in 4-granule rings with work to spill and to read ahead. -/
theorem witness_QuadEvents_stacks :
    let arch (a : Arch) : Arch := { (stacked 100 (fun _ => a) |>.core 0 |>.arch) with
      rsWin := sset 0 [] 0 (BitVec.ofNat 29 (2 ^ 16 * 1)), rsHbm := sset 0 [] 0 (BitVec.ofNat 64 (2 ^ 48)), rsTop := sset 0 [] 0 100 }
    let task : Task := { slot := 0, run := 0, inst := 0, asid := 0, code := 0, start := 0, born := 0, lockAll := false, binding := [], gang := [], pairs := 0 }
    let s := keyed ((cell0 id fun c => { c with arch := arch c.arch, task := some task }).modDie 1 fun d => { d with tlb := [(0, 0, 2 ^ 21, 0x1F)] })
    spillDue s 0 0 = true ∧ (s.cell 0 0).spilled + batchSize s 0 0 ≤ (regs s).hbmSize 0 ∧
    (batchPages s 0 0 (s.cell 0 0).spilled (batchSize s 0 0)).2 = none := by decide +kernel

/-- A template that copies one row of 64 bytes from scratchpad 0 to scratchpad 1 of the quad, and its command. -/
def someBte : BteCmd :=
  { id := 0, tmpl := BitVec.ofNat 512 0, src := 0, dst := 0, idx := 0, quad := 0, asid := 0, task := 0, row := 0, off := 0, idxRow := some 0,
    walked := false, open_ := 0, dropped := false, ready := 0 }

/-- Channel 0 of the control die. -/
def chan0 (c : Channel) : State := State.reset.setChannel 0 0 c

/-- Commands in both spaces, parked chunks, finished and discarded commands. -/
theorem witness_CopyEngine :
    (State.reset.channel 0 0).queue = [] ∧ mustPark Channel.empty someBte.chunk = false ∧
    ((chan0 { Channel.empty with queue := [someBte] }).channel 0 0).queue = [someBte] ∧
    (match (performChunk (keyed State.reset) 0 0 { someBte.chunk with srcSpace := 1, dstSpace := 1, len := 64 }).2 with
      | .ok _ => true
      | .error _ => false) = true ∧
    (match (performChunk (keyed State.reset) 0 0 { someBte.chunk with srcSpace := 0, len := 64 }).2 with
      | .ok _ => false
      | .error _ => true) = true ∧
    completeDue State.reset 0 0 = false ∧ completeDue (chan0 { Channel.empty with done := [{ someBte with dropped := true }] }) 0 0 = true ∧
    (15 : Nat) < 16 ∧ ({ Channel.empty with parked := [.chunk someBte.chunk] } : Channel).find 0 = none ∧
    ({ Channel.empty with parked := [.chunk someBte.chunk], done := [someBte] } : Channel).find 0 = some someBte := by decide +kernel

/-- A copy of one row of 64 bytes from scratchpad 0 to scratchpad 1 of the quad, with its walk ended or not. -/
def padBte (walked : Bool) : BteCmd :=
  { someBte with tmpl := BitVec.ofNat 512 (2 ^ 60 + 2 ^ 122 + 2 ^ 124 + 64 * 2 ^ 192 + 2 ^ 224), walked := walked }

/-- What the clauses of CopyEngine on completion ask: a chunk between scratchpads at the head, commands whose walk has ended with no
word and with one of a scratchpad, such a chunk and such a word parked. -/
theorem witness_CopyEngine_completes :
    (let k := padBte false
     k.chunk.srcSpace = 1 ∧ k.chunk.dstSpace = 1 ∧ k.chunk.src + k.chunk.len ≤ 2 ^ 22 ∧ k.chunk.dst + k.chunk.len ≤ 2 ^ 22 ∧
     tmplKind k.tmpl ≠ 1 ∧ k.ready ≤ State.reset.pcc ∧ mustPark Channel.empty k.chunk = false ∧ Channel.empty.held = none ∧
     ({ Channel.empty with parked := [.chunk k.chunk], done := [padBte true] } : Channel).find k.chunk.cmd = some (padBte true)) ∧
    (let c : Channel := { Channel.empty with done := [padBte true] }
     c.ends = some (padBte true) ∧ c.heldWord 0 = false ∧ (padBte true).open_ = 0 ∧ (padBte true).dropped = false ∧
     (padBte true).word.spec = 0) ∧
    (let w : WordRef := { spec := 0x1000000000000008, val := 7, quad := 0, asid := 0 }
     w.spec ≠ 0 ∧ specLocal w.spec = true ∧ nfield w.spec 0 22 % 8 = 0 ∧
     ({ Channel.empty with parked := [.word w 0 none], done := [padBte true] } : Channel).find 0 = some (padBte true)) := by decide +kernel

/-- A transfer of 32 bytes from the control die to itself. -/
def someXfer : Xfer :=
  { rec_ := 0, seq := 0, fromDie := 0, toPkg := 0, toDie := 0, kind := 0, etype := 0, final := false, id := 0, shape := 0, quad := 0, asid := 0,
    task := 0, dst := 64, tag := none, data := List.replicate 32 7, pois := List.replicate 32 false, block := 0, bgen := 0, group := 0,
    size := 2, point := 0, port := 24, past := 0, flaw := none, acks := [] }

/-- A record of kind k and 32 bytes. -/
def someRec (k : Nat) : CeRec :=
  { id := 0, addr := 0, body := BitVec.ofNat 1536 (k + 2 ^ 16 + 2 ^ 48 + 32 * 2 ^ 96 + 2 ^ 1024), quad := 0, asid := 0, task := 0, cfg := 0,
    epts := [0], plan := [], vec := [0], walked := false, unacked := 0, status := 0, expect := [(0, 0)], lDone := false, gDone := false, gWait := false, rDone := false }

/-- Requests of each kind, a record on its walk, messages that arrive, park and miss. -/
theorem witness_CollectiveEngines :
    (let s := keyed (State.reset.modDie 0 fun x => { x with tlb := [(0, 0, 2 ^ 21, 0x1F)] })
     let rd := s.modDie 0 fun x => { x with ceRecs := [someRec 0] }
     walking s 0 = none ∧ (walking rd 0).isSome = true ∧ recKind (someRec 0).body ≠ 6 ∧ recPlain (someRec 0).body = false ∧
     stagingBytes rd 0 + recLen (someRec 0).body ≤ 2 ^ 21 ∧
     (let m := (someRec 0).transferAt (someRec 0).vec
      sourceBlocked rd 0 (someRec 0) m.2.1 m.2.2 m.1 = false) ∧ (rd.die 0).ceHeld = [] ∧ (rd.die 0).ceReady = [] ∧
     (someRec 0).vec.length = recNlev (someRec 0).body ∧
     (match (ceRead rd 0 0 18 ((someRec 0).transferAt (someRec 0).vec).2.1 32).2 with | .ok _ => true | .error _ => false) = true ∧
     (match (ceBytes s 0 0 0 192).2 with | some bs => !(recordOk (bitsOfBytes 1536 bs)) | none => false) = true) ∧
    (let s := keyed ({ State.reset with msgs := [.transfer someXfer] }.modDie 0 fun x => { x with tlb := [(0, 0, 2 ^ 21, 0x1F)] })
     arrivedXfer s 0 = some (someXfer, []) ∧ destBlocked s 0 someXfer = false ∧
     (match (performXfer { s with msgs := [] } 0 someXfer).2 with | .ok _ => true | .error _ => false) = true) ∧
    (let s : State := { State.reset with msgs := [.transfer someXfer] }
     arrivedXfer s 0 = some (someXfer, []) ∧ (match (performXfer { s with msgs := [] } 0 someXfer).2 with | .ok _ => false | .error _ => true) = true) ∧
    ([someXfer] : List Xfer)[State.reset.arg.b]? = some someXfer := by decide +kernel

/-- Acknowledgements, blocks of a coding group, packets that miss and decode, and fallbacks. -/
theorem witness_CollectiveEngines_messages :
    takeFirst (ackFor 0) [.ack 0 0 0 0 0 []] = some (.ack 0 0 0 0 0 [], []) ∧
    takeFirst (blockHere State.reset) [.block someXfer] = some (.block someXfer, []) ∧ behindDown State.reset 0 = false ∧ combineBytes State.reset + 32 ≤ 2 ^ 22 ∧
    (let p : Packet := { group := 0, data := [], pois := [], members := [(0, 0, 32, 0)], fallback := false }
     let s := State.reset.modDie 0 fun x => { x with ceRecs := [someRec 6] }
     bufferFree s 0 = true ∧ takeFirst (packetFor s 0) [.packet 0 p] = some (.packet 0 p, []) ∧ wantedBy s 0 p = some (someRec 6, (0, 0, 32, 0)) ∧
     (decodeWith s 0 [] [7]).2 = some [7] ∧ (decodeWith s 0 [(1, 0, 32, 0)] [7]).2 = none) ∧
    takeFirst (fallbackFor 0) [.fallback 0 0 0 1] = some (.fallback 0 0 0 1, []) := by decide +kernel

/-- A request of 32 bytes at address 0 of stack 0. -/
def someReq (op : Nat) : Req :=
  { id := 0, op := op, addr := 0, len := 32, key := 0, qos := 0, afn := 0, flt := false, die := 0, agent := 0, tag := 0, gen := 0, emask := 255,
    flush := false, pois := false, data := List.replicate 32 7, ben := List.replicate 32 true, since := 0, clock := [], acquire := false, pa := 0,
    home := 0, fill := false }

/-- A stack 0 with one request accepted. -/
def accepting (r : Req) : State := keyed (State.reset.modStack 0 fun x => { x with accepted := [r] })

/-- Each operation with status 0 and with another, at the last granule of the stack; a reduction's block of the least length. -/
theorem witness_StackWork :
    (∀ op ∈ ([0, 1, 2, 3, 4, 7] : List Nat), ((accepting (someReq op)).stack 0).accepted = [someReq op] ∧ reqStatus (accepting (someReq op)) (someReq op) = 0 ∧
      reqStatus (accepting (someReq op)) { someReq op with addr := 16 } = 2 ∧ (accepting (someReq op)).keyOf 0 = some 5) ∧
    inAperture (someReq 0).pa = false ∧ (2 ^ 36 - 32) + 32 ≤ 2 ^ 36 ∧
    (let b : BitVec 512 := BitVec.ofNat 512 (64 * 2 ^ 64 + 128 * 2 ^ 128 + 64 * 2 ^ 192 + 2 * 2 ^ 232)
     reduceOk b = true ∧ reduceOk 0 = false ∧ reduceKeys (keyed State.reset) b = true ∧ reduceKeys State.reset b = false ∧
     (0 : Nat) % 64 = 0 ∧ 0 < redLength b ∧ 0 + min 4096 (redLength b - 0) = redLength b ∧ redFlagged b = false) := by decide +kernel

/-- A request at the head of its class, one that has aged; reads, drains and starvation of a channel; batches of acknowledgements. -/
theorem witness_StackWork_units :
    grantDue State.reset 0 0 = false ∧
    (let x := { StackSt.reset with ingress := sset [] [] 1 [someReq 0] }
     x.fifo 1 = [someReq 0] ∧ agedClass State.reset x 0 = none ∧ grantClass State.reset x 0 = some 1 ∧
     agedClass { State.reset with wall := 48 * 2048 } x 0 = some 1 ∧ agedClass { State.reset with wall := 48 * 2048 - 1 } x 0 = none) ∧
    (let g : GranOp := { gran := 0, mask := 1, req := 0 }
     let c : ChanSt := { ChanSt.idle with wq := List.replicate 17 g, draining := true }
     c.wq.find? (drainable c) = some g ∧ (c.wq.erase g).length ≤ 16 ∧ ChanSt.idle.draining = false ∧ ChanSt.idle.starved = 0 ∧
     (let s := { (State.reset.modStack 0 fun x => { x with chans := sset ChanSt.idle [] 0 { c with rq := [g] } }) with wall := 48 * 512 }
      starvationDue s 0 0 = true ∧ ((s.stack 0).chan 0).rq ≠ [] ∧ 512 ≤ s.baseCycle - ((s.stack 0).chan 0).drainedAt ∧
      starvationDue { s with wall := 48 * 512 - 1 } 0 0 = false)) ∧
    (let r : RedDone := { die := 0, agent := 0, tag := 0, when_ := 0, failed := false, flush := false, home := 0, gen := 0, req := none }
     32 ≤ ((List.replicate 32 r).filter fun r => r.die == 0 && r.agent == 0 && r.req.isNone).length ∧ ({ r with flush := true } : RedDone).flush = true ∧
     64 ≤ ({ State.reset with wall := 48 * 64 } : State).baseCycle - r.when_) ∧
    logRoom 255 0 = true ∧ logRoom 256 0 = false ∧ sget false State.reset.poison 0 = false := by decide +kernel

/-- Words stored under the key of slot 0. -/
def storing (s : State) (l : List (Nat × Word)) : State :=
  l.foldl (fun s p => (List.range 8).foldl (fun s i => putByte s 5 (p.1 / 64) (p.1 + i) (p.2.extractLsb' (8 * i) 8)) s) s

/-- The tables of address space 0 map its first 2 MiB to the first of memory by the leaf given; a migration engine's block stands at
16 KiB with one command to move one page there. -/
def migrating (op pte : Nat) : State :=
  let s : State := { (keyed State.reset) with astBase := 0x8000 }
  let s1 := storing s [(0x8000, 0x1001), (0x1000, 0x2001), (0x2000, 0x3001), (0x3000, BitVec.ofNat 64 pte), (0x4000, BitVec.ofNat 64 (op + 2 ^ 32)), (0x8004, 0)]
  s1.modStack 0 fun x => { x with migBase := 0x4000, migProd := some 1 }

/-- A migration taken up. -/
def someMigration (op : Nat) : Migration :=
  { number := 0, cmd := BitVec.ofNat 512 (op + 2 ^ 32), va := 0, target := 0, handled := 0, completed := 0, status := 0, moving := none }

/-- Commands of each operation; pages that do not translate, cannot move, and can; the last page handled. -/
theorem witness_MigrationAndSearch_pages :
    pollDue State.reset 0 = false ∧ pollDue (migrating 1 0xF) 0 = true ∧ migAt 0 (migrating 1 0xF) + 0x5000 ≤ 2 ^ 40 ∧
    (∀ op ∈ ([0, 1, 2, 3, 4] : List Nat), nextCommand (migrating op 0xF) 0 = some 0 ∧ mcOp (commandBytes (migrating op 0xF) 0 0) = op) ∧
    ((migrating 1 0xF).stack 0).migration = none ∧ mcPages (someMigration 1).cmd = 1 ∧ (someMigration 1).handled < 1 ∧
    (migrating 1 0xF).keyOf (migKey 0 (migrating 1 0xF)) ≠ none ∧
    (migrating 1 0).walk 0 0 = .fail 1 0 ∧ (migrating 2 0xF).walk 0 0 = .leaf 0xF 2 0x3000 ∧
    leafKind ((0xF : Word) &&& ~~~((1 : Word) <<< 53) &&& ~~~((1 : Word) <<< 62)) 2 ≠ 2 ∧ (0xF : Word).getLsbD 0 = true ∧
    (0xF : Word).getLsbD 53 = decide (2 = 1) ∧
    (let pte : Word := 0x2000000000000F
     (migrating 2 pte.toNat).walk 0 0 = .leaf pte 2 0x3000 ∧ pte.getLsbD 53 = true ∧
     (swapPte (migrating 2 pte.toNat) 1 (tableKey (migrating 2 pte.toNat) 0) 0x3000 pte (pteMoving pte)).isSome = true) := by decide +kernel

/-- A query of one entry that stands between rounds. -/
def someQuery (c w : List (Nat × Nat)) : Query :=
  { id := 0, block := BitVec.ofNat 1024 (2 ^ 576 + 2 ^ 592 + 2 ^ 608 + 3 * 2 ^ 640), desc := 0, vec := [], c := c, w := w, seen := [], bloom := none,
    visited := 0, rounds := 0, nan := false, phase := 0, entered := true, popped := [], lists := [], news := [], dists := [], waiting := 0,
    fail := none, status := none, bad := 0 }

/-- A graph of one node of 32 elements in memory, and a query of it that carries its vector. -/
theorem witness_MigrationAndSearch_open :
    let s := storing (keyed State.reset) [(0x1000, BitVec.ofNat 64 (32 * 2 ^ 16 + 4 * 2 ^ 32 + 2 ^ 48)), (0x1008, 0), (0x1010, BitVec.ofNat 64 (4096 + 2 ^ 32)), (0x1018, 0)]
    let b : BitVec 1024 := BitVec.ofNat 1024 (0x1000 + (2 ^ 192 - 1) * 2 ^ 384 + 2 ^ 576 + 2 ^ 592 + 2 ^ 608 + 2 ^ 624)
    (match (openQuery s 0 b (List.replicate 64 0)).2 with | .ok _ => true | .error _ => false) = true := by decide +kernel

/-- Rounds: no candidate, a full result, the round limit, a round that opens; a query that is over. -/
theorem witness_MigrationAndSearch_rounds :
    let done := someQuery [(9, 1)] [(3, 2)]
    let s (q : Query) := State.reset.modStack 0 fun x => { x with queries := [q] }
    (s done).query 0 0 = some done ∧ done.status = none ∧ done.waiting = 0 ∧ done.phase = 0 ∧ done.entered = true ∧
    (someQuery [] []).c = [] ∧ done.w.length = qEf done.block ∧ keyBefore (3, 2) (9, 1) = true ∧
    qRmax done.block = 3 ∧ ({ done with rounds := 3 } : Query).rounds = qRmax done.block ∧ ({ done with rounds := 2 } : Query).rounds ≠ qRmax done.block ∧
    1 ≤ qW done.block ∧ (someQuery [(9, 1)] []).w.length ≠ qEf done.block ∧
    (s { done with status := some 0 }).query 0 0 = some { done with status := some 0 } ∧
    (State.reset.keyOf (nfield (qDst done.block) 52 7) = none ∧ nfield (qDst done.block) 0 52 + 64 ≤ 2 ^ 40) := by decide +kernel

/-! ### Single steps, against the spec's examples and hand calculation -/

/-- Core 0 with x5 = a and x9 = b. -/
def with5and9 (a b : Word) : State := arch0 fun r => { r with x := sset 0 (sset 0 r.x 5 a) 9 b }

/-- Register n of core 0 once every result of a slot has been written. -/
def result (i : Instr) (s : State) (n : Nat) : Word :=
  match exec i s with
  | .next t => ((applyDue { t with pcc := t.pcc + 64 } 0).core 0).arch.rx n
  | _ => 0

/-- Bit 0 and bit 511 of predicate n likewise. -/
def resultP (i : Instr) (s : State) (n : Nat) : Bool × Bool :=
  match exec i s with
  | .next t => let p := ((applyDue { t with pcc := t.pcc + 64 } 0).core 0).arch.rp n; (p.getLsbD 0, p.getLsbD 511)
  | _ => (false, false)

/-- x7 from x5 and x9. -/
def op59 (mk : SR → Instr) (a b : Word) : Word := result (mk { anySR with a := 5, b := 9, d := 7 }) (with5and9 a b) 7

/-- The table of R309 (x5 = 1, x9 = 2) and sums that wrap. -/
theorem test_add_wraps : op59 .add 1 2 = 3 ∧ op59 .orx 1 2 = 3 ∧ op59 .add 0xFFFFFFFFFFFFFFFF 2 = 1 ∧ op59 .sub 0 1 = 0xFFFFFFFFFFFFFFFF := by
  decide +kernel

/-- −1 × −1 signed and unsigned, and −2^63 × 2 (R316). -/
theorem test_mul_high : op59 .mulh 0xFFFFFFFFFFFFFFFF 0xFFFFFFFFFFFFFFFF = 0 ∧ op59 .mulhn 0xFFFFFFFFFFFFFFFF 0xFFFFFFFFFFFFFFFF = 0xFFFFFFFFFFFFFFFE ∧
    op59 .mulh 0x8000000000000000 2 = 0xFFFFFFFFFFFFFFFF ∧ op59 .mul 3 0xFFFFFFFFFFFFFFFF = 0xFFFFFFFFFFFFFFFD := by decide +kernel

/-- The branches of R317's functions: −7 by 2, by zero, and −2^63 by −1. -/
theorem test_div_corners : op59 .div 0xFFFFFFFFFFFFFFF9 2 = 0xFFFFFFFFFFFFFFFD ∧ op59 .rem 0xFFFFFFFFFFFFFFF9 2 = 0xFFFFFFFFFFFFFFFF ∧
    op59 .div 7 0 = 0xFFFFFFFFFFFFFFFF ∧ op59 .rem 7 0 = 7 ∧ op59 .divn 7 0 = 0xFFFFFFFFFFFFFFFF ∧ op59 .remn 7 0 = 7 ∧
    op59 .div 0x8000000000000000 0xFFFFFFFFFFFFFFFF = 0x8000000000000000 ∧ op59 .rem 0x8000000000000000 0xFFFFFFFFFFFFFFFF = 0 ∧
    op59 .divn 0xFFFFFFFFFFFFFFF9 2 = 0x7FFFFFFFFFFFFFFC := by decide +kernel

/-- Shifts use b[5:0]; counts of zero (R316). -/
theorem test_shift_count : op59 .shl 1 64 = 1 ∧ op59 .shl 1 63 = 0x8000000000000000 ∧ op59 .sra 0x8000000000000000 63 = 0xFFFFFFFFFFFFFFFF ∧
    op59 .rot 0x8000000000000001 1 = 3 ∧ op59 .rot 5 64 = 5 ∧ op59 .clz 0 9 = 64 ∧ op59 .ctz 0 9 = 64 ∧ op59 .clz 1 9 = 63 ∧
    op59 .ctz 8 9 = 3 ∧ op59 .popc 0xF0F 9 = 8 := by decide +kernel

theorem test_min_max_signs : op59 .min 0xFFFFFFFFFFFFFFFF 1 = 0xFFFFFFFFFFFFFFFF ∧ op59 .minn 0xFFFFFFFFFFFFFFFF 1 = 1 ∧
    op59 .max 0xFFFFFFFFFFFFFFFF 1 = 1 ∧ op59 .maxn 0xFFFFFFFFFFFFFFFF 1 = 0xFFFFFFFFFFFFFFFF := by decide +kernel

/-- A field of 8 bits at 60 keeps 4 (R318). -/
theorem test_ext_past_bit63 :
    result (.ext { anySR with fn := 7, b := 60, a := 5, d := 7 }) (with5and9 0x9000000000000000 0) 7 = 0xFFFFFFFFFFFFFFF9 ∧
    result (.extn { anySR with fn := 7, b := 60, a := 5, d := 7 }) (with5and9 0x9000000000000000 0) 7 = 9 ∧
    result (.ins { anySR with fn := 3, b := 4, a := 5, d := 9 }) (with5and9 0xAB 0xFFF) 9 = 0xFBF := by decide +kernel

/-- The example of R321: li x7, 0 and then lih x7, 0x48D. -/
theorem test_lih_example : result (.lih { imm := 0x48D, d := 7 }) State.reset 7 = 0x1234000000 ∧
    result (.li { imm := 0x2000000, d := 7 }) State.reset 7 = 0xFFFFFFFFFE000000 := by decide +kernel

/-- PCMPI.lt with −1 is signed, PCMPI.ltn takes 16,383 (R322). -/
theorem test_pcmpi_immediates : resultP (.pcmpiLt { anySI with imm := 0x3FFF, a := 5, d := 7 }) (with5and9 0 0) 7 = (false, false) ∧
    resultP (.pcmpiLtn { anySI with imm := 0x3FFF, a := 5, d := 7 }) (with5and9 0 0) 7 = (true, true) ∧
    resultP (.pcmp { anySR with fn := 0xF4, a := 5, b := 9, d := 39 }) (with5and9 1 0xFFFFFFFFFFFFFFFF) 7 = (true, true) := by decide +kernel

/-- PLOG.andn, code 0b0100 of R323, of p0 and p2. -/
theorem test_plog_andn : resultP (.plog { anySR with fn := 4, a := 0, b := 2, d := 7 }) State.reset 7 = (true, true) ∧
    resultP (.plog { anySR with fn := 4, a := 2, b := 0, d := 7 }) State.reset 7 = (false, false) := by decide +kernel

/-- 1 + 1, 1 ÷ −0, the square root of −1 and 2.0 in bf16 and f16 (R325 to R328). -/
theorem test_scalar_float : op59 .fadd 0x3F800000 0xFFFFFFFF3F800000 = 0x40000000 ∧ op59 .fdiv 0x3F800000 0x80000000 = 0xFF800000 ∧
    op59 .fsqrt 0xBF800000 0 = 0x7FC00000 ∧ result (.fadd { anySR with fn := 8, a := 5, b := 9, d := 7 }) (with5and9 0x3F80 0x3F80) 7 = 0x4000 ∧
    result (.fcvt { anySR with fn := 0x40, a := 5, d := 7 }) (with5and9 0x40000000 0) 7 = 0x4000 ∧
    result (.fcvt { anySR with fn := 0x60, a := 5, d := 7 }) (with5and9 0xBF800000 0) 7 = 0xFFFFFFFFFFFFFFFF := by decide +kernel

/-- The table of R209. -/
theorem test_rounding_table :
    let r (f : Fmt) (m : RMode) (x : Nat) : Nat := (f.ofVal m true (Fmt.f32.decode x) 0).1
    (r .e2m1 .rne 0x40200000, r .e2m1 .rna 0x40200000, r .e2m1 .rtz 0x40200000) = (4, 5, 4) ∧
    (r .e2m1 .rne 0x40A00000, r .e2m1 .rna 0x40A00000, r .e2m1 .rtz 0x40A00000) = (6, 7, 6) ∧
    (r .e2m1 .rne 0xBE4CCCCD, r .e2m1 .rna 0xBE4CCCCD, r .e2m1 .rtz 0xBE4CCCCD) = (8, 8, 8) := by decide +kernel

/-- A branch wraps modulo 2,048 (R329). -/
theorem test_br_wraps : (match exec (.br { anySI with imm := 5 }) (arch0 fun a => { a with pc := 2045 }) with
    | .next t => (t.core 0).taken
    | _ => none) = some 2 := by decide +kernel

/-- The slot values chapter 14 works out: ldw.bp x6, 8(x7) and fence.rel.pkg. -/
theorem test_memory_words : decodeSlot .b 0x000091C644 = .ldw { anySI with imm := 9, a := 7, d := 6 } ∧
    decodeSlot .b 0x1100000063 = .fenceRel { anySR with fn := 0x11 } := by decide

/-- A store to the window and a load of it, sign and zero (R347). -/
theorem test_ldm_bytes :
    let s := with5and9 0xFFFFF00000000008 0x80
    let stored : State := match exec (.stb { anySI with a := 5, d := 9 }) s with
      | .next t => applyDue { t with pcc := t.pcc + 1 } 0
      | _ => s
    result (.ldb { anySI with a := 5, d := 7 }) stored 7 = 0xFFFFFFFFFFFFFF80 ∧
    result (.ldbn { anySI with a := 5, d := 7 }) stored 7 = 0x80 ∧ result (.ldd { anySI with a := 5, d := 7 }) stored 7 = 0x80 := by decide +kernel

/-- A misaligned load traps with ALIGN, an illegal opcode with ILL; both leave their cause (R272, R345). -/
theorem test_traps_cause :
    let cause (i : Instr) (s : State) : Nat := match exec i s with
      | .next t => match (t.core 0).trapReq with
        | some r => r.cause
        | none => nfield (t.core 0).arch.tcause 0 5
      | _ => 99
    cause (.ldh { anySI with a := 5 }) (with5and9 0xFFFFF00000000001 0) = 3 ∧ cause (.unassignedOpcode 0x2A) State.reset = 1 ∧
    cause (.tret anySI) State.reset = 2 := by decide +kernel

/-- KEYDATA is write-only and reads zero (R6); PCC of die 9 reads as it stands (R19). -/
theorem test_host_reads :
    let s (o : Nat) : State := { State.reset with bootState := 2, keyData := BitVec.allOnes 512, pcc := 0x0102, hostAsks := [.read 0 o 8] }
    (nextOf (step (s 0x3100))).map State.hostOut = some [.register 0 0x3100 [0, 0, 0, 0, 0, 0, 0, 0]] ∧
    (nextOf (step (s 0x01900000))).map State.hostOut = some [.register 0 0x01900000 [2, 1, 0, 0, 0, 0, 0, 0]] := by decide +kernel

/-- With the links of the standard package the hop sums are those of the table of R14. -/
theorem test_standard_latency :
    let l := computedLat ((List.range 10).map fun d => (lanes d).map fun x => (x.1, x.2, Config.standardHop d x.2))
    l 0 9 = 16 ∧ l 0 3 = 20 ∧ l 9 8 = 38 ∧ l 1 2 = 12 ∧ l 1 8 = 12 ∧ l 1 3 = 26 ∧ l 8 4 = 42 ∧ l 5 5 = 0 := by decide +kernel

/-! ### Witnesses: the windows of the BTE, waits, walks, messages -/

/-- Core 0 with x1 holding an address, and one template everywhere it is named. -/
def atWindow (a : Word) (t : BitVec 512) : State :=
  (arch0 fun r => { r with x := sset 0 r.x 1 a }).modDie (quadDie 0) fun x => { x with templates := sset 0 (sset 0 [] 0 t) 255 t }

/-- The last template word and the last go word of the windows, a template whose slot is valid and one that is well formed (R367, R368). -/
theorem witness_LocalAccess_windows :
    (let s := atWindow 0xFFFFF10000013FF8 0
     (255 : Nat) < 256 ∧ (7 : Nat) < 8 ∧ ((regs s).rx 1).toNat = 0xFFFFF10000010000 + 64 * 255 + 8 * 7 ∧
     Runs s (.ldd { anySI with a := 1 }) ∧ Runs s (.std { anySI with a := 1 }) ∧ Runs s (.stw { anySI with a := 1 }) ∧
     0xFFFFF10000010000 ≤ ((regs s).rx 1).toNat ∧ ((regs s).rx 1).toNat < 0xFFFFF10000014000) ∧
    (let t := (padBte false).tmpl
     let s := atWindow 0xFFFFF10000000F00 t
     (15 : Nat) < 16 ∧ ((regs s).rx 1).toNat = 0xFFFFF10000000000 + 0x100 * 15 ∧ Runs s (.std { anySI with a := 1 }) ∧
     ((regs s).rx 1).toNat % 256 = 0 ∧ nfield ((regs s).rx 0) 0 8 = 0 ∧ t.getLsbD 463 = false ∧ goOk t 0 = true ∧ goOk 0 0 = false ∧
     (BitVec.ofNat 512 (2 ^ 463)).getLsbD 463 = true ∧ (4 : Nat) ≤ 15) ∧
    tmplSpace (tmplSrc 0) = 0 ∧ tmplSpace (tmplDst 0) = 0 ∧ tmplKind 0 = 0 := by
  unfold Runs
  decide +kernel

/-- A core that waits at a fence of a kind, of the bundle before the one it would issue. -/
def fenced (kind : Nat) (f : CoreSt → CoreSt) : State :=
  core0 fun c => f { c with run := .running, bid := 2, sync := some (.fence kind 1 1) }

/-- For each kind something older that is under way, and nothing; REDs of which one failed. -/
theorem witness_FencesAndWaits_ends :
    (∀ kind ∈ ([0, 1, 2, 4] : List Nat), let c := (fenced kind fun c => { c with lsq := [pendingLoad] }).core 0
      c.sync = some (.fence kind 1 1) ∧
      ∃ m ∈ c.lsq, m.bid < 1 ∧ m.kind = .load ∧ m.kind ≠ .tmpl ∧ m.phase < 2 ∧ m.kind ≠ .red) ∧
    ((fenced 3 fun c => { c with redIssued := [(0, 2)], redAcked := [(0, 1)] }).core 0).redIssued ≠ ((fenced 3 fun c => { c with redIssued := [(0, 2)], redAcked := [(0, 1)] }).core 0).redAcked ∧
    (let c := (fenced 3 id).core 0
     c.lsq = [] ∧ c.actions = [] ∧ c.redIssued = c.redAcked ∧ 1 < c.bid ∧ c.rfail = 0) ∧
    (let c := (fenced 3 fun c => { c with rfail := 1 }).core 0
     c.rfail ≠ 0 ∧ c.lsq = [] ∧ c.redIssued = c.redAcked ∧ c.trapReq = none) := by decide +kernel

/-- SYSW of sr.rqctl with release and with neither, outside a walk; LOOPX quashed. -/
theorem witness_SystemAccess_rqctl :
    (let s := arch0 fun a => { a with x := sset 0 a.x 1 0x20 }
     Runs s (.sysw { anySI with imm := 0x17, a := 1 }) ∧ (regs s).walking = false ∧ ((regs s).rx 1).getLsbD 5 = true ∧
     ((0x17 : BitVec 14).extractLsb' 0 12).toNat = 0x17 ∧ ((regs s).rx 0).getLsbD 5 = false) ∧
    (let f : SI := { anySI with imm := 2047, ng := 1 }
     f.imm.toNat % 2048 ≠ 0 ∧ admitted State.reset (.loopx f) false = true ∧ liveGuard State.reset (.loopx f) = false) := by
  unfold Runs
  decide +kernel

/-- A walk of the span of bundles 3 to 4 by REV of bundle 9, at one of its phases. -/
def someWalk (phase : Nat) (recompute : Bool) : RevWalk :=
  { revBundle := 9, spend := 4, first := 3, recompute := recompute, phase := phase, pos := 0, opening := [], seedAt := [], fmts := [],
    keepLog := [], taken := none, idle := 0, key := none, ending := false }

/-- Core 0 in that walk. -/
def inWalk (w : RevWalk) (d : BitVec 1024) (f : CoreSt → CoreSt) : State :=
  (stacked 2 fun a => { a with rvs := 0x804, spanDesc := d, pc := 9 }).modCore 0 fun c => f { c with rev := some w }

/-- Walks accepted, one that recomputes and one that does not. -/
theorem witness_ReverseStarts_walk :
    ∀ b ∈ ([false, true] : List Bool), let s := inWalk (someWalk 2 b) 0 id
      (regs s).walking = true ∧ (s.core 0).rev = some (someWalk 2 b) ∧ admitted s (.rev anyEI) true = true ∧
      (match (restoreCells s 0 (s.core 0).arch.spanDesc (someWalk 2 b).opening [0, 1, 2, 3]).2 with | none => true | some _ => false) = true := by
  decide +kernel

/-- A deferred trap due before the next bundle of a replay. -/
theorem witness_DeferredTrap_inWalk :
    let s := inWalk (someWalk 0 true) 0 fun c => { c with run := .running, deferred := [softTrap 12], arch := { c.arch with pc := 3 } }
    s.arg.a = 0 ∧ firstDeferred (s.core 0).deferred = some (softTrap 12) ∧ deferredDue s 0 = true ∧ (s.core 0).arch.walking = true ∧
    nextWalked (s.core 0) = 3 := by decide +kernel

/-- Naks: what stands after the flit named was replayed fewer than 16 times, or 16 times; the same where none is named. -/
theorem witness_LinksAndExploration_naks :
    let l : List (BitVec 1024) := [7, 8]
    let s (n : Nat) := { (State.reset.modPort 0 fun v => { v with replay := l, replays := [0, n] }) with arg := { EvArg.none with b := 7 } }
    ((s 15).port 0).up = true ∧ (((s 15).port 0).replay.findIdx? fun g => flitSeq g == (s 15).arg.b) = some 0 ∧
    (0 + 1 < ((s 15).port 0).replay.length) ∧ (∀ n ∈ ((s 15).port 0).replays.drop (0 + 1), n < 16) ∧
    (∃ n ∈ ((s 16).port 0).replays.drop (0 + 1), 16 ≤ n) ∧ (∀ n ∈ ((s 15).port 0).replays, n < 16) ∧
    (((s 15).port 0).replay.findIdx? fun g => flitSeq g == 6) = none := by decide +kernel

/-- A transfer of a kind at a die whose TLB holds the page of its destination. -/
def landing (kind etype : Nat) : State :=
  keyed ({ State.reset with msgs := [.transfer { someXfer with kind := kind, etype := etype }] }.modDie 0 fun x => { x with tlb := [(0, 0, 2 ^ 21, 0x1F)] })

/-- A copy and a sum of i32 elements. -/
theorem witness_CollectiveEngines_values :
    ∀ k ∈ ([(0, 0), (1, 3)] : List (Nat × Nat)),
      let s := landing k.1 k.2
      let m := { someXfer with kind := k.1, etype := k.2 }
      s.arg.bytes = [] ∧ arrivedXfer s 0 = some (m, []) ∧ destBlocked s 0 m = false ∧ (s.die 0).ceRecs = [] ∧ (s.die 0).rdc = [] ∧
      (s.die 0).late = none ∧ tlbFind (s.die 0).tlb m.asid m.dst = some (0, 0, 2 ^ 21, 0x1F) ∧ rightsOk 0x1F 1 = true ∧ rightsOk 0x1F 2 = true ∧
      s.poison = [] ∧ (∀ b ∈ m.pois, b = false) ∧ m.dst % 4096 + m.data.length ≤ 4096 ∧ m.data.length % 4 = 0 ∧
      (leafPlace 0x1F (2 ^ 21) m.dst).pa + m.data.length ≤ 2 ^ 40 ∧ s.keyOf (leafPlace 0x1F (2 ^ 21) m.dst).key = some 5 := by decide +kernel

/-- A record that expects one block, of 32 bytes to address 64. -/
def joiner : CeRec := { someRec 6 with plan := [BitVec.ofNat 512 (32 * 2 ^ 208 + 64 * 2 ^ 256)] }

/-- A packet of two blocks. -/
def pair : Packet :=
  { group := 0, data := List.replicate 32 3, pois := List.replicate 32 false, members := [(0, 0, 32, 0), (1, 0, 32, 0)], fallback := false }

/-- Die 0 with the record, one block of the packet at hand and the packet on its way. -/
def decoding : State :=
  keyed ({ State.reset with msgs := [.packet 0 pair] }.modDie 0 fun x => { x with ceRecs := [joiner], tlb := [(0, 0, 2 ^ 21, 0x1F)], sideInfo := [{ id := 1, gen := 0, va := 128, asid := 0, len := 32, pin := false }] })

/-- The state once the block at hand has been read. -/
def sideRead : State := (sideBytes { decoding with msgs := [] } 0 1 0).1

/-- A packet of two members, one wanted and one at hand. -/
theorem witness_CollectiveEngines_decode :
    (bufferFree decoding 0 = true ∧ takeFirst (packetFor decoding 0) decoding.msgs = some (.packet 0 pair, []) ∧
     wantedBy decoding 0 pair = some (joiner, (0, 0, 32, 0)) ∧ pair.members.erase (0, 0, 32, 0) = [(1, 0, 32, 0)] ∧
     (sideBytes { decoding with msgs := [] } 0 1 0).2.isSome = true ∧ decoding.ceParked 0 = [] ∧ (decoding.die 0).ceRecs = [joiner]) := by decide +kernel

/-- The rest of what the decode of that packet asks. -/
theorem witness_CollectiveEngines_decoded :
    (joiner.walked = false ∧ recRword joiner.body = 0 ∧ memVa (joiner.member 0 0) = 64 ∧ joiner.dieOfRank decoding (memSrc (joiner.member 0 0)) < 16) ∧
    ((sideRead.die 0).rdc = [] ∧ (sideRead.die 0).late = none ∧ tlbFind (sideRead.die 0).tlb joiner.asid 64 = some (0, 0, 2 ^ 21, 0x1F) ∧
     sideRead.keyOf (leafPlace 0x1F (2 ^ 21) 64).key = some 5) ∧
    (∀ y ∈ pair.pois, y = false) ∧ (32 : Nat) ≤ pair.data.length ∧ (leafPlace 0x1F (2 ^ 21) 64).pa + 32 ≤ 2 ^ 40 := by decide +kernel

/-- REDs of which one still waits for its granule; a granule that a page of another home mode holds, and one that none does. -/
theorem witness_StackWork_reds :
    let r (q : Option Nat) : RedDone := { die := 0, agent := 0, tag := 0, when_ := 0, failed := false, flush := true, home := 0, gen := 0, req := q }
    ([r (some 3), r none].filter fun r => r.die == 0 && r.agent == 0 && r.req.isNone) = [r none] ∧ (r none).flush = true ∧
    (r (some 3)).req = some ({ gran := 0, mask := 1, req := 3 } : GranOp).req ∧ sget none State.reset.keyTag 5 = none ∧
    (let s := { State.reset with keyTag := sset none [] 5 (some (7, 9)) }
     (sget none s.keyTag 5).map (fun y => 64 * y.2) = some 576) := by decide +kernel

/-- A WAITA whose read goes unanswered, before the limit and at it; the act that tells so, of a WAITA and of an engine. -/
theorem witness_Replies_lost :
    (let w (t : Nat) : Waita := { bid := 0, bundle := 0, spec := 64, place := { pa := 64, key := 0, home := 0, soft := false }, cmp := 0, cond := 0, wide := true, scope := 0, dst := 5, tout := 0, issued := 0, nextRead := 0, lost := some t }
     let s (t : Nat) := { (core0 fun c => { c with bid := 1, run := .running, waita := some (w t) }) with pcc := 0x01000000, arg := { EvArg.none with b := waitaTag } }
     waitaReads (s 0) 0 = true ∧ (w 0).late (s 0) = true ∧ (w 1).late (s 1) = false ∧ specLocal (w 0).spec = false ∧ (s 0).arg.b = waitaTag) ∧
    (256 : Nat) ≤ 256 + 9 := by decide +kernel

/-- A line of the control die's cache that gwyn shows. -/
theorem witness_MonitorAndAttestation_line :
    let l : RdcLine := { RdcLine.absent with filled := 0 }
    let s := (mapped 7 id).modDie 0 fun x => { x with rdc := [(1, l)] }
    (match (translate s (.core 0) (s.core 0).asid 160 0).2 with | .ok p => decide (p.pa = 160) | .error _ => false) = true ∧
    rdcFind (s.die 0).rdc (160 / 128) = some l ∧ 160 % 128 + 12 * 64 / 8 ≤ 128 ∧
    ({ EvArg.none with view := .generator 15 } : EvArg).view = .generator 15 ∧ (([0, 0, 1, 1] : List Byte)[2]?).getD 0 = 1 := by decide +kernel

/-- Memory of a migration of one 4 KiB page, whose entry in the last table is the leaf given; its object record says flags. -/
def moving4K (op pte flags : Nat) : State :=
  let s : State := { (keyed State.reset) with astBase := 0x8000 }
  let s1 := storing s [(0x8000, 0x1001), (0x1000, 0x2001), (0x2000, 0x3001), (0x3000, 0x6001), (0x6000, BitVec.ofNat 64 pte),
    (0x4000, BitVec.ofNat 64 (op + 2 ^ 32)), (0x8004, 0), (0x9010, BitVec.ofNat 64 (flags * 2 ^ 24))]
  s1.modStack 0 fun x => { x with migBase := 0x4000, migProd := some 1 }

/-- A migration of that page whose target is the start of the far tier. -/
def migration4K (op : Nat) (m : Option (Word × Nat × Nat × Nat)) : Migration :=
  { number := 0, cmd := BitVec.ofNat 512 (op + 2 ^ 32 + 2 ^ 128 * 2 ^ 40 + 2 ^ 192 * 0x9000), va := 0, target := if op = 1 then 2 ^ 40 else 0x20000,
    handled := 0, completed := 0, status := 0, moving := m }

/-- Pages to far, fetched and back; one that is pinned; entries that can be swapped and that have changed. -/
theorem witness_MigrationAndSearch_moves :
    (let pte : Word := 0xF
     let s := moving4K 1 0xF 0
     (∀ d < 10, (s.die d).rdc = []) ∧ migAt 0 s ≠ 0 ∧ s.walk 0 0 = .leaf pte 3 0x6000 ∧ pte.getLsbD 53 = false ∧
     (objectRecord s 0 (migration4K 1 none).cmd).2 / 2 % 2 = 0 ∧ (objectRecord (moving4K 1 0xF 2) 0 (migration4K 1 none).cmd).2 / 2 % 2 = 1 ∧
     (swapPte s 1 (tableKey s 0) 0x6000 pte (pteMoving pte)).isSome = true ∧
     leafKind (pte &&& ~~~((1 : Word) <<< 53) &&& ~~~((1 : Word) <<< 62)) 3 ≠ 2) ∧
    (let pte : Word := 0xF
     let s := moving4K 1 (pteMoving pte).toNat 0
     let m := migration4K 1 (some (pte, 0x6000, tableKey s 0, 3))
     rangeBusy s 0 4096 = false ∧ leafSize 3 false = 4096 ∧ s.keyOf (nfield pte 55 7) = some 5 ∧ s.keyOf (mcTargetKey m.cmd) = some 5 ∧
     (objectRecord s 0 m.cmd).2 % 2 = 0 ∧ inFar (2 ^ 40) = true ∧ inFar (2 ^ 40 + 4096 - 1) = true ∧
     (swapPte s 1 (tableKey s 0) 0x6000 (pteMoving pte) (pteMoved pte true false (2 ^ 40) 0 0)).isSome = true ∧
     (swapPte s 1 (tableKey s 0) 0x6000 pte (pteMoved pte true false (2 ^ 40) 0 0)).isSome = false) ∧
    (let pte : Word := 0x2000000000000F
     pte.getLsbD 53 = true ∧ pte.getLsbD 62 = false ∧ (0x20000 + 4096 : Nat) ≤ 2 ^ 40 ∧ mcTargetHome (migration4K 2 none).cmd < 3) ∧
    ((2 ^ 40 : Nat) < 2 ^ 52 ∧ 2 ^ 40 % 4096 = 0) := by decide +kernel

/-- A graph record of list length 1 and a vector of 32 elements, two stacks' ids; a round's distances that pass and that fail the test of
R115; a finished query with a place for its result and its flag. -/
theorem witness_MigrationAndSearch_results :
    (let g : BitVec 512 := BitVec.ofNat 512 (32 * 2 ^ 16 + 4 * 2 ^ 32 + 2 ^ 48 + 4096 * 2 ^ 64 + 256 * 2 ^ 128 + 2 ^ 160)
     let s := storing (keyed State.reset) [(0x1000, 0x101)]
     (match readNode s g 0 with | .ok (l, v) => l == [0] && v.length == 64 | .error _ => false) = true ∧ s.keyOf (gKey g) = some 5) ∧
    (let two : Nat := 2 * 2 ^ 592
     let b : BitVec 1024 := BitVec.ofNat 1024 (2 ^ 576 + two + 2 ^ 608 + 0x2000 * 2 ^ 64 + 0x3000 * 2 ^ 128)
     let q : Query := { someQuery [(9, 1)] [(3, 2)] with block := b, phase := 2, popped := [1], dists := [(5, 4)] }
     let s := keyed (State.reset.modStack 0 fun x => { x with queries := [q] })
     s.query 0 0 = some q ∧ q.status = none ∧ q.waiting = 0 ∧ q.fail = none ∧ qEf q.block = 2 ∧
     (q.dists.foldl (fun l y => insertKey y l) []) = [(5, 4)] ∧ q.w.length < qEf q.block ∧
     (insertKey (5, 4) q.w).take 2 = [(3, 2), (5, 4)] ∧ keyBefore (4, 8) (5, 4) = true ∧ keyBefore (9, 8) (5, 4) = false) ∧
    (let b : BitVec 1024 := BitVec.ofNat 1024 (2 ^ 576 + 2 ^ 592 + 2 ^ 608 + 0x2000 * 2 ^ 64 + 0x3000 * 2 ^ 128)
     let q : Query := { someQuery [] [(3, 2)] with block := b, status := some 0 }
     let s := keyed (State.reset.modStack 0 fun x => { x with queries := [q] })
     s.query 0 0 = some q ∧ q.status = some 0 ∧ queryOk b = true ∧ s.keyOf (nfield (qDst b) 52 7) = some 5 ∧
     s.keyOf (nfield (qFlag b) 52 7) = some 5 ∧ nfield (qDst b) 0 52 + 64 + 16 * qK b ≤ 2 ^ 40 ∧ nfield (qFlag b) 0 52 + 8 ≤ 2 ^ 40 ∧
     (nfield (qDst b) 0 52 + 64 + 16 * qK b + 63) / 64 * 64 ≤ nfield (qFlag b) 0 52 ∧ (0 : Nat) < 256 ∧ q.bad < 2 ^ 64 ∧
     ∀ e ∈ q.w, e.1 < 2 ^ 32 ∧ e.2 < 2 ^ 64) := by decide +kernel

end Sys2Proof.Tests
end

section
/-! PROOFS. The guard of scalar and engine slots (R299): every instruction that reads it takes the common course of slots, with one
condition on its encoding; what a quashed slot does is then a fact about that course alone. -/

namespace Sys2Proof.Machine

open Sys2Proof.Safety

/-! ### The common course of a slot -/

/-- A slot whose guard is false and whose shared checks pass is quashed (R299). -/
theorem issueSlot_quashed {s : State} {i : Instr} (h : admitted s i false = true) (body : State → State) :
    issueSlot s i false false body = nextSlot s s.cur := by
  rw [issueSlot_admitted h]
  exact if_neg Bool.false_ne_true

/-- A legal slot that a rule of the open span forbids traps with its sub-cause (R225, R302). -/
theorem issueSlot_spanCheck {s : State} {i : Instr} {live : Bool} {n : Nat} (h : spanCheck (s.core s.cur) i live = some n)
    (body : State → State) : issueSlot s i false live body = spanFault s s.cur n 0 := by
  simp only [issueSlot, h]
  exact if_neg Bool.false_ne_true

/-- The guard of a scalar or engine slot is bit 0 of p(pg) XOR ng (R299). -/
theorem liveGuard_eq_xor (s : State) (i : Instr) :
    liveGuard s i = (((regs s).rp (guardReg i).1.toNat).getLsbD 0 ^^ ((guardReg i).2 == 1)) :=
  congrFun₂ Bool.bne_eq_xor _ _

/-! ### Encodings that raise ILL -/

/-- The condition under which a scalar floating-point operation raises ILL, as encodingOk spells it (R208, R325, R328). -/
theorem fpOp_ill (f : SR) (rounds other : Bool) :
    (fpType f == 3 || (rounds && decide (6 ≤ nfield f.fn 0 3)) || other) =
      !(fpType f != 3 && (!rounds || decide (nfield f.fn 0 3 < 6)) && !other) := by
  simp only [bne, ← Nat.not_lt, decide_not, Bool.not_and, Bool.not_or, Bool.not_not]

/-- The codes that no atomic has (R354). -/
theorem not_atomCode (n : Nat) : (!atomCode n) = (n == 7 || decide (11 ≤ n)) := by
  rw [Bool.eq_iff_iff]
  simp [atomCode]
  omega

/-- The numbers absent from R340 are those under which nothing can be read. -/
theorem sysRead_isNone (s : State) (q n : Nat) : (sysRead s q n).isNone = !registerNumber n := by
  rw [Bool.eq_iff_iff]
  simp [sysRead, registerNumber, apply_ite Option.isNone, Bool.if_false_left]
  omega

/-! ### Instructions with a scalar guard -/

/-- The instruction takes the common course of a slot: its encoding decides about ILL, and outside a walk its guard about the rest. -/
def IssuesGuarded (i : Instr) (s : State) : Prop :=
  ∃ live body, ((regs s).walking = false → live = liveGuard s i) ∧ exec i s = .next (issueSlot s i (guardedIll i) live body)

/-- An instruction that issues under its guard alone. -/
theorem IssuesGuarded.of_exec {i : Instr} {s : State} {ill : Bool} {body : State → State} (hill : ill = guardedIll i)
    (h : exec i s = .next (issueSlot s i ill (liveGuard s i) body)) : IssuesGuarded i s :=
  ⟨_, body, fun _ => rfl, hill ▸ h⟩

/-- An operation that writes one scalar register; no encoding of it is illegal. -/
theorem IssuesGuarded.of_scalarOp {i : Instr} {s : State} {lat : Nat} {d : BitVec 6} {v : Arch → Word} (hill : guardedIll i = false)
    (h : exec i s = .next (scalarOp i lat d v s)) : IssuesGuarded i s := .of_exec hill.symm h

/-- An operation that writes one predicate. -/
theorem IssuesGuarded.of_predOp {i : Instr} {s : State} {ill : Bool} {d : BitVec 6} {v : Arch → Pred × Pred}
    (hill : ill = guardedIll i) (h : exec i s = .next (predOp i ill d v s)) : IssuesGuarded i s := .of_exec hill h

/-- A scalar floating-point operation that writes a scalar register. -/
theorem IssuesGuarded.of_fpOp {i : Instr} {s : State} {f : SR} {rounds other : Bool} {lat : Nat} {v : Arch → RMode → Nat → Nat}
    (hill : (!(fpType f != 3 && (!rounds || decide (nfield f.fn 0 3 < 6)) && !other)) = guardedIll i)
    (h : exec i s = .next (fpOp i f rounds other lat v s)) : IssuesGuarded i s :=
  .of_exec ((fpOp_ill f rounds other).trans hill) h

/-- A walk replays SPAN whatever its guard; outside a walk SPAN issues under its guard alone. -/
theorem span_issuesGuarded (f : ER) (s : State) : IssuesGuarded (.span f) s :=
  ⟨_, _, fun hw => (congrArg (liveGuard s (.span f) || ·) hw).trans (Bool.or_false _), rfl⟩

/-- Every instruction with a scalar guard takes the common course of a slot (R299). -/
theorem issuesGuarded_of_guarded {i : Instr} (h : guarded i = true) (s : State) : IssuesGuarded i s := by
  cases i with
  -- Integer operations of registers and immediates.
  | add f | sub f | mul f | mulh f | mulhn f | div f | divn f | rem f | remn f | andx f | orx f | xorx f | andn f | shl f | shr f
  | sra f | rot f | clz f | ctz f | popc f | min f | max f | minn f | maxn f | ext f | extn f | ins f | sel f | ptox f | addi f
  | andi f | ori f | xori f | shli f | shri f | srai f | roti f | lea f => exact .of_scalarOp rfl rfl
  -- Comparisons and operations on predicates.
  | plog f | xtop f | pcmpiEq f | pcmpiNe f | pcmpiLt f | pcmpiLe f | pcmpiGt f | pcmpiGe f | pcmpiLtn f | pcmpiLen f | pcmpiGtn f
  | pcmpiGen f => exact .of_predOp (ill := false) rfl rfl
  | pcmp f => exact .of_predOp (by simp only [guardedIll, encodingOk, ← Nat.not_lt, decide_not]) rfl
  -- Scalar floating point.
  | fadd f | fsub f | fmul f | ffma f | fdiv f | fsqrt f | fmin f | fmax f | fcvt f =>
    exact .of_fpOp (by simp [guardedIll, encodingOk, bne]) rfl
  | fcmp f => exact .of_predOp (Bool.not_not _).symm rfl
  -- Loads, stores, fences, waits and range operations.
  | ldb f | ldbn f | ldh f | ldhn f | ldw f | ldwn f | ldd f | stb f | sth f | stw f | std f | ldbAcq f | ldbnAcq f | ldhAcq f
  | ldhnAcq f | ldwAcq f | ldwnAcq f | lddAcq f | stbRel f | sthRel f | stwRel f | stdRel f | cas f | fenceAcq f | fenceRel f
  | fenceFull f | fenceRed f | fenceEng f | waita f | cwb f | cinv f | cwbi f | pfr f => exact .of_exec rfl rfl
  | amo f => exact .of_exec (congrArg (· || _) (not_atomCode _)) rfl
  | red f => exact .of_exec (by simp only [guardedIll, not_atomCode]; ac_rfl) rfl
  -- Control and system registers.
  | br f | brl f | jr f | jrl f | loop f | loopx f | idle f | seg f | rgn f | tend f | isync f | tret f => exact .of_exec rfl rfl
  | sysr f | sysw f => exact .of_exec (sysRead_isNone _ _ _) rfl
  -- Engines.
  | sftab f | coll f | shpin f | shrel f | nnq f | tspawn f | natm f | ovl f | pparm f => exact .of_exec rfl rfl
  | span f => exact span_issuesGuarded f s
  -- Every other instruction has no scalar guard or enters a cell queue.
  | _ => exact Bool.noConfusion h

/-! ### The statement -/

/-- Settles O21: each clause is what the common course of a slot does at one of its checks. -/
theorem quashedSlots : Obligations.QuashedSlots := by
  intro s i hi
  obtain ⟨live, body, hlive, hexec⟩ := issuesGuarded_of_guarded hi s
  refine ⟨liveGuard_eq_xor s i, fun hill => ?_, fun hill hg hw hadm => ?_, fun hill n hspan hw => ?_⟩
  · rw [hexec, hill, issueSlot_ill]
  · rw [hexec, hill, hlive hw, hg, issueSlot_quashed hadm]
  · rw [hexec, hill, hlive hw, issueSlot_spanCheck hspan]

end Sys2Proof.Machine
end

section
/-! PROOFS. Slots that compute one register or predicate (R313): what such a slot leaves when it runs, and the values of divisions, bit
fields, selections, predicates, immediates and comparisons (R317 to R324). -/

namespace Sys2Proof.Machine

open Sys2Proof.Safety

/-! ### Slots that run -/

/-- A slot that takes the common course under its guard alone runs its body. -/
theorem exec_issueSlot_runs {s : State} {i : Instr} {body : State → State}
    (he : exec i s = .next (issueSlot s i false (liveGuard s i) body)) (h : Runs s i) : exec i s = .next (body s) := by
  rw [he, issueSlot_runs h]

/-- A slot that takes the common course under its guard alone is quashed by it. -/
theorem exec_issueSlot_quashed {s : State} {i : Instr} {ill : Bool} {body : State → State}
    (he : exec i s = .next (issueSlot s i ill (liveGuard s i) body)) (hill : ill = false) (h : admitted s i false = true)
    (hg : liveGuard s i = false) : exec i s = .next (nextSlot s s.cur) := by
  rw [he, hill, hg, issueSlot_quashed h]

/-- A slot that computes one scalar register leaves the value it computes from the registers of its core. -/
theorem exec_scalarOp {s : State} {i : Instr} {lat : Nat} {d : BitVec 6} {v : Arch → Word} {w : Word}
    (he : exec i s = .next (scalarOp i lat d v s)) (hv : v (regs s) = w) (h : Runs s i) :
    exec i s = .next (scalarResult s i lat d w) := by
  subst hv
  exact exec_issueSlot_runs he h

/-- A slot that computes bits of a predicate leaves the value and the mask it computes from the registers of its core. -/
theorem exec_predOp {s : State} {i : Instr} {ill : Bool} {d : BitVec 6} {v : Arch → Pred × Pred} {p m : Pred}
    (he : exec i s = .next (predOp i ill d v s)) (hill : ill = false) (hv : v (regs s) = (p, m)) (h : Runs s i) :
    exec i s = .next (predResult s d p m) := by
  subst hill
  refine (exec_issueSlot_runs he h).trans ?_
  rw [show v (s.core s.cur).arch = (p, m) from hv]
  rfl

/-- An instruction with a scalar guard whose encoding is illegal raises ILL, whatever its guard (R299, R303). -/
theorem exec_guardedIll {s : State} {i : Instr} (hg : guarded i = true) (hill : guardedIll i = true) :
    exec i s = .next (illTrap s s.cur) := by
  obtain ⟨live, body, -, he⟩ := issuesGuarded_of_guarded hg s
  rw [he, hill, issueSlot_ill]

/-- An instruction without a guard has guard p0, which is true. -/
theorem liveGuard_of_unguarded {i : Instr} (h : guardReg i = (0, 0)) (s : State) : liveGuard s i = true := by
  simp [liveGuard, h, Arch.guardTrue, Arch.rp]

/-! ### Division (R317) -/

/-- The cases of div. -/
theorem divS_eq (a b : Word) : divS a b =
    if b = 0 then 0xFFFFFFFFFFFFFFFF
    else if a = 0x8000000000000000 ∧ b = 0xFFFFFFFFFFFFFFFF then 0x8000000000000000
    else BitVec.ofInt 64 (a.toInt.tdiv b.toInt) := by
  unfold divS
  split
  · rfl
  · split
    · next h => rw [h.1, h.2]; decide
    · rfl

/-- The cases of rem, whose remainder is what the quotient leaves. -/
theorem remS_eq (a b : Word) : remS a b =
    if b = 0 then a
    else if a = 0x8000000000000000 ∧ b = 0xFFFFFFFFFFFFFFFF then 0
    else BitVec.ofInt 64 (a.toInt - b.toInt * a.toInt.tdiv b.toInt) := by
  unfold remS
  split
  · rfl
  · split
    · next h => rw [h.1, h.2]; decide
    · rw [Int.tmod_def]

/-- The cases of divn. -/
theorem divN_eq (a b : Word) :
    divN a b = if b = 0 then BitVec.ofNat 64 (2 ^ 64 - 1) else BitVec.ofNat 64 (a.toNat / b.toNat) := by
  rw [divN, BitVec.udiv_def]
  rfl

/-- The cases of remn. -/
theorem remN_eq (a b : Word) : remN a b = if b = 0 then a else BitVec.ofNat 64 (a.toNat % b.toNat) := by
  unfold remN
  rw [BitVec.umod_def]

/-- Settles O14: the model's divisions are the cases of R317. -/
theorem division : Obligations.Division := by
  intro s f
  refine ⟨?_, ?_, ?_, ?_⟩
  · exact exec_scalarOp rfl (divS_eq _ _)
  · exact exec_scalarOp rfl (remS_eq _ _)
  · exact exec_scalarOp rfl (divN_eq _ _)
  · exact exec_scalarOp rfl (remN_eq _ _)

/-! ### Bit fields (R318) -/

/-- The signed value of a code of width w is that of the word that holds it. -/
theorem signedOf_toNat {w : Nat} (hw : 0 < w) (x : BitVec w) : signedOf w x.toNat = x.toInt := by
  obtain ⟨n, rfl⟩ : ∃ n, w = n + 1 := ⟨w - 1, by omega⟩
  rw [BitVec.toInt_eq_toNat_cond, signedOf, Nat.add_sub_cancel]
  push_cast [pow_succ]
  split <;> split <;> omega

/-- The width of a field of R318, which bit 63 ends. -/
def fieldWidth (f : SR) : Nat := min (f.fn.toNat % 64 + 1) (64 - f.b.toNat)

theorem fieldWidth_pos (f : SR) : 0 < fieldWidth f := by
  have := f.b.isLt
  unfold fieldWidth
  omega

theorem fieldWidth_le (f : SR) : fieldWidth f ≤ 64 := by
  unfold fieldWidth
  omega

/-- The field as a word holds the bits that R318 names. -/
theorem toNat_bitField (f : SR) (a : Word) :
    (bitField f a).2.toNat = (a.extractLsb' f.b.toNat (fieldWidth f)).toNat := by
  rw [BitVec.extractLsb'_toNat, Nat.shiftRight_eq_div_pow]
  refine BitVec.toNat_ofNat _ _ |>.trans (Nat.mod_eq_of_lt ?_)
  exact (Nat.mod_lt _ (Nat.two_pow_pos _)).trans_le (Nat.pow_le_pow_right (by decide) (fieldWidth_le f))

/-- The value of EXT. -/
theorem signFrom_bitField (f : SR) (a : Word) :
    signFrom (bitField f a).1 (bitField f a).2 = (a.extractLsb' f.b.toNat (fieldWidth f)).signExtend 64 := by
  rw [signFrom, toNat_bitField]
  exact congrArg (BitVec.ofInt 64) (signedOf_toNat (fieldWidth_pos f) _)

/-- A word whose low w bits are set. -/
theorem toNat_lowOnes {w : Nat} (h : w ≤ 64) : (BitVec.ofNat 64 (2 ^ w - 1)).toNat = 2 ^ w - 1 := by
  have h1 := Nat.two_pow_pos w
  have h2 := Nat.pow_le_pow_right (n := 2) (by decide) h
  exact Nat.mod_eq_of_lt (by omega)

/-- The value of EXTN. -/
theorem bitField_snd (f : SR) (a : Word) :
    (bitField f a).2 = (a >>> f.b.toNat) &&& BitVec.ofNat 64 (2 ^ fieldWidth f - 1) := by
  refine BitVec.eq_of_toNat_eq ?_
  rw [toNat_bitField, BitVec.extractLsb'_toNat, BitVec.toNat_and, toNat_lowOnes (fieldWidth_le f), Nat.and_two_pow_sub_one_eq_mod,
    BitVec.toNat_ushiftRight]

/-- Settles O15: the model's fields are those of R318. -/
theorem bitFields : Obligations.BitFields := by
  intro s f
  refine ⟨?_, ?_, ?_⟩
  · exact exec_scalarOp rfl (signFrom_bitField f _)
  · exact exec_scalarOp rfl (bitField_snd f _)
  · exact exec_scalarOp rfl rfl

/-! ### Selections and predicates (R319, R323, R324) -/

/-- The low bits of a field as a number. -/
theorem toNat_low {n : Nat} (f : BitVec n) (k : Nat) : (f.extractLsb' 0 k).toNat = f.toNat % 2 ^ k := by
  rw [BitVec.extractLsb'_toNat, Nat.shiftRight_zero]

/-- The condition of SEL. -/
theorem selects_eq (f : SR) (a : Arch) :
    selects f a = ((a.rp (f.fn.extractLsb' 0 5).toNat).getLsbD 0 ^^ f.fn.getLsbD 5) := by
  rw [toNat_low]
  exact congrFun₂ Bool.bne_eq_xor _ _

/-- Bit j of PLOG's result is the entry of its table that the bits j of its sources select. -/
theorem getLsbD_plogBits (t : Nat) (a b : Pred) {j : Nat} (hj : j < 512) :
    (plogBits t a b).getLsbD j = t.testBit (2 * (a.getLsbD j).toNat + (b.getLsbD j).toNat) := by
  have entry (c : Bool) (x : Pred) : (if c then x else 0).getLsbD j = (c && x.getLsbD j) := by cases c <;> simp
  simp only [plogBits, BitVec.getLsbD_or, entry, BitVec.getLsbD_and, BitVec.getLsbD_not, hj, decide_true, Bool.true_and]
  cases a.getLsbD j <;> cases b.getLsbD j <;> simp

/-- PLOG's table is fn[3:0]. -/
theorem testBit_table (f : SR) (a b : Bool) :
    (f.fn.toNat % 16).testBit (2 * a.toNat + b.toNat) = f.fn.getLsbD (2 * a.toNat + b.toNat) := by
  rw [show 16 = 2 ^ 4 from rfl, Nat.testBit_mod_two_pow, BitVec.getLsbD]
  cases a <;> cases b <;> rfl

/-- A word moved to chunk k of a predicate. -/
theorem getLsbD_chunk (v : Word) (k : Nat) {j : Nat} (hj : j < 512) :
    (v.setWidth 512 <<< (64 * k)).getLsbD j = (decide (j / 64 = k) && v.getLsbD (j % 64)) := by
  rw [BitVec.getLsbD_shiftLeft, BitVec.getLsbD_setWidth]
  by_cases h : j / 64 = k
  · subst h
    rw [show j - 64 * (j / 64) = j % 64 by omega]
    simp [hj, show ¬ j < 64 * (j / 64) by omega, show j % 64 < 512 by omega]
  · by_cases hl : j < 64 * k
    · simp [h, hl]
    · simp [h, BitVec.getLsbD_of_ge v (j - 64 * k) (by omega)]

/-- A word in every chunk up to chunk n. -/
theorem getLsbD_chunks (v : Word) (n : Nat) {j : Nat} (hj : j < 512) :
    ((List.range n).foldl (fun p i => p ||| (v.setWidth 512 <<< (64 * i))) 0 : Pred).getLsbD j
      = (decide (j / 64 < n) && v.getLsbD (j % 64)) := by
  induction n with
  | zero => simp
  | succ n ih =>
    rw [List.range_succ, List.foldl_append, List.foldl_cons, List.foldl_nil, BitVec.getLsbD_or, ih, getLsbD_chunk v n hj,
      ← Bool.and_or_distrib_right, ← Bool.decide_or]
    congr 2
    exact propext Nat.lt_succ_iff_lt_or_eq.symm

/-- XTOP's mask covers chunk k, or every chunk. -/
theorem getLsbD_xtopMask (f : SR) (v : Word) {j : Nat} (hj : j < 512) :
    (xtopBits f v).2.getLsbD j = (f.fn.getLsbD 3 || decide (j / 64 = f.fn.toNat % 8)) := by
  unfold xtopBits
  split
  · next h => rw [h, BitVec.getLsbD_allOnes, decide_eq_true hj, Bool.true_or]
  · next h =>
    rw [getLsbD_chunk _ _ hj, BitVec.getLsbD_allOnes, decide_eq_true (Nat.mod_lt j (by decide)), Bool.and_true,
      Bool.eq_false_iff.mpr h, Bool.false_or]

/-- Under its mask XTOP writes the source to each chunk. -/
theorem getLsbD_xtopValue (f : SR) (v : Word) {j : Nat} (hj : j < 512) (hm : (xtopBits f v).2.getLsbD j = true) :
    (xtopBits f v).1.getLsbD j = v.getLsbD (j % 64) := by
  rw [getLsbD_xtopMask f v hj, Bool.or_eq_true, decide_eq_true_eq] at hm
  unfold xtopBits
  split
  · rw [getLsbD_chunks v 8 hj, decide_eq_true (by omega), Bool.true_and]
  · next h =>
    rw [getLsbD_chunk v _ hj, decide_eq_true (hm.resolve_left h), Bool.true_and]

/-- Settles O16: the bits of SEL, PLOG, XTOP and PTOX one by one. -/
theorem selectAndPredicates : Obligations.SelectAndPredicates := by
  refine ⟨fun s f h => ?_, fun s f h => ⟨_, exec_predOp rfl rfl rfl h, fun j hj => ?_⟩, fun s f => ⟨fun h => ?_, fun h => ?_⟩⟩
  · exact exec_scalarOp rfl (by rw [selects_eq]) h
  · rw [getLsbD_plogBits _ _ _ hj, testBit_table]
    rfl
  · refine ⟨(xtopBits f _).1, (xtopBits f _).2, exec_predOp rfl rfl rfl h, fun j hj => ⟨?_, getLsbD_xtopValue f _ hj⟩⟩
    rw [getLsbD_xtopMask f _ hj, toNat_low]
    rfl
  · exact exec_scalarOp rfl (by rw [toNat_low]; rfl) h

/-! ### Immediates (R320, R321) -/

/-- An instruction with an immediate leaves the value of its operation on the register and the sign-extended immediate (R314). -/
theorem exec_immOp {s : State} {i : Instr} {f : SI} {op : Word → Word → Word} {w : Word} (he : exec i s = .next (immOp i f op s))
    (hv : op ((regs s).rx f.a.toNat) (f.imm.signExtend 64) = w) (h : Runs s i) :
    exec i s = .next (scalarResult s i 1 f.d w) :=
  exec_scalarOp he hv h

/-- A shift by an immediate takes its low six bits. -/
theorem amount_signExtend (m : BitVec 14) : amount (m.signExtend 64) = (m.extractLsb' 0 6).toNat := by
  rw [toNat_low, amount, BitVec.toNat_signExtend, BitVec.toNat_setWidth]
  split <;> omega

/-- A rotation by an immediate. -/
theorem rotL_eq (a b : Word) : rotL a b = (a <<< amount b) ||| (a >>> (64 - amount b)) := by
  rw [rotL, BitVec.rotateLeft_def, Nat.mod_eq_of_lt (show amount b < 64 from Nat.mod_lt _ (by decide))]

/-- The halves that LI and LIH write make one signed value of 52 bits. -/
theorem lih_li_halves (hi lo : BitVec 26) :
    ((hi.signExtend 64 <<< 26) ||| (lo.signExtend 64 &&& 0x3FFFFFF) : Word) = (hi ++ lo : BitVec (26 + 26)).signExtend 64 := by
  have low (i : Nat) : (0x3FFFFFF : Word).getLsbD i = (decide (i < 64) && decide (i < 26)) := by
    rw [show (0x3FFFFFF : Word) = (BitVec.allOnes 26).setWidth 64 from rfl, BitVec.getLsbD_setWidth, BitVec.getLsbD_allOnes]
  have top : (hi ++ lo : BitVec (26 + 26)).msb = hi.msb := by rw [BitVec.msb_append]; rfl
  refine BitVec.eq_of_getLsbD_eq fun i hi64 => ?_
  rw [BitVec.getLsbD_or, BitVec.getLsbD_and, BitVec.getLsbD_shiftLeft, low, BitVec.getLsbD_signExtend, BitVec.getLsbD_signExtend,
    BitVec.getLsbD_signExtend, BitVec.getLsbD_append, top]
  by_cases h : i < 26
  · simp [h, hi64, show i < 52 by omega]
  · by_cases h' : i < 52
    · simp [h, h', hi64, show i - 26 < 26 by omega, show i - 26 < 64 by omega]
    · simp [h, h', hi64, show ¬ i - 26 < 26 by omega, show i - 26 < 64 by omega]

/-- LI and LIH run whenever their shared checks pass. -/
theorem runs_of_unguarded {s : State} {i : Instr} (hg : guardReg i = (0, 0)) (h : admitted s i true = true) : Runs s i :=
  ⟨h, liveGuard_of_unguarded hg s⟩

@[simp] theorem noteWrite_cur (s : State) (q : Nat) (i : Instr) : (noteWrite s q i).cur = s.cur := by
  unfold noteWrite
  split <;> rfl

@[simp] theorem writeX_cur (s : State) (q lat n : Nat) (v : Word) : (writeX s q lat n v).cur = s.cur := by
  unfold writeX
  split <;> rfl

/-- Remembering a write changes of its core only what the open span remembers. -/
theorem core_noteWrite (s : State) (q : Nat) (i : Instr) :
    ∃ w, (noteWrite s q i).core q = { s.core q with arch := { (s.core q).arch with spanWrites := w } } := by
  unfold noteWrite
  split
  · exact ⟨_, by rw [State.modArch_eq, State.core_setCore]⟩
  · exact ⟨_, rfl⟩

/-- A scalar result changes of its core only what is under way. -/
theorem core_writeX (s : State) (q lat n : Nat) (v : Word) :
    ∃ l, (writeX s q lat n v).core q = { s.core q with arch := { (s.core q).arch with pend := l } } := by
  unfold writeX writeLater
  split
  · exact ⟨_, rfl⟩
  · exact ⟨_, by rw [State.modCore_eq, State.core_setCore]⟩

/-- Before its last slot ends, a bundle reads registers as they were: a result is under way until its cycle (R309, R313). -/
theorem rx_scalarResult {s : State} (h : (s.core s.cur).slot < 4) (i : Instr) (lat : Nat) (d : BitVec 6) (v : Word) (n : Nat) :
    (regs (scalarResult s i lat d v)).rx n = (regs s).rx n := by
  obtain ⟨w, hw⟩ := core_noteWrite s s.cur i
  obtain ⟨l, hl⟩ := core_writeX (noteWrite s s.cur i) s.cur lat d.toNat v
  rw [hw] at hl
  rw [scalarResult, nextSlot_of_lt (by rw [hl]; exact h), regs, State.setCore_cur, writeX_cur, noteWrite_cur, State.core_setCore, hl]
  rfl

/-- Settles O17: the immediates of R320, and the halves of R321. -/
theorem immediates : Obligations.Immediates := by
  refine ⟨fun s f => ?_, fun s f => ⟨?_, ?_, lih_li_halves f.imm, fun v n h => rx_scalarResult h _ _ _ v n⟩⟩
  · refine ⟨exec_immOp rfl rfl, exec_immOp rfl rfl, exec_immOp rfl rfl, exec_immOp rfl rfl, exec_immOp rfl ?_, exec_immOp rfl ?_,
      exec_immOp rfl ?_, exec_immOp rfl ?_, exec_immOp rfl ?_⟩
    · exact congrArg (_ <<< ·) (amount_signExtend _)
    · exact congrArg (_ >>> ·) (amount_signExtend _)
    · exact congrArg (BitVec.sshiftRight _) (amount_signExtend _)
    · exact (rotL_eq _ _).trans (by rw [amount_signExtend])
    · exact congrArg (_ + ·) (BitVec.mul_comm _ _)
  · exact fun h => exec_scalarOp rfl rfl (runs_of_unguarded rfl h)
  · exact fun h => exec_scalarOp rfl rfl (runs_of_unguarded rfl h)

/-! ### Comparisons (R322) -/

/-- The conditions of the model, which compare codes, are those of R322. -/
theorem intCond_toNat {c : Nat} (hc : c < 10) (a b : Word) : intCond 64 c a.toNat b.toNat = condition c a b := by
  have ha : (if a.toNat < 2 ^ (64 - 1) then (a.toNat : Int) else (a.toNat : Int) - 2 ^ 64) = a.toInt := signedOf_toNat (by decide) a
  have hb : (if b.toNat < 2 ^ (64 - 1) then (b.toNat : Int) else (b.toNat : Int) - 2 ^ 64) = b.toInt := signedOf_toNat (by decide) b
  unfold intCond
  simp only [ha, hb]
  interval_cases c
  · exact decide_eq_decide.mpr BitVec.toNat_inj
  · exact (congrArg not (decide_eq_decide.mpr BitVec.toNat_inj)).trans (decide_not ..).symm
  all_goals rfl

/-- A comparison with an immediate runs. -/
theorem exec_pcmpImm {s : State} {i : Instr} {c : Nat} {f : SI} {m : Word} (he : exec i s = .next (pcmpImm i c f s)) (hc : c < 10)
    (hm : (if c < 6 then f.imm.signExtend 64 else f.imm.setWidth 64) = m) (h : Runs s i) :
    exec i s = .next (predResult s f.d (predOf (condition c ((regs s).rx f.a.toNat) m)) (BitVec.allOnes 512)) :=
  exec_predOp he rfl (by subst hm; exact congrArg (predOf · , _) (intCond_toNat hc _ _)) h

/-- Settles O18: one condition for both instructions, and the codes that have none. -/
theorem comparisons : Obligations.Comparisons := by
  refine ⟨fun s f => ⟨fun hc h => ?_, fun hc => ?_⟩, fun s f => ?_⟩
  · exact exec_predOp rfl (decide_eq_false (by omega)) (by rw [intCond_toNat hc]) h
  · exact exec_guardedIll rfl (by simpa [guardedIll, encodingOk] using hc)
  · refine ⟨?_, ?_, ?_, ?_, ?_, ?_, ?_, ?_, ?_, ?_⟩
    all_goals exact exec_pcmpImm rfl (by decide) rfl

end Sys2Proof.Machine
end

section
/-! PROOFS. Control of issue: branches and their links (R329), the loops that LOOP and LOOPX open (R330, R331), and the choice of the
next bundle at the end of a bundle (R332). -/

namespace Sys2Proof.Machine

open Sys2Proof.Safety

/-! ### Branches (R329) -/

/-- Bundle indices wrap modulo 2,048, so the sign of a branch's immediate of 14 bits does not matter. -/
theorem branchTarget_eq (c : CoreSt) (imm : BitVec 14) : branchTarget c imm = (c.arch.pc + imm.toNat) % 2048 := by
  have := imm.isLt
  rw [branchTarget, BitVec.toInt_eq_toNat_cond]
  split <;> omega

/-- A branch without a link that runs is taken. -/
theorem exec_branchOp {s : State} {i : Instr} {target : CoreSt → Nat} {g : Nat} (he : exec i s = .next (branchOp i target none s))
    (ht : target (s.core s.cur) = g) (h : Runs s i) :
    exec i s = .next (nextSlot (s.modCore s.cur fun c => { c with taken := some g }) s.cur) := by
  subst ht
  exact exec_issueSlot_runs he h

/-- A branch with a link that runs is taken and writes the index of the bundle that follows. -/
theorem exec_branchOp_link {s : State} {i : Instr} {target : CoreSt → Nat} {d : BitVec 6} {g : Nat}
    (he : exec i s = .next (branchOp i target (some d) s)) (ht : target (s.core s.cur) = g) (h : Runs s i) :
    exec i s = .next (nextSlot (writeX (s.modCore s.cur fun c => { c with taken := some g }) s.cur 1 d.toNat
      (BitVec.ofNat 64 (((regs s).pc + 1) % 2048))) s.cur) := by
  subst ht
  exact exec_issueSlot_runs he h

/-- Without a KEY the next bundle issues a cycle later, two more after a taken branch, and the cycles of an IDLE (R144, R333). -/
theorem endBundle_issueAt {c : CoreSt} (hk : c.keyBase = none) (pcc : Nat) :
    (endBundle c pcc).issueAt = max (pcc + 1 + (if c.taken.isSome then 2 else 0) + c.idleAdd) c.issueAt := by
  simp only [endBundle, hk]

/-- Settles O23: targets, links, quashed branches and the cost of a taken one. -/
theorem branches : Obligations.Branches := by
  intro s
  refine ⟨fun f => ⟨?_, ?_, ?_, ?_⟩, fun f => ⟨?_, ?_, ?_, ?_⟩, fun c pcc g hg hk => ?_⟩
  · exact exec_branchOp rfl (branchTarget_eq _ _)
  · exact exec_branchOp_link rfl (branchTarget_eq _ _)
  · exact exec_issueSlot_quashed rfl rfl
  · exact exec_issueSlot_quashed rfl rfl
  · exact exec_branchOp rfl (toNat_low _ 11).symm
  · exact exec_branchOp_link rfl (toNat_low _ 11).symm
  · exact exec_issueSlot_quashed rfl rfl
  · exact exec_issueSlot_quashed rfl rfl
  · rw [endBundle_issueAt hk, hg]
    rfl

/-! ### Loops open (R330, R331) -/

/-- What a loop of count m and offset o leaves of a core, for its counter n (R331): nothing but the counter, the note of an open span and,
for count 0, a branch past the body. -/
def LoopOpened (c u : CoreSt) (n m o : Nat) : Prop :=
  u = { c with slot := 1, taken := u.taken, arch := { c.arch with lc := u.arch.lc, spanLoops := u.arch.spanLoops } } ∧
  (∀ k, k ≠ n → sget LoopCtr.zero u.arch.lc k = sget LoopCtr.zero c.arch.lc k) ∧
  (let l := sget LoopCtr.zero u.arch.lc n
   l.first.toNat = (c.arch.pc + 1) % 2048 ∧ l.last.toNat = (c.arch.pc + o) % 2048 ∧
   (m = 0 → l.active = false ∧ u.taken = some ((c.arch.pc + o + 1) % 2048)) ∧
   (m ≠ 0 → l.active = true ∧ l.value.toNat = m - 1 ∧ u.taken = c.taken))

/-- The counter that openLoop names. -/
theorem sget_openLoop_self (c : CoreSt) (n m o : Nat) (reg : Option Nat) :
    sget LoopCtr.zero (openLoop c n m o reg).arch.lc n =
      { value := if m = 0 then (sget LoopCtr.zero c.arch.lc n).value else BitVec.ofNat 32 (m - 1)
        first := BitVec.ofNat 11 (c.arch.pc + 1), last := BitVec.ofNat 11 (c.arch.pc + o), active := decide (m ≠ 0) } := by
  by_cases h : m = 0 <;> simp [openLoop, h]

/-- Every other counter stays. -/
theorem sget_openLoop_of_ne {k n : Nat} (hk : k ≠ n) (c : CoreSt) (m o : Nat) (reg : Option Nat) :
    sget LoopCtr.zero (openLoop c n m o reg).arch.lc k = sget LoopCtr.zero c.arch.lc k := by
  by_cases h : m = 0 <;> simp [openLoop, h, sget_sset_of_ne hk]

/-- A loop of count 0 branches past its body; any other count leaves the choice of the next bundle. -/
theorem openLoop_taken (c : CoreSt) (n m o : Nat) (reg : Option Nat) :
    (openLoop c n m o reg).taken = if m = 0 then some ((c.arch.pc + o + 1) % 2048) else c.taken := rfl

/-- openLoop, and the slot after slot A. -/
theorem openLoop_opened (c : CoreSt) (n : Nat) {m : Nat} (hm : m < 2 ^ 32) (o : Nat) (reg : Option Nat) :
    LoopOpened c { openLoop c n m o reg with slot := 1 } n m o := by
  refine ⟨rfl, fun k hk => sget_openLoop_of_ne hk c m o reg, ?_⟩
  dsimp only
  rw [sget_openLoop_self, openLoop_taken]
  refine ⟨BitVec.toNat_ofNat .., BitVec.toNat_ofNat .., fun h => ?_, fun h => ?_⟩
  · exact ⟨by simp [h], if_pos h⟩
  · refine ⟨by simp [h], ?_, if_neg h⟩
    simp only [if_neg h, BitVec.toNat_ofNat]
    omega

theorem onlyCores_refl (s : State) : OnlyCores s s := rfl

/-- Writing a core changes nothing but the cores. -/
theorem onlyCores_setCore {s t : State} (h : OnlyCores s t) (q : Nat) (c : CoreSt) : OnlyCores s (t.setCore q c) := h

/-- A control slot that a walk does not skip runs its body on its core. -/
theorem exec_controlOp_walked {s : State} {i : Instr} {body : CoreSt → CoreSt}
    (he : exec i s = .next (controlOp i false (liveGuard s i) true body s)) (h : Runs s i) :
    exec i s = .next (nextSlot (s.setCore s.cur (body (s.core s.cur))) s.cur) := by
  refine (exec_issueSlot_runs he h).trans ?_
  simp only [Bool.not_true, Bool.and_false, if_neg Bool.false_ne_true]

/-- LOOP and LOOPX run outside and inside a walk, change only their core, and open their loop there. -/
theorem exec_opens {s : State} {i : Instr} {ill : Bool} {n m o : Nat} {reg : Option Nat}
    (he : exec i s = .next (controlOp i ill (liveGuard s i) true (fun c => openLoop c n m o reg) s)) (hill : ill = false)
    (hm : m < 2 ^ 32) (hr : Runs s i) (hs : (s.core s.cur).slot = 0) :
    ∃ t, exec i s = .next t ∧ OnlyCores s t ∧ (∀ q, q ≠ s.cur → t.core q = s.core q) ∧
      LoopOpened (s.core s.cur) (t.core s.cur) n m o := by
  have hb : exec i s = .next (nextSlot (s.setCore s.cur (openLoop (s.core s.cur) n m o reg)) s.cur) := by
    subst hill
    exact exec_controlOp_walked he hr
  have hslot : (openLoop (s.core s.cur) n m o reg).slot = 0 := hs
  rw [nextSlot_of_lt (by rw [State.core_setCore, hslot]; decide), State.core_setCore, hslot] at hb
  refine ⟨_, hb, onlyCores_setCore (onlyCores_setCore (onlyCores_refl s) _ _) _ _, fun q hq => ?_, ?_⟩
  · rw [State.core_setCore_of_ne hq, State.core_setCore_of_ne hq]
  · rw [State.core_setCore]
    exact openLoop_opened (s.core s.cur) n hm o reg

/-- LOOP's encoding is legal where its count and offset are not 0 (R330). -/
theorem loop_legal {f : SI} (hm : f.imm ≠ 0) (ho : f.a ≠ 0) : (f.imm == 0 || f.a == 0) = false := by
  rw [Bool.or_eq_false_iff]
  exact ⟨beq_false_of_ne hm, beq_false_of_ne ho⟩

/-- Settles O24: both forms open their loop by one operation. -/
theorem loopOpen : Obligations.LoopOpen := by
  intro s
  refine ⟨fun f => ⟨fun hm ho hr hs _ => ?_, fun h => ?_⟩, fun f => ⟨fun ho hr hs _ => ?_, fun ho => ?_⟩, fun f hm ho => ?_,
    fun f ho => ?_⟩
  · rw [toNat_low]
    exact exec_opens rfl (loop_legal hm ho) (by omega) hr hs
  · exact exec_guardedIll rfl (by simpa [guardedIll] using h)
  · rw [toNat_low] at ho
    rw [toNat_low, toNat_low, toNat_low]
    exact exec_opens rfl (beq_false_of_ne ho) (Nat.mod_lt _ (by decide)) hr hs
  · rw [toNat_low] at ho
    exact exec_guardedIll rfl (beq_iff_eq.mpr ho)
  · exact exec_issueSlot_quashed rfl (loop_legal hm ho)
  · exact exec_issueSlot_quashed rfl (beq_false_of_ne ho)

/-! ### The next bundle (R332) -/

/-- The counters after the tests of a list of them at bundle e. -/
def tested (e : Nat) (lc : Sparse LoopCtr) (ns : List Nat) : Sparse LoopCtr :=
  ns.foldl (fun m n => sset LoopCtr.zero m n (loopTest (sget LoopCtr.zero m n) e).2) lc

/-- Each counter of the list is tested once, and no other. -/
theorem sget_tested (e : Nat) {ns : List Nat} (h : ns.Nodup) (lc : Sparse LoopCtr) (k : Nat) :
    sget LoopCtr.zero (tested e lc ns) k =
      if k ∈ ns then (loopTest (sget LoopCtr.zero lc k) e).2 else sget LoopCtr.zero lc k := by
  induction ns generalizing lc with
  | nil => rfl
  | cons n ns ih =>
    obtain ⟨hn, hns⟩ := List.nodup_cons.mp h
    refine (ih hns _).trans ?_
    by_cases hk : k = n
    · subst hk
      simp [hn]
    · simp [hk, sget_sset_of_ne hk]

/-- Counters that take no back edge are tested, and the choice goes on with those behind them. -/
theorem loopNext_append {e : Nat} {ns : List Nat} (hd : ns.Nodup) {lc : Sparse LoopCtr}
    (h : ∀ k ∈ ns, (loopTest (sget LoopCtr.zero lc k) e).1 = false) (r : List Nat) :
    loopNext lc e (ns ++ r) = loopNext (tested e lc ns) e r := by
  induction ns generalizing lc with
  | nil => rfl
  | cons n ns ih =>
    obtain ⟨hn, hns⟩ := List.nodup_cons.mp hd
    rw [List.cons_append, loopNext, h n List.mem_cons_self]
    refine ih hns fun k hk => ?_
    rw [sget_sset_of_ne (ne_of_mem_of_not_mem hk hn)]
    exact h k (List.mem_cons_of_mem _ hk)

/-- The counter that takes the back edge ends the tests. -/
theorem loopNext_backEdge {e n : Nat} {lc : Sparse LoopCtr} (h : (loopTest (sget LoopCtr.zero lc n) e).1 = true) (r : List Nat) :
    loopNext lc e (n :: r) = ((sget LoopCtr.zero lc n).first.toNat, tested e lc [n]) := by
  rw [loopNext, h]
  rfl

/-- A counter ends its loop at bundle e. -/
def endsAt (l : LoopCtr) (e : Nat) : Bool := l.active && l.last.toNat == e

/-- A test where the loop goes on. -/
theorem loopTest_back {l : LoopCtr} {e : Nat} (h : endsAt l e = true) (hv : l.value ≠ 0) :
    loopTest l e = (true, { l with value := l.value - 1 }) :=
  (if_pos h).trans (if_neg hv)

/-- A test where the loop exits, or of a loop that does not end here. -/
theorem loopTest_exit {l : LoopCtr} {e : Nat} (h : endsAt l e = true → l.value = 0) :
    loopTest l e = (false, if endsAt l e then { l with active := false } else l) := by
  by_cases he : endsAt l e = true
  · rw [if_pos he]
    exact (if_pos he).trans (if_pos (h he))
  · rw [if_neg he]
    exact if_neg he

/-- A taken branch chooses the next bundle and leaves the counters (R332). -/
theorem endBundle_taken {c : CoreSt} {g : Nat} (h : c.taken = some g) (pcc : Nat) :
    (endBundle c pcc).arch.pc = g % 2048 ∧ (endBundle c pcc).arch.lc = c.arch.lc := by
  simp only [endBundle, h, and_self]

/-- After TEND the run has ended, and no counter is tested (R337). -/
theorem endBundle_ending {c : CoreSt} (ht : c.taken = none) (he : c.ending = true) (pcc : Nat) :
    (endBundle c pcc).run = .ended ∧ (endBundle c pcc).arch.lc = c.arch.lc := by
  simp only [endBundle, ht, he, if_true, and_self]

/-- Without a taken branch and without TEND the counters choose the next bundle. -/
theorem endBundle_next {c : CoreSt} (ht : c.taken = none) (he : c.ending = false) (pcc : Nat) :
    ((endBundle c pcc).arch.pc, (endBundle c pcc).arch.lc) = loopNext c.arch.lc c.arch.pc [0, 1, 2, 3] := by
  simp only [endBundle, ht, he, if_neg Bool.false_ne_true]

/-- The four counters in the order of their tests, cut at one of them. -/
theorem counters_split : ∀ n < 4, [0, 1, 2, 3] = List.range n ++ n :: [0, 1, 2, 3].drop (n + 1) := by decide

/-- The lowest counter that is not at zero takes its back edge; counters below it exit, and those above stay (R332). -/
theorem endBundle_backEdge {c : CoreSt} (ht : c.taken = none) (he : c.ending = false) (pcc : Nat) {n : Nat} (hn : n < 4)
    (hb : (loopTest (sget LoopCtr.zero c.arch.lc n) c.arch.pc).1 = true)
    (hx : ∀ k < n, (loopTest (sget LoopCtr.zero c.arch.lc k) c.arch.pc).1 = false) :
    (endBundle c pcc).arch.pc = (sget LoopCtr.zero c.arch.lc n).first.toNat ∧
      ∀ k, sget LoopCtr.zero (endBundle c pcc).arch.lc k =
        if k ≤ n then (loopTest (sget LoopCtr.zero c.arch.lc k) c.arch.pc).2 else sget LoopCtr.zero c.arch.lc k := by
  have hsame : sget LoopCtr.zero (tested c.arch.pc c.arch.lc (List.range n)) n = sget LoopCtr.zero c.arch.lc n := by
    rw [sget_tested _ List.nodup_range, if_neg List.not_mem_range_self]
  have hnext := endBundle_next ht he pcc
  rw [counters_split n hn, loopNext_append List.nodup_range fun k hk => hx k (List.mem_range.mp hk),
    loopNext_backEdge (by rwa [hsame]), hsame, Prod.mk.injEq] at hnext
  obtain ⟨hpc, hlc⟩ := hnext
  refine ⟨hpc, fun k => ?_⟩
  rw [hlc, sget_tested _ (List.nodup_singleton n), sget_tested _ List.nodup_range]
  by_cases hk : k = n
  · subst hk
    simp
  · simp [hk, List.mem_range, Nat.le_iff_lt_or_eq]

/-- Where no counter takes a back edge the bundle that follows is next, and every counter is tested (R332). -/
theorem endBundle_follows {c : CoreSt} (ht : c.taken = none) (he : c.ending = false) (pcc : Nat)
    (hx : ∀ k < 4, (loopTest (sget LoopCtr.zero c.arch.lc k) c.arch.pc).1 = false) :
    (endBundle c pcc).arch.pc = (c.arch.pc + 1) % 2048 ∧
      ∀ k, sget LoopCtr.zero (endBundle c pcc).arch.lc k =
        if k < 4 then (loopTest (sget LoopCtr.zero c.arch.lc k) c.arch.pc).2 else sget LoopCtr.zero c.arch.lc k := by
  have hnext := endBundle_next ht he pcc
  rw [show [0, 1, 2, 3] = List.range 4 ++ [] from rfl,
    loopNext_append List.nodup_range fun k hk => hx k (List.mem_range.mp hk), loopNext, Prod.mk.injEq] at hnext
  obtain ⟨hpc, hlc⟩ := hnext
  refine ⟨hpc, fun k => ?_⟩
  rw [hlc, sget_tested _ List.nodup_range]
  simp only [List.mem_range]

/-- Settles O25: the counters are tested in ascending order up to the first back edge. (loopTest itself names the model's test of one
counter.) -/
theorem loopTest_settled : Obligations.LoopTest := by
  intro c pcc
  refine ⟨fun g hg => ?_, fun ht he => ?_, fun ht he => ⟨fun n hn hit hv hlow => ?_, fun hall => ?_, fun hk => ?_⟩⟩
  · obtain ⟨hpc, hlc⟩ := endBundle_taken hg pcc
    exact ⟨hpc, fun n => by rw [hlc]⟩
  · obtain ⟨hrun, hlc⟩ := endBundle_ending ht he pcc
    exact ⟨hrun, fun n => by rw [hlc]⟩
  · have hx (k : Nat) (hk : k < n) := loopTest_exit (e := c.arch.pc) (hlow k hk)
    have hb := loopTest_back hit hv
    obtain ⟨hpc, hm⟩ := endBundle_backEdge ht he pcc hn (by rw [hb]) fun k hk => by rw [hx k hk]
    refine ⟨hpc, ?_, fun k hk => ?_, fun k hk => ?_⟩
    · exact (hm n).trans (by rw [if_pos le_rfl, hb])
    · exact (hm k).trans (by rw [if_pos hk.le, hx k hk]; rfl)
    · exact (hm k).trans (if_neg hk.not_ge)
  · have hx (k : Nat) (hk : k < 4) := loopTest_exit (e := c.arch.pc) (hall k hk)
    obtain ⟨hpc, hm⟩ := endBundle_follows ht he pcc fun k hk => by rw [hx k hk]
    refine ⟨hpc, fun k => (hm k).trans ?_⟩
    by_cases hk : k < 4
    · rw [if_pos hk, hx k hk]
      simp only [hk, true_and]
      rfl
    · simp [hk]
  · rw [endBundle_issueAt hk, ht]
    rfl

end Sys2Proof.Machine
end
